-- ==== Sys2Proof/Word.lean ====
section
/-!
DEFINITION. Words, register operands and the operand record of a thread instruction, and the records that name the subject of an event.
Bit vectors stand for what the manual numbers as bits (04_instruction_encoding.md, R63 to R76).
-/
namespace Sys2Proof

abbrev Byte := BitVec 8
abbrev Half := BitVec 16
abbrev Word := BitVec 32
abbrev DWord := BitVec 64

/-- An instruction's length (R63): 64, 96 or 128 bits. -/
inductive Len where
  | w64 | w96 | w128
  deriving DecidableEq, Repr

/-- A register field with its kind bit (R68, R73): `crew` set names k(num), clear names v(num).
Where an entry says the field holds a resource number or a plain number, `num` is that number. -/
structure Reg where
  crew : Bool
  num : BitVec 7
  deriving DecidableEq, Repr

/-- The guard field (R65, R66): register, bit position and negate; all zero is *always*. -/
structure Guard where
  reg : BitVec 7
  bit : BitVec 5
  neg : Bool
  deriving DecidableEq, Repr

/-- The operands of a thread instruction as the encoding carries them (R65, R69 to R74): the control
group, the register fields with their kind bits, the modifier fields the entries number (mod, mod2) and
the immediate (I and W forms) or byte offset (A form). A field the form lacks is zero (R72). -/
structure Ops where
  len : Len
  flag : Option (Fin 12)
  wait : BitVec 12
  stall : BitVec 3
  guard : Guard
  vd : Reg
  vs1 : Reg
  vs2 : Reg
  vs3 : Reg
  vs4 : Reg
  mod : BitVec 20
  mod2 : BitVec 24
  imm : BitVec 64
  deriving DecidableEq, Repr

/-- A thread by its section group, block (group index), crew (index in block) and number (R17, R28). -/
structure TRef where
  g : Nat
  k : Nat
  c : Nat
  t : Nat
  deriving DecidableEq, Repr

/-- A block by its section group and group index (R36). -/
structure BRef where
  g : Nat
  k : Nat
  deriving DecidableEq, Repr

/-- A crew by its section group, block and crew index (R28). -/
structure CRef where
  g : Nat
  k : Nat
  c : Nat
  deriving DecidableEq, Repr

/-- A cox context by hub and number (R302). -/
structure CoxId where
  hub : Nat
  ctx : Nat
  deriving DecidableEq, Repr

/-- A physical line by its home hub and local line index (R251). -/
structure LineId where
  hub : Nat
  q : Nat
  deriving DecidableEq, Repr

/-- A barrier by scope (R185): of a block, of a section group, of a grid (launch number of the package). -/
inductive BarRef where
  | blk (g k id : Nat)
  | sec (g id : Nat)
  | dev (launch id : Nat)
  deriving DecidableEq, Repr

/-- The access kinds a peer request carries (R246). -/
inductive PeerKind where
  | read (acq : Bool)
  | write (rel : Bool) (data : List Byte)
  | atomic (op ty : Nat) (v w : DWord) (acq rel : Bool)
  | reduce (op ty : Nat) (v : DWord)
  /-- A read of a CTRWAIT with its target (R190). -/
  | counter (target : DWord)
  /-- An add to a progress counter, as a release: top where the exact sum reaches it (R219, R439). -/
  | counterAdd (n : DWord)
  deriving DecidableEq, Repr

/-- The race that a home chip found (R429): its CODE, the OTH byte, the stamp's identity, PC, sync and order clocks, and the access's sync and order clocks as the
home compared them. -/
structure PeerRace where
  code : Nat
  oth : Nat
  oid : Word
  opc : Word
  os : Word
  oo : Word
  s : Word
  o : Word
  deriving DecidableEq, Repr

/-- A peer request (R246): issuing context's ASID, 48-bit VA, access size, kind, scope, the thread's
identity, PC, order, sync and pending acquire clocks and fence scope. `src` is the issuing chip. -/
structure PeerReq where
  id : Nat
  src : BitVec 8
  asid : BitVec 16
  va : BitVec 48
  size : Nat
  kind : PeerKind
  scope : Nat
  ident : Word
  pc : DWord
  o : Word
  s : Word
  pa : Word
  fs : Option Nat
  /-- The issuing party is an engine operation (R195). -/
  engine : Bool
  /-- A race of it traps (R427): the home leaves a racing access unperformed (log entry 46). -/
  precise : Bool
  /-- The lanes of one pass on one line form a group (R168): the number of its first request, and how many it has. -/
  group : Nat × Nat
  deriving DecidableEq, Repr

/-- The key of an XRED chunk (R441): issuing chip, core and slot as they stood at the command's issue, the block's XRED count, chunk index. -/
structure ChunkKey where
  chip : BitVec 8
  core : Nat
  slot : Nat
  count : Nat
  chunk : Nat
  /-- The MODEL'S OWN: serial number of the command, so that two blocks which one slot has held share no key (log entry 32). -/
  cmd : Nat
  deriving DecidableEq, Repr

/-- A response this package sent to another chip's request (R246): its fault (class 2 CODE + 256 × DETAIL, 0 for none), data, clocks, the
release scope of a dropped acquire (R60), and the race found (R430). -/
structure PeerAns where
  id : Nat
  dst : BitVec 8
  err : Nat
  data : DWord
  hi : DWord
  o : Word
  s : Word
  pa : Word
  dropped : Option Nat
  race : Option PeerRace
  deriving DecidableEq, Repr

/-- Contributions of an XRED chunk on one line of another package (R227, R441): the request that carries them, the chunk's key, how many
contributions the chunk header counts, the number of the first one here, and the values. -/
structure RedPart where
  req : PeerReq
  key : ChunkKey
  total : Nat
  first : Nat
  vals : List Nat
  deriving DecidableEq, Repr

/-- The commit acknowledgement of an XRED chunk (R441, R462): its fault as in a response with the address of the faulting access, the writer's clocks, and the races
found by address. -/
structure RedAck where
  id : Nat
  dst : BitVec 8
  err : Nat
  va : BitVec 48
  o : Word
  s : Word
  races : List (BitVec 48 × PeerRace)
  deriving DecidableEq, Repr

/-- What the payload of a flit carries (R246, R321, R441). -/
inductive FlitMsg where
  | none
  | request (r : PeerReq)
  | response (a : PeerAns)
  | part (r : RedPart)
  | ack (a : RedAck)
  /-- The command of these chunks is complete (R441, item 4). -/
  | complete (key : ChunkKey)
  /-- A cross-trigger of a context that a fault has halted (R387): its ASID. -/
  | halt (asid : BitVec 16)
  deriving DecidableEq, Repr

/-- A Sweep flit as a port receives it (R319, R320): its header fields, 232 bytes of payload, and the CRC of bytes 248 to 255. -/
structure Flit where
  dst : BitVec 8
  src : BitVec 8
  kind : BitVec 8
  cls : BitVec 2
  seq : BitVec 12
  ack : BitVec 12
  param : BitVec 40
  payload : List Byte
  crc : DWord
  deriving DecidableEq, Repr

/-- The header of a flit (R319, Table 10). -/
def Flit.header (f : Flit) : BitVec 128 :=
  BitVec.ofNat 128 (f.param.toNat + f.ack.toNat * 2 ^ 40 + f.seq.toNat * 2 ^ 52 + f.cls.toNat * 2 ^ 70 + f.kind.toNat * 2 ^ 72 + f.src.toNat * 2 ^ 80
    + f.dst.toNat * 2 ^ 88)

/-- Bytes 0 to 247 of a flit, which its CRC covers (R319). -/
def Flit.bytes (f : Flit) : List Byte :=
  (List.range 16).map (fun i => f.header.extractLsb' (8 * i) 8) ++ (f.payload ++ List.replicate (232 - f.payload.length) 0).take 232

end Sys2Proof
end

