-- ==== Sys2Proof/Syntax.lean ====
section
/-!
DEFINITION. The syntax: one constructor for each row of spec/opcode_table.json: the 163 thread instructions
(04_instruction_encoding.md, Table 8), the 26 cox instructions (14_queues_host_fabric.md, Table 5) and the
operations and events of the part (95_what_each_step_holds.md), each with the arguments that name its subject.
-/
namespace Sys2Proof

inductive Instr where
  /-- IADD (R118, opcode 0x001). Adds two 32-bit register sources per thread, with optional saturation. -/
  | iadd (o : Ops)
  /-- IADD_I (R118, opcode 0x030). I-form IADD that takes an immediate as the last source. -/
  | iaddI (o : Ops)
  /-- ISUB (R118, opcode 0x002). Subtracts two 32-bit sources per thread, with optional saturation. -/
  | isub (o : Ops)
  /-- ISUB_I (R118, opcode 0x031). I-form ISUB with an immediate subtrahend. -/
  | isubI (o : Ops)
  /-- INEG (R118, opcode 0x003). Negates a 32-bit source per thread. -/
  | ineg (o : Ops)
  /-- IADD3 (R118, opcode 0x004). Adds three 32-bit sources per thread. -/
  | iadd3 (o : Ops)
  /-- IMUL (R118, opcode 0x005). Multiplies two 32-bit sources and keeps the low 32 bits or saturates. -/
  | imul (o : Ops)
  /-- IMUL_I (R118, opcode 0x032). I-form IMUL with an immediate multiplier. -/
  | imulI (o : Ops)
  /-- IMULH (R118, opcode 0x006). Writes the high 32 bits of a 32-bit product. -/
  | imulh (o : Ops)
  /-- IMAD (R118, opcode 0x007). Multiplies two 32-bit sources and adds a third. -/
  | imad (o : Ops)
  /-- IMAD_I (R118, opcode 0x033). I-form IMAD with an immediate addend. -/
  | imadI (o : Ops)
  /-- IMADW (R119, opcode 0x008). Forms a widening 32x32 product and adds a 64-bit addend into a pair. -/
  | imadw (o : Ops)
  /-- IADD64 (R119, opcode 0x009). Adds two 64-bit pairs modulo 2^64. -/
  | iadd64 (o : Ops)
  /-- ISUB64 (R119, opcode 0x00A). Subtracts two 64-bit pairs modulo 2^64. -/
  | isub64 (o : Ops)
  /-- IMAD64 (R119, opcode 0x00B). Forms a 64-bit multiply-add modulo 2^64. -/
  | imad64 (o : Ops)
  /-- IMIN (R118, opcode 0x00C). Writes the minimum of two 32-bit sources. -/
  | imin (o : Ops)
  /-- IMIN_I (R118, opcode 0x034). I-form IMIN with an immediate source. -/
  | iminI (o : Ops)
  /-- IMAX (R118, opcode 0x00D). Writes the maximum of two 32-bit sources. -/
  | imax (o : Ops)
  /-- IMAX_I (R118, opcode 0x035). I-form IMAX with an immediate source. -/
  | imaxI (o : Ops)
  /-- IABS (R118, opcode 0x00E). Writes the absolute value of a 32-bit source. -/
  | iabs (o : Ops)
  /-- ISAD (R118, opcode 0x00F). Adds an absolute difference, or byte-wise absolute differences, to an accumulator. -/
  | isad (o : Ops)
  /-- AND (R120, opcode 0x010). Writes the bitwise AND of two sources. -/
  | and (o : Ops)
  /-- AND_I (R120, opcode 0x038). I-form AND with an immediate source. -/
  | andI (o : Ops)
  /-- OR (R120, opcode 0x011). Writes the bitwise OR of two sources. -/
  | or (o : Ops)
  /-- OR_I (R120, opcode 0x039). I-form OR with an immediate source. -/
  | orI (o : Ops)
  /-- XOR (R120, opcode 0x012). Writes the bitwise exclusive OR of two sources. -/
  | xor (o : Ops)
  /-- XOR_I (R120, opcode 0x03A). I-form XOR with an immediate source. -/
  | xorI (o : Ops)
  /-- NOT (R120, opcode 0x013). Writes the complement of a source. -/
  | not (o : Ops)
  /-- ANDN (R120, opcode 0x014). Writes a & ~b. -/
  | andn (o : Ops)
  /-- ANDN_I (R120, opcode 0x03B). I-form ANDN with an immediate source. -/
  | andnI (o : Ops)
  /-- LOP3 (R121, opcode 0x015). Applies an arbitrary three-input bitwise function given by an 8-bit table. -/
  | lop3 (o : Ops)
  /-- SHL (R122, opcode 0x018). Shifts left, saturating to zero for counts of 32 or more unless .wrap. -/
  | shl (o : Ops)
  /-- SHL_I (R122, opcode 0x03C). I-form SHL with an immediate count. -/
  | shlI (o : Ops)
  /-- SHR (R122, opcode 0x019). Shifts right with zero fill. -/
  | shr (o : Ops)
  /-- SHR_I (R122, opcode 0x03D). I-form SHR with an immediate count. -/
  | shrI (o : Ops)
  /-- SAR (R122, opcode 0x01A). Shifts right arithmetically. -/
  | sar (o : Ops)
  /-- SAR_I (R122, opcode 0x03E). I-form SAR with an immediate count. -/
  | sarI (o : Ops)
  /-- SHF (R122, opcode 0x01B). Funnel-shifts or rotates a 64-bit value formed from two registers. -/
  | shf (o : Ops)
  /-- ROT (R122, opcode 0x01C). Rotates a 32-bit value left or right. -/
  | rot (o : Ops)
  /-- BFE (R123, opcode 0x01D). Extracts a bit field, sign- or zero-extended. -/
  | bfe (o : Ops)
  /-- BFI (R123, opcode 0x01E). Inserts a bit field into a register value. -/
  | bfi (o : Ops)
  /-- BREV (R120, opcode 0x01F). Reverses the bits of a source. -/
  | brev (o : Ops)
  /-- POPC (R120, opcode 0x020). Counts the set bits of a source. -/
  | popc (o : Ops)
  /-- CLZ (R120, opcode 0x021). Counts leading zeros. -/
  | clz (o : Ops)
  /-- CTZ (R120, opcode 0x022). Counts trailing zeros. -/
  | ctz (o : Ops)
  /-- PRMT (R124, opcode 0x023). Builds each destination byte from a selected byte or sign of two sources. -/
  | prmt (o : Ops)
  /-- ISETB (R125, opcode 0x024). Compares two integers and writes the result to one bit of vd. -/
  | isetb (o : Ops)
  /-- ISETB_I (R125, opcode 0x036). I-form ISETB comparing with an immediate. -/
  | isetbI (o : Ops)
  /-- SEL (R126, opcode 0x025). Selects one of two values by one bit of a register. -/
  | sel (o : Ops)
  /-- SEL_I (R126, opcode 0x037). I-form SEL whose second value is an immediate. -/
  | selI (o : Ops)
  /-- MOV (R129, opcode 0x028). Copies a vector or crew register. -/
  | mov (o : Ops)
  /-- MOVI (R129, opcode 0x029). Writes a 32-bit immediate to a register. -/
  | movi (o : Ops)
  /-- MOV64 (R129, opcode 0x02A). Copies a register pair. -/
  | mov64 (o : Ops)
  /-- MOV64_I (R129, opcode 0x02F). W-form move of a 64-bit immediate into a pair. -/
  | mov64I (o : Ops)
  /-- LEA (R129, opcode 0x02B). Adds a shifted, extended index to a 64-bit base. -/
  | lea (o : Ops)
  /-- LEA_I (R129, opcode 0x03F). I-form LEA with an immediate index. -/
  | leaI (o : Ops)
  /-- SETBIT (R127, opcode 0x02C). Sets one bit of vd, fixed or dynamic. -/
  | setbit (o : Ops)
  /-- CLRBIT (R127, opcode 0x02D). Clears one bit of vd, fixed or dynamic. -/
  | clrbit (o : Ops)
  /-- BITOP (R127, opcode 0x02E). Combines two register bits into one bit of vd. -/
  | bitop (o : Ops)
  /-- FADD (R144, opcode 0x040). Adds two FP32 values with the selected rounding. -/
  | fadd (o : Ops)
  /-- FADD_I (R144, opcode 0x070). I-form FADD with an immediate operand. -/
  | faddI (o : Ops)
  /-- FMUL (R144, opcode 0x041). Multiplies two FP32 values. -/
  | fmul (o : Ops)
  /-- FMUL_I (R144, opcode 0x071). I-form FMUL with an immediate operand. -/
  | fmulI (o : Ops)
  /-- FFMA (R144, opcode 0x042). Fused FP32 multiply-add rounded once. -/
  | ffma (o : Ops)
  /-- FFMA_I (R144, opcode 0x072). I-form FFMA with an immediate addend. -/
  | ffmaI (o : Ops)
  /-- FMIN (R145, opcode 0x043). Writes the smaller of two FP32 values. -/
  | fmin (o : Ops)
  /-- FMIN_I (R145, opcode 0x073). I-form FMIN with an immediate operand. -/
  | fminI (o : Ops)
  /-- FMAX (R145, opcode 0x044). Writes the larger of two FP32 values. -/
  | fmax (o : Ops)
  /-- FMAX_I (R145, opcode 0x074). I-form FMAX with an immediate operand. -/
  | fmaxI (o : Ops)
  /-- FSETB (R146, opcode 0x045). Compares two FP32 values into one bit of vd. -/
  | fsetb (o : Ops)
  /-- FSETB_I (R146, opcode 0x075). I-form FSETB comparing with an immediate. -/
  | fsetbI (o : Ops)
  /-- FCLASS (R147, opcode 0x046). Writes a one-hot class of a floating value. -/
  | fclass (o : Ops)
  /-- FRND (R148, opcode 0x047). Rounds a floating value to an integral value. -/
  | frnd (o : Ops)
  /-- FSCALE (R148, opcode 0x048). Multiplies a floating value by a power of two. -/
  | fscale (o : Ops)
  /-- RCP (R149, opcode 0x049). Correctly rounded reciprocal on the special-function unit. -/
  | rcp (o : Ops)
  /-- RSQ (R149, opcode 0x04A). Correctly rounded reciprocal square root. -/
  | rsq (o : Ops)
  /-- SQRT (R149, opcode 0x04B). Correctly rounded square root. -/
  | sqrt (o : Ops)
  /-- EX2 (R149, opcode 0x04C). Correctly rounded power of two. -/
  | ex2 (o : Ops)
  /-- LG2 (R149, opcode 0x04D). Correctly rounded base-2 logarithm. -/
  | lg2 (o : Ops)
  /-- SIN (R149, opcode 0x04E). Correctly rounded sine. -/
  | sin (o : Ops)
  /-- COS (R149, opcode 0x04F). Correctly rounded cosine. -/
  | cos (o : Ops)
  /-- TANH (R149, opcode 0x050). Correctly rounded hyperbolic tangent. -/
  | tanh (o : Ops)
  /-- IDP4 (R153, opcode 0x054). Four-way byte dot product with a 32-bit addend. -/
  | idp4 (o : Ops)
  /-- HADD2 (R150, opcode 0x058). Packed FP16 addition of two elements. -/
  | hadd2 (o : Ops)
  /-- HADD2_I (R150, opcode 0x078). I-form HADD2 with an immediate pair. -/
  | hadd2I (o : Ops)
  /-- HMUL2 (R150, opcode 0x059). Packed FP16 multiplication. -/
  | hmul2 (o : Ops)
  /-- HMUL2_I (R150, opcode 0x079). I-form HMUL2 with an immediate pair. -/
  | hmul2I (o : Ops)
  /-- HFMA2 (R150, opcode 0x05A). Packed FP16 fused multiply-add. -/
  | hfma2 (o : Ops)
  /-- HFMA2_I (R150, opcode 0x07A). I-form HFMA2 with an immediate addend pair. -/
  | hfma2I (o : Ops)
  /-- HMIN2 (R150, opcode 0x05B). Packed 16-bit minimum. -/
  | hmin2 (o : Ops)
  /-- HMAX2 (R150, opcode 0x05C). Packed 16-bit maximum. -/
  | hmax2 (o : Ops)
  /-- HSETB2 (R151, opcode 0x05D). Compares both 16-bit elements into two bits of vd. -/
  | hsetb2 (o : Ops)
  /-- BADD2 (R150, opcode 0x060). Packed BF16 addition. -/
  | badd2 (o : Ops)
  /-- BADD2_I (R150, opcode 0x07B). I-form BADD2 with an immediate pair. -/
  | badd2I (o : Ops)
  /-- BMUL2 (R150, opcode 0x061). Packed BF16 multiplication. -/
  | bmul2 (o : Ops)
  /-- BMUL2_I (R150, opcode 0x07C). I-form BMUL2 with an immediate pair. -/
  | bmul2I (o : Ops)
  /-- BFMA2 (R150, opcode 0x062). Packed BF16 fused multiply-add. -/
  | bfma2 (o : Ops)
  /-- BFMA2_I (R150, opcode 0x07D). I-form BFMA2 with an immediate addend pair. -/
  | bfma2I (o : Ops)
  /-- DADD (R152, opcode 0x068). FP64 addition on the FP64 pipe. -/
  | dadd (o : Ops)
  /-- DMUL (R152, opcode 0x069). FP64 multiplication. -/
  | dmul (o : Ops)
  /-- DFMA (R152, opcode 0x06A). FP64 fused multiply-add. -/
  | dfma (o : Ops)
  /-- DMIN (R152, opcode 0x06B). FP64 minimum. -/
  | dmin (o : Ops)
  /-- DMAX (R152, opcode 0x06C). FP64 maximum. -/
  | dmax (o : Ops)
  /-- DSETB (R152, opcode 0x06D). FP64 compare into one bit of vd. -/
  | dsetb (o : Ops)
  /-- CVT (R155, opcode 0x080). Converts one value between integer and floating formats. -/
  | cvt (o : Ops)
  /-- CVTPK (R157, opcode 0x081). Converts two values and packs them into elements of vd. -/
  | cvtpk (o : Ops)
  /-- CVTS (R158, opcode 0x082). Converts a value under an FP32 scale with saturation. -/
  | cvts (o : Ops)
  /-- SHFL (R160, opcode 0x088). Moves values between lanes of one issue pass within groups. -/
  | shfl (o : Ops)
  /-- VOTE (R161, opcode 0x089). Votes on one bit across the active lanes of a pass. -/
  | vote (o : Ops)
  /-- REDUX (R162, opcode 0x08A). Reduces or scans a value over active lanes of each group. -/
  | redux (o : Ops)
  /-- ELECT (R163, opcode 0x08B). Elects the lowest active lane per distinct key. -/
  | elect (o : Ops)
  /-- BRA (R131, opcode 0x0C0). Branches to a PC-relative target. -/
  | bra (o : Ops)
  /-- BRX (R131, opcode 0x0C1). Branches to a target held in a register pair. -/
  | brx (o : Ops)
  /-- CALL (R131, opcode 0x0C2). Writes the link and branches to a PC-relative target. -/
  | call (o : Ops)
  /-- CALLX (R131, opcode 0x0C3). Writes the link and branches to a register target. -/
  | callx (o : Ops)
  /-- RET (R131, opcode 0x0C4). Returns to the address held in a register pair. -/
  | ret (o : Ops)
  /-- EXIT (R134, opcode 0x0C5). Ends the thread once its region has closed and its flags are zero. -/
  | exit (o : Ops)
  /-- MEET (R33, opcode 0x0C6). Sets the thread's meet target. -/
  | meet (o : Ops)
  /-- REGION (R133, opcode 0x0C7). Closes the current region once its accesses are performed and starts a new one. -/
  | region (o : Ops)
  /-- NOP (R135, opcode 0x0C8). Does nothing beyond its control group. -/
  | nop (o : Ops)
  /-- TRAP (R384, opcode 0x0C9). Raises a class 6 issue fault with code n. -/
  | trap (o : Ops)
  /-- RESUME (R385, opcode 0x0CA). Leaves handler state and continues at region entry, next or faulting instruction. -/
  | resume (o : Ops)
  /-- CLRP (R386, opcode 0x0CB). Clears all poison bits, or the poison of one register. -/
  | clrp (o : Ops)
  /-- LD (R175, opcode 0x100). Loads one datum per active thread, checking and updating the line stamp. -/
  | ld (o : Ops)
  /-- ST (R176, opcode 0x101). Stores one datum per active thread at its point of performance. -/
  | st (o : Ops)
  /-- LDT (R178, opcode 0x102). Loads a 16x4 scratchpad block transposed across lanes. -/
  | ldt (o : Ops)
  /-- PREF (R177, opcode 0x103). Requests a line into L1 or L3 with no architectural effect. -/
  | pref (o : Ops)
  /-- ATOM (R179, opcode 0x140). Reads, modifies and writes one location per thread and returns the old value. -/
  | atom (o : Ops)
  /-- RED (R180, opcode 0x141). Adds a reduction contribution to one location per thread. -/
  | red (o : Ops)
  /-- MATCH (R183, opcode 0x142). Groups active lanes by equal values. -/
  | match (o : Ops)
  /-- FENCE (R184, opcode 0x143). Waits for earlier accesses, joins PA into s and sets the fence scope. -/
  | fence (o : Ops)
  /-- BAR_ARR (R186, opcode 0x144). Arrives at a barrier and continues. -/
  | barArr (o : Ops)
  /-- BAR_WAIT (R188, opcode 0x145). Waits for the phase of the last arrival to complete and joins its clock. -/
  | barWait (o : Ops)
  /-- BAR_SYNC (R188, opcode 0x146). Arrives at a barrier and then waits on that phase. -/
  | barSync (o : Ops)
  /-- CTRWAIT (R190, opcode 0x147). Waits until a progress counter reaches a target and acquires it. -/
  | ctrwait (o : Ops)
  /-- OCLAIM (R199, opcode 0x180). Claims consecutive operand slots for the crew. -/
  | oclaim (o : Ops)
  /-- ORELEASE (R200, opcode 0x181). Releases operand slots after earlier operations on them. -/
  | orelease (o : Ops)
  /-- OHDR (R201, opcode 0x182). Writes an operand-slot header from a crew-register pair. -/
  | ohdr (o : Ops)
  /-- OLD (R201, opcode 0x183). Copies a tile from scratchpad into an operand slot. -/
  | old (o : Ops)
  /-- ACLAIM (R199, opcode 0x184). Claims consecutive accumulators for the crew. -/
  | aclaim (o : Ops)
  /-- ARELEASE (R200, opcode 0x185). Releases accumulators after earlier operations on them. -/
  | arelease (o : Ops)
  /-- AZERO (R202, opcode 0x186). Sets every element of an accumulator to zero. -/
  | azero (o : Ops)
  /-- ALD (R202, opcode 0x187). Loads an accumulator from scratchpad. -/
  | ald (o : Ops)
  /-- AST (R202, opcode 0x188). Stores an accumulator to scratchpad. -/
  | ast (o : Ops)
  /-- ARD (R203, opcode 0x189). Reads four accumulator rows into registers of the crew's threads. -/
  | ard (o : Ops)
  /-- MMA (R207, opcode 0x18A). Adds the product of the crew's A and B slots into an accumulator. -/
  | mma (o : Ops)
  /-- MMAS (R207, opcode 0x18B). Matrix product with a seeded-sparse A tile. -/
  | mmas (o : Ops)
  /-- MMAG (R209, opcode 0x18C). Gang matrix product with broadcast A and B sources. -/
  | mmag (o : Ops)
  /-- MMAGS (R209, opcode 0x18D). Gang matrix product with seeded-sparse A. -/
  | mmags (o : Ops)
  /-- XCOPY (R221, opcode 0x1C0). Issues a block-collective slice of a box copy between memory and local storage. -/
  | xcopy (o : Ops)
  /-- XLOOP (R224, opcode 0x1C1). Queues an iterated fill of a ring region. -/
  | xloop (o : Ops)
  /-- XGATHER (R225, opcode 0x1C2). Queues a gather of rows by index into local storage. -/
  | xgather (o : Ops)
  /-- XSCATTER (R226, opcode 0x1C3). Queues a scatter of local rows to memory by index. -/
  | xscatter (o : Ops)
  /-- XRED (R227, opcode 0x1C4). Queues reductions of local elements into remote elements. -/
  | xred (o : Ops)
  /-- XFENCE (R228, opcode 0x1C5). Places a fence in each named transfer queue. -/
  | xfence (o : Ops)
  /-- MOVS (R234, opcode 0x1C8). Reads a special register at its read point. -/
  | movs (o : Ops)
  /-- MOVSW (R235, opcode 0x1C9). Writes a writable special register. -/
  | movsw (o : Ops)
  /-- YIELD (R236, opcode 0x1CA). Makes the thread yielded, or acts as NOP under .req without a request. -/
  | yield (o : Ops)
  /-- TMARK (R239, opcode 0x1CB). Emits a trace mark packet when trace is on. -/
  | tmark (o : Ops)
  /-- ENQ (R242, opcode 0x1CC). Reserves space in a device queue, copies a packet and publishes it. -/
  | enq (o : Ops)
  /-- BKPT (R240, opcode 0x1CD). Stops the pass at a breakpoint when breakpoints are enabled. -/
  | bkpt (o : Ops)
  /-- CCTL (R243, opcode 0x1CE). Writes back or invalidates L1 lines. -/
  | cctl (o : Ops)
  /-- INVI (R244, opcode 0x1CF). Invalidates instruction-cache lines of a range. -/
  | invi (o : Ops)
  /-- COX_LI (R304, cox). Loads a sign-extended 22-bit immediate. -/
  | coxLi (rd : BitVec 4) (imm : BitVec 22)
  /-- COX_LIH (R304, cox). Shifts rd left 16 and ORs a 16-bit immediate. -/
  | coxLih (rd : BitVec 4) (imm : BitVec 16)
  /-- COX_ADD (R304, cox). Adds two registers and an immediate. -/
  | coxAdd (rd ra rb : BitVec 4) (imm : BitVec 14)
  /-- COX_SUB (R304, cox). Subtracts two registers. -/
  | coxSub (rd ra rb : BitVec 4)
  /-- COX_AND (R304, cox). Bitwise AND of two registers. -/
  | coxAnd (rd ra rb : BitVec 4)
  /-- COX_OR (R304, cox). Bitwise OR of two registers. -/
  | coxOr (rd ra rb : BitVec 4)
  /-- COX_XOR (R304, cox). Bitwise XOR of two registers. -/
  | coxXor (rd ra rb : BitVec 4)
  /-- COX_SHL (R304, cox). Shifts a register left with zero fill. -/
  | coxShl (rd ra : BitVec 4) (imm : BitVec 14)
  /-- COX_SHR (R304, cox). Shifts a register right with zero fill. -/
  | coxShr (rd ra : BitVec 4) (imm : BitVec 14)
  /-- COX_MUL (R304, cox). Writes the low 64 bits of a product. -/
  | coxMul (rd ra rb : BitVec 4)
  /-- COX_MINU (R304, cox). Writes the natural minimum of two registers. -/
  | coxMinu (rd ra rb : BitVec 4)
  /-- COX_PKR (R304, cox). Reads a packet word. -/
  | coxPkr (rd : BitVec 4) (imm : BitVec 14)
  /-- COX_PKW (R304, cox). Rewrites a packet word below LEN. -/
  | coxPkw (ra : BitVec 4) (imm : BitVec 14)
  /-- COX_LDW (R304, cox). Reads an aligned word inside a window. -/
  | coxLdw (rd ra : BitVec 4) (w : BitVec 3) (imm : BitVec 15)
  /-- COX_STW (R304, cox). Writes an aligned word inside a window. -/
  | coxStw (rd ra : BitVec 4) (w : BitVec 3) (imm : BitVec 15)
  /-- COX_ATADD (R304, cox). Atomically adds to a window word and returns the old value. -/
  | coxAtadd (rd ra : BitVec 4) (w : BitVec 3) (imm : BitVec 15)
  /-- COX_BEQ (R304, cox). Branches forward when two registers are equal. -/
  | coxBeq (ra rb : BitVec 4) (imm : BitVec 14)
  /-- COX_BNE (R304, cox). Branches forward when two registers differ. -/
  | coxBne (ra rb : BitVec 4) (imm : BitVec 14)
  /-- COX_BLTU (R304, cox). Branches forward when ra is naturally below rb. -/
  | coxBltu (ra rb : BitVec 4) (imm : BitVec 14)
  /-- COX_LOOP (R304, cox). Opens a counted loop body. -/
  | coxLoop (imm : BitVec 14)
  /-- COX_NOTIFY (R316, cox). Sends an MSI-X vector after earlier accesses are performed. -/
  | coxNotify (ra : BitVec 4)
  /-- COX_TIME (R304, cox). Reads the device time base. -/
  | coxTime (rd : BitVec 4)
  /-- COX_SEQ (R311, cox). Reads the sequence number of the next launch action. -/
  | coxSeq (rd : BitVec 4)
  /-- QUARTER_ISSUE (R285, event). Each arithmetic cycle a quarter chooses a crew and issues a pass formed under R30. -/
  | quarterIssue (core quarter : Nat) (defer : Bool)
  /-- ACCESS_COMPLETE (R54, event). A memory access or atomic completes and the thread's completion flag falls. -/
  | accessComplete (t : TRef) (id : Nat)
  /-- RESULT_WRITTEN (R138, event). A variable-latency register result is written and its flag falls. -/
  | resultWritten (t : TRef) (id : Nat)
  /-- MEET_TARGET_EXPIRY (R33, event). A parked thread's 2,048 cycles expire and its meet target returns to none. -/
  | meetTargetExpiry (t : TRef)
  /-- YIELD_EXPIRY (R236, event). A yielded thread stops being yielded 2,048 cycles after it yielded. -/
  | yieldExpiry (t : TRef)
  /-- TRAP_DELIVERY (R378, event). A standing fault is delivered once the thread's accesses are performed. -/
  | trapDelivery (t : TRef)
  /-- BARRIER_PHASE_COMPLETE (R187, event). A barrier phase completes, rotating rings and incrementing the phase counter. -/
  | barrierPhaseComplete (b : BarRef)
  /-- CTRWAIT_REREAD (R190, event). A waiting CTRWAIT reads its counter again on a write or after 1 µs. -/
  | ctrwaitReread (t : TRef)
  /-- BLOCK_END (R134, event). A block whose crews exited and commands completed ends and releases its resources. -/
  | blockEnd (b : BRef)
  /-- ENQ_RETRY (R242, event). A blocked ENQ repeats its reservation after READ changes. -/
  | enqRetry (t : TRef)
  /-- ENQ_PUBLISH (R242, event). An ENQ publishes WRITE once earlier reservations have published. -/
  | enqPublish (t : TRef)
  /-- CLAIM_GRANT (R199, event). A waiting claim is granted when its resources are free. -/
  | claimGrant (core id : Nat)
  /-- RESOURCE_RELEASE_DONE (R200, event). A release takes effect after earlier operations, clearing and freeing resources. -/
  | resourceReleaseDone (core id : Nat)
  /-- DATA_MOVE_COMPLETE (R204, event). An OLD, ALD or AST finishes moving its bytes. -/
  | dataMoveComplete (core id : Nat)
  /-- PRODUCT_ACCEPT (R473, event). The matrix unit accepts an issued product once its predecessors have taken effect. -/
  | productAccept (core id : Nat)
  /-- PRODUCT_COMPLETE (R207, event). A matrix product finishes writing its accumulator. -/
  | productComplete (core id : Nat)
  /-- TRANSFER_COMMAND_BEGIN (R218, event). A queued transfer command begins once the command ahead completes. -/
  | transferCommandBegin (b : BRef) (queue : Nat)
  /-- TRANSFER_CHUNK (R229, event). A transfer engine performs one 4 KiB chunk of a command. -/
  | transferChunk (b : BRef) (id slice : Nat)
  /-- TRANSFER_COMMAND_COMPLETE (R194, event). A transfer command completes, adds to its counter and its flag falls. -/
  | transferCommandComplete (b : BRef) (id : Nat)
  /-- XLOOP_ITERATION (R224, event). An XLOOP iteration becomes eligible after a rotation and writes its stage. -/
  | xloopIteration (b : BRef) (id : Nat)
  /-- XRED_CHUNK_COMMIT (R441, event). A home commits an XRED chunk once all its contributions arrived. -/
  | xredChunkCommit (b : BRef) (id chunk : Nat)
  /-- WALK_STEP (R281, event). Every 8 hub cycles a launch sequencer places at most one head group. -/
  | walkStep (hub : Nat)
  /-- YIELD_DEADLINE (R290, event). A yield request's deadline passes and the group enters Stopping. -/
  | yieldDeadline (g : Nat)
  /-- PREEMPT_STOP_COMPLETE (R291, event). The collector receives the last engine acknowledgement and declares the stop complete. -/
  | preemptStopComplete (g : Nat)
  /-- SAVE_COMPLETE (R292, event). A group's save finishes and a saved entry joins its list. -/
  | saveComplete (g : Nat)
  /-- RESTORE_COMPLETE (R294, event). A restored group's state is loaded and it becomes resident. -/
  | restoreComplete (g : Nat)
  /-- LAUNCH_ACCEPT (R277, event). A launch sequencer accepts a launch once a grid-barrier set is free. -/
  | launchAccept (x : CoxId)
  /-- SPILL_ENTRY_FREE (R418, event). A contribution waiting for a spill entry proceeds when one frees. -/
  | spillEntryFree (t : TRef) (id : Nat)
  /-- SPILL_WAIT_TIMEOUT (R418, event). A contribution waiting 100 µs for a spill entry gives SPILLFULL. -/
  | spillWaitTimeout (t : TRef) (id : Nat)
  /-- PEER_REQUEST_TIMEOUT (R462, event). A peer request without response after 20 ms completes as NOBACK. -/
  | peerRequestTimeout (id : Nat)
  /-- XRED_CHUNK_TIMEOUT (R462, event). An unacknowledged XRED chunk is resent once, then faults. -/
  | xredChunkTimeout (b : BRef) (id chunk : Nat)
  /-- ACK_TIMEOUT (R460, event). Unacknowledged flits held 100 µs take the port down. -/
  | ackTimeout (port : Nat)
  /-- PORT_RECOVERY_TIMEOUT (R460, event). A port not up within 10 ms of going down becomes lost. -/
  | portRecoveryTimeout (port : Nat)
  /-- FRONTIER_UPDATE (R334, event). A hub receives LU, recomputes G and releases replay records. -/
  | frontierUpdate (hub : Nat)
  /-- REPLAY_LU_TIMEOUT (R464, event). 20 ms without LU from a lost chip's hub halts the replaying context. -/
  | replayLuTimeout (hub : Nat) (chip : BitVec 8)
  /-- DEBUG_TRIGGER (R343, event). A trigger reaches a core and its debugged blocks latch snapshots and stop. -/
  | debugTrigger (core : Nat)
  /-- STOP_RECORD_WRITE (R343, event). A stopped block writes its stop record and counts as halted. -/
  | stopRecordWrite (b : BRef)
  /-- TRACE_DRAIN (R352, event). Trace frames and split records drain to the trace ring when it has room. -/
  | traceDrain (section_ : Nat)
  /-- TRACE_GATE_TIMEOUT (R455, event). After 50 µs of draining, remaining frames are discarded and the gate proceeds. -/
  | traceGateTimeout (section_ : Nat)
  /-- GATE_FRAME_WRITE (R455, event). The hub writes the gate frame once the trace ring has room. -/
  | gateFrameWrite (section_ : Nat)
  /-- ERROR_RATE_WINDOW (R457, event). A 1 ms window ends and a rising count raises the warning. -/
  | errorRateWindow (section_ : Nat)
  /-- COUNTER_WAIT_SATISFIED (R310, event). A waiting COUNTER-WAIT finds its counter at or above the target. -/
  | counterWaitSatisfied (x : CoxId)
  /-- ORD_WAIT_SATISFIED (R302, event). An ORD packet's earlier packets complete and its program runs. -/
  | ordWaitSatisfied (x : CoxId)
  /-- COPY_CHUNK (R313, event). The copy engine reads then writes one chunk of a copy. -/
  | copyChunk (x : CoxId)
  /-- CHECKPOINT_CUT (R339, event). At the cut point the device marks the ranges and writes STATUS 1. -/
  | checkpointCut (x : CoxId)
  /-- CHECKPOINT_LINE_COPY (R339, event). A copy engine copies a marked line to DATA and clears its mark. -/
  | checkpointLineCopy (x : CoxId)
  /-- PAD (R302, event). A PAD packet is consumed without running a program. -/
  | pad (x : CoxId)
  /-- LAUNCH (R301, event). A LAUNCH packet runs the cox program and offers a checked launch. -/
  | launch (x : CoxId)
  /-- COPY (R313, event). A COPY packet queues a copy with the hub's copy engine. -/
  | copy (x : CoxId)
  /-- COUNTER_ADD (R310, event). A COUNTER-ADD packet adds to a counter as a release. -/
  | counterAdd (x : CoxId)
  /-- COUNTER_WAIT (R310, event). A COUNTER-WAIT packet waits on a counter as CTRWAIT. -/
  | counterWait (x : CoxId)
  /-- STEP (R310, event). A STEP packet hands its number to the recorder and checkpoint machinery. -/
  | step (x : CoxId)
  /-- CHECKPOINT (R338, event). A CHECKPOINT packet starts a checkpoint cut. -/
  | checkpoint (x : CoxId)
  /-- TINV_DONE (R317, event). The translation invalidation finishes and TINV bit 0 reads 0. -/
  | tinvDone (x : CoxId)
  /-- INSTRUCTION_FETCH_COMPLETE (R29, event). An instruction-cache fill returns and threads waiting for the instruction at their PC become ready, or the fetch faults. -/
  | instructionFetchComplete (t : TRef)
  /-- PROG_CHECK_COMPLETE (R307, event). The context's checker finishes reading and checking the program image and sets LOADED or reports PROGCHK. -/
  | progCheckComplete (x : CoxId)
  /-- THROTTLE_SCORE_HALVE (R287, event). Every 1,024 cycles a quarter's locality score halves. -/
  | throttleScoreHalve (core quarter : Nat)
  /-- BEACON_SEND (R258, event). Every 1 µs a hub sends its high-water clock as a beacon. -/
  | beaconSend (hub : Nat)
  /-- FLASH_WRITE_COMPLETE (R468, event). The flash write of a verified image ends and the package resets or boots from L3. -/
  | flashWriteComplete (ok : Bool)
  /-- COX_HALT (R304, cox). Ends the packet's cox program. -/
  | coxHalt
  /-- COX_ENDL (R304, cox). Ends the innermost loop body. -/
  | coxEndl
  /-- COX_ACT (R310, cox). Performs the fixed action of the packet's type. -/
  | coxAct
  /-- SLICE_ARBITER_RUN (R288, event). Once per µs the arbiter chooses victims for a head that does not fit. -/
  | sliceArbiterRun
  /-- BEACON_RECEIVE (R258, event). A hub receives a beacon and raises its high-water clock. -/
  | beaconReceive (hub : Nat) (hw : Word)
  /-- CORE_FLOOR_RAISE (R258, event). Every 2^16 cycles a core raises resident threads' clocks to the floor. -/
  | coreFloorRaise (core : Nat)
  /-- SWEEPER_VISIT (R259, event). Each hub cycle the sweeper visits stamps and settles those below the floor. -/
  | sweeperVisit (line : LineId)
  /-- CORE_STAMP_SWEEP (R259, event). A core sweeps its L1 and scratchpad stamps every 2^16 cycles. -/
  | coreStampSweep (core : Nat)
  /-- L1_EVICTION (R250, event). An L1 line is evicted, writing back data or read fields. -/
  | l1Eviction (core : Nat) (line : LineId)
  /-- L3_EVICTION (R257, event). An L3 line is evicted to HBM and its stamp settles into SC. -/
  | l3Eviction (line : LineId)
  /-- PEER_REQUEST (R246, event). A home chip receives a peer request, translates it and applies the stamp procedure. -/
  | peerRequest (r : PeerReq)
  /-- PEER_RESPONSE (R246, event). The issuing chip receives a peer response with data and updated clocks. -/
  | peerResponse (id : Nat) (err : Nat) (data : DWord) (hi : DWord) (o sc pa : Word) (dropped : Option Nat) (race : Option PeerRace)
  /-- FLIT_RECEIVE (R320, event). A Sweep port receives a flit, checks CRC and sequence and accepts or requests retry. -/
  | flitReceive (port : Nat) (f : Flit)
  /-- SIGNAL_LOSS (R460, event). Loss of signal or FEC lock for 10 µs takes the port down. -/
  | signalLoss (port : Nat)
  /-- PORT_TRAINED (R460, event). A retraining port comes up and resumes go-back retry. -/
  | portTrained (port : Nat) (peer : BitVec 8)
  /-- SECTION_GATE (R455, event). Management gates a section's power after draining its trace buffer. -/
  | sectionGate (section_ : Nat)
  /-- MEMORY_ERROR_DETECT (R414, event). Error correction finds an error and corrects or handles it by unit. -/
  | memoryErrorDetect (section_ unit : Nat) (where_ : Nat) (correctable : Bool)
  /-- QWRITE_WRITE (R298, event). A host write of QWRITE publishes packets into WRITE. -/
  | qwriteWrite (x : CoxId) (v : DWord)
  /-- PROG_WRITE (R307, event). A write of PROG runs the checker over the cox program image. -/
  | progWrite (x : CoxId) (v : DWord)
  /-- QCTL_EN_SET (R305, event). Setting EN binds the context record and starts serving the queue. -/
  | qctlEnSet (x : CoxId) (v : DWord)
  /-- QCTL_EN_CLEAR (R318, event). Clearing EN stops the context before its next packet. -/
  | qctlEnClear (x : CoxId) (v : DWord)
  /-- TINV_WRITE (R317, event). Writing TINV bit 0 invalidates per-core translations of the ASID. -/
  | tinvWrite (x : CoxId) (v : DWord)
  /-- CTXREC_WRITE (R389, event). A CTXREC write sets the record and clears that ASID's FLOGPUT. -/
  | ctxrecWrite (x : CoxId) (v : DWord)
  /-- FSTAT_HALT_WRITE (R390, event). Writing 1 to HALT resumes a fault-halted context. -/
  | fstatHaltWrite (x : CoxId)
  /-- FSTAT_KILL_WRITE (R390, event). Writing 1 to KILL ends every block of the halted context. -/
  | fstatKillWrite (x : CoxId)
  /-- RLOGBASE_WRITE (R430, event). A write of RLOGBASE sets the race log base and clears RLOGPUT. -/
  | rlogbaseWrite (x : CoxId) (v : DWord)
  /-- RRGET_WRITE (R333, event). Software advances RRGET, releasing threads held by a full record ring. -/
  | rrgetWrite (hub : Nat) (v : DWord)
  /-- STOPBASE_WRITE (R341, event). A write of STOPBASE resets the stop-record count. -/
  | stopbaseWrite (v : DWord)
  /-- DBGCTL_STOP (R342, event). Writing STOP requests a host stop of the debugged context. -/
  | dbgctlStop (v : DWord)
  /-- DBGCTL_RESUME (R344, event). Writing RESUME continues halted blocks from their boundaries. -/
  | dbgctlResume (v : DWord)
  /-- DBGSWAP_SWAP_OUT (R347, event). Writing DBGSWAP bit 0 swaps out the halted group of DBGBLK. -/
  | dbgswapSwapOut
  /-- DBGSWAP_RELEASE (R347, event). Writing DBGSWAP bit 1 places the swapped group's saved entry. -/
  | dbgswapRelease
  /-- DBGDATA_READ (R348, event). A read of DBGDATA returns the selected state of a halted or swapped block. -/
  | dbgdataRead
  /-- DBGDATA_WRITE (R348, event). A write of DBGDATA sets a selected item when permitted. -/
  | dbgdataWrite (v : DWord)
  /-- RCVCTL_GO (R468, event). Writing GO verifies the staged firmware image in recovery. -/
  | rcvctlGo
  /-- PCTL_EN_WRITE (R460, event). Writing a port's EN enables it or takes it down. -/
  | pctlEnWrite (port : Nat) (v : DWord)
  /-- REGISTER_WRITE (R9, event). A write of a register without behaviour of its own, under its access kind. -/
  | registerWrite (off : Nat) (v : DWord)
  /-- HOST_BAR2_WRITE (R315, event). A host write through BAR 2 is performed at the L3 home as a .pod store. -/
  | hostBar2Write (off : Nat) (data : List Byte)
  /-- HOST_BAR2_READ (R315, event). A host read through BAR 2 returns after earlier writes are performed. -/
  | hostBar2Read (off size : Nat)
  /-- HOST_LINK_DOWN (R465, event). The host link drops to DL_Down and the device keeps running. -/
  | hostLinkDown
  /-- HOST_LINK_RESET (R465, event). A hot reset or link disable leaves the device running. -/
  | hostLinkReset
  /-- HOST_LINK_UP (R465, event). The host link comes up and held MSI-X messages are sent. -/
  | hostLinkUp
  /-- PTM_UPDATE (R465, event). A PTM update slews or steps the time base towards host time. -/
  | ptmUpdate (host : DWord)
  /-- PERST (R465, event). PERST# resets the device. -/
  | perst
  /-- POWER_ON_RESET (R322, event). Reset runs boot ROM, verifies firmware and starts it or enters recovery. -/
  | powerOnReset
  /-- SELFTEST_CONTROLLER_RUN (R469, event). Quarter controllers march their register-file banks and record results. -/
  | selftestControllerRun (core quarter : Nat)
  /-- SELFTEST_FINISH (R470, event). After marchc ends, firmware maps repairs, sets SELFTEST and READY. -/
  | selftestFinish
  /-- GET_VERSION (R323, event). SPDM GET_VERSION request answered by the device. -/
  | getVersion
  /-- GET_CAPABILITIES (R323, event). SPDM GET_CAPABILITIES request answered. -/
  | getCapabilities
  /-- NEGOTIATE_ALGORITHMS (R323, event). SPDM NEGOTIATE_ALGORITHMS request answered. -/
  | negotiateAlgorithms
  /-- GET_DIGESTS (R323, event). SPDM GET_DIGESTS request answered. -/
  | getDigests
  /-- GET_CERTIFICATE (R323, event). SPDM GET_CERTIFICATE request answered. -/
  | getCertificate (offset len : Nat)
  /-- CHALLENGE (R323, event). SPDM CHALLENGE request answered with a signature. -/
  | challenge (nonce : List Byte)
  /-- GET_MEASUREMENTS (R323, event). SPDM GET_MEASUREMENTS request answered from the measurement slots. -/
  | getMeasurements (index : Nat) (signed : Bool) (nonce : List Byte)
  /-- POWER_CAP_SET (R324, event). Management sets the module power cap. -/
  | powerCapSet (watts : Nat)
  /-- BLACK_BOX_READ (R353, event). Management reads the black-box log. -/
  | blackBoxRead (die : Nat)
  /-- IMAGE_VERIFY_COMPLETE (R468, event). Verification of the staged firmware image ends, leaving STATE 3 with a REASON or entering STATE 4 to write flash. -/
  | imageVerifyComplete
  /-- MSIX_VECTOR_UNMASK (R316, event). The host unmasks an MSI-X vector entry, and a message held pending on it is sent. -/
  | msixVectorUnmask (vector : Nat)
  /-- CHUNK_GET (R323, event). An SPDM CHUNK_GET request retrieves the next chunk of a response larger than the transport allows. -/
  | chunkGet (handle seq : Nat)
  /-- SECTION_UNGATE (R455, event). Management restores power to a gated section. -/
  | sectionUngate (section_ : Nat)
  deriving DecidableEq, Repr

end Sys2Proof
end

