-- ==== Sys2Proof/Machine/Rows.lean ====
section
/-!
DEFINITION. What each thread opcode makes of the fields of its words: the form, the operand each register field holds, the
accepted types, rounding or scope codes and modifiers, the values an entry marks unused, and the result latency
(04_instruction_encoding.md, R63 to R78; the entries of 06 to 10 and 20). `notInstr` is Table 2 of 21_instruction_faults.md.
-/
namespace Sys2Proof.Machine

/-- The opcode forms of Table 3 (R69). -/
inductive Form where
  | r | i | a | w
  deriving DecidableEq, Repr

/-- Which registers an operand may name (R73): vector only, either file, crew only (R192). -/
inductive OpKind where
  | vec | any | crew
  deriving DecidableEq, Repr

/-- The use an entry gives a register field: reserved, a plain number, or a group of `w` registers read or written. -/
inductive Operand where
  | none
  | num
  | reg (src dst : Bool) (w : Nat) (kind : OpKind)
  deriving DecidableEq, Repr

/-- One entry's use of the encoding. -/
structure Row where
  form : Form := .r
  vd : Operand := .none
  vs1 : Operand := .none
  vs2 : Operand := .none
  vs3 : Operand := .none
  vs4 : Operand := .none
  /-- Type codes the entry lists, its default first; empty: the type field is reserved (R75, R116). -/
  ty : List Nat := []
  /-- The same for the secondary type field mod<9:5>. -/
  ty2 : List Nat := []
  /-- Accepted rounding or scope codes of mod<12:10>; empty: the field is reserved or otherwise used (R76). -/
  rnd : List Nat := []
  /-- The other modifier bits the entry uses. -/
  bits : BitVec 20 := 0
  bits2 : BitVec 24 := 0
  /-- A field holds a value that the entry marks unused (subcode 11). -/
  unusedVal : Bool := false
  /-- Result latency of Table 2, or 1 without a register result (R67, R117); none: variable. -/
  lat : Option Nat := some 4
  /-- Crew-collective (R32). -/
  collective : Bool := false
  /-- Ends a region, other than REGION itself (R41). -/
  ends : Bool := false
  deriving DecidableEq, Repr

/-- Modifier bits hi..lo as a number. -/
def modField (m : BitVec 20) (hi lo : Nat) : Nat := (m.toNat / 2 ^ lo) % 2 ^ (hi + 1 - lo)

/-- Bits hi..lo of a modifier mask. -/
def modMask (hi lo : Nat) : BitVec 20 := BitVec.ofNat 20 ((2 ^ (hi + 1 - lo) - 1) * 2 ^ lo)

/-- The type a type code stands for, the first of the entry's list being the default (R75). -/
def effType (code : Nat) (list : List Nat) : Nat := if code = 0 then list.headD 0 else code

/-- 64-bit type codes: .s64, .n64, .b64, .f64. -/
def wideType (t : Nat) : Bool := t == 4 || t == 8 || t == 12 || t == 14

def typeWidth (t : Nat) : Nat := if t = 13 then 4 else if wideType t then 2 else 1

/-- Floating type codes. -/
def floatType (t : Nat) : Bool := 14 ≤ t && t ≤ 20

def dAny (w : Nat := 1) : Operand := .reg false true w .any
def dVec (w : Nat := 1) : Operand := .reg false true w .vec
/-- A destination of which only some bits are written: it is a source too (R128). -/
def dBit : Operand := .reg true true 1 .vec
def sAny (w : Nat := 1) : Operand := .reg true false w .any
def sVec (w : Nat := 1) : Operand := .reg true false w .vec
def sCrew (w : Nat := 1) : Operand := .reg true false w .crew
/-- A seed register: read and written back (R156). -/
def seedReg : Operand := .reg true true 1 .vec

/-- The types of CVT (R155), `.f32` first. -/
def cvtTypes : List Nat := [15, 1, 2, 3, 4, 5, 6, 7, 8, 14, 16, 17, 18, 19, 20]

/-- Rounding codes of a conversion from `ts` to `td` (Table 6 of 07_floating_point.md, R156, R158). -/
def cvtRounds (td ts : Nat) : List Nat :=
  if floatType td then (if td == 17 || td == 18 || td == 19 then [0, 1, 2, 3, 4] else [0, 1, 2, 3])
  else if floatType ts then [0, 1, 2, 3] else [0]

/-- `.sat` of CVT and CVTPK is reserved from float to integer (Table 6 of 07_floating_point.md). -/
def satBit (td ts : Nat) : BitVec 20 := if floatType ts && !floatType td then 0 else modMask 13 13

/-- Types of an ATOM or RED operation (Table 6 of 08_memory_and_sync_instructions.md); empty: unused code. -/
def atomTypes (op : Nat) : List Nat :=
  if op ≤ 3 then [3, 7, 4, 8] else if op ≤ 8 then [11, 12] else if op ≤ 10 then [7] else if op = 11 then [15, 16, 17] else []

/-- The same for the check of a type code (R394): with an operation code that the entry leaves unused, every type that it lists for some operation passes. -/
def checkTypes (used : Bool) (op : Nat) : List Nat := if used then atomTypes op else [3, 7, 4, 8, 11, 12, 15, 16, 17]

/-- Operations a reduction takes (R180, R193 Table 2). -/
def redOp (op : Nat) : Bool := op == 0 || (2 ≤ op && op ≤ 6) || op == 11

/-- Width of special register `n` in registers (Table 2 of 10_system_instructions.md). -/
def sregWidth (n : Nat) : Nat :=
  if n == 0x14 || n == 0x1C || n == 0x1E || n == 0x20 || n == 0x21 || n == 0x22 || n == 0x23 then 2 else 1

/-- Barrier ids of a scope (R185). -/
def barIds (scope : Nat) : Nat := if scope = 1 then 16 else if scope = 2 then 8 else if scope = 3 then 4 else 16

/-- Arithmetic rows: destination and one to three sources, with their widths. -/
def rowAlu (ty : List Nat) (bits : BitVec 20) (srcs : Nat) (lat : Nat := 4) (w : Nat := 1) : Row :=
  { vd := dAny w, vs1 := sAny w, vs2 := if 2 ≤ srcs then sAny w else .none, vs3 := if 3 ≤ srcs then sAny w else .none,
    ty := ty, bits := bits, lat := some lat }

/-- The I form of an entry: the immediate replaces source `n` (R69, R114). -/
def Row.imm (r : Row) (n : Nat) : Row :=
  { r with form := .i, vs2 := if n = 2 then .none else r.vs2, vs3 := if n = 3 then .none else r.vs3 }

/-- neg and abs bits of the sources in `ns` (Table 1 of 07_floating_point.md). -/
def srcMods (ns : List Nat) : BitVec 20 := ns.foldl (fun m n => m ||| modMask (13 + n) (13 + n) ||| modMask (16 + n) (16 + n)) 0

/-- abs bits of a compare. -/
def absMods (ns : List Nat) : BitVec 20 := ns.foldl (fun m n => m ||| modMask (16 + n) (16 + n)) 0

def rowFp (ty : List Nat) (rnd : List Nat) (extra : BitVec 20) (srcs : Nat) (modded : List Nat) (w : Nat := 1)
    (lat : Option Nat := some 4) : Row :=
  { rowAlu ty (extra ||| srcMods modded) srcs 4 w with rnd := rnd, lat := lat }

def rowCmp (ty : List Nat) (abs : List Nat) (w : Nat := 1) (lat : Option Nat := some 4) : Row :=
  { vd := dBit, vs1 := sAny w, vs2 := sAny w, ty := ty, rnd := [0], bits := modMask 9 5 ||| modMask 16 14 ||| absMods abs,
    lat := lat }

def rowMem (ty : List Nat) (vd : Operand) (scope : Bool) (bits : BitVec 20) (ix : Bool) (lat : Option Nat) : Row :=
  { form := .a, vd := vd, vs1 := sAny 2, vs2 := if ix then sAny 1 else .none, ty := ty,
    rnd := if scope then [0, 1, 2, 3, 4] else [], bits := bits ||| modMask 15 15 ||| modMask 17 17, lat := lat }

def rowMat (vd vs1 vs2 : Operand) (ty : List Nat) (bad : Bool) : Row :=
  { vd := vd, vs1 := vs1, vs2 := vs2, ty := ty, unusedVal := bad, lat := none, collective := true, ends := true }

/-- Descriptor and box-record fields of a transfer command (R214, R215, R220): D is a multiple of 16 and B of 8. -/
def badDesc (o : Ops) : Bool := o.vs1.num.toNat % 16 != 0 || o.vs3.num.toNat % 8 != 0

def rowXfer (o : Ops) (bits : BitVec 20) (bad : Bool) : Row :=
  { vs1 := sCrew 16, vs2 := sCrew 2, vs3 := sCrew 8, rnd := [0, 1, 2, 3, 4], bits := bits ||| modMask 14 13,
    unusedVal := bad || badDesc o, lat := none, collective := true, ends := true }

/-- Classes 0 and 3 (06_integer_and_control.md; TRAP, RESUME and CLRP: R383); for mod<13> of LEA (i): log entry 72. -/
def rowOf03 (code : Nat) (o : Ops) : Option Row :=
  let ty := modField o.mod 4 0
  let sat := modMask 13 13
  match code with
  | 0x001 | 0x002 | 0x005 => some (rowAlu [3, 7] sat 2)
  | 0x030 | 0x031 | 0x032 => some ((rowAlu [3, 7] sat 2).imm 2)
  | 0x003 | 0x00E => some (rowAlu [3] sat 1)
  | 0x004 | 0x007 => some (rowAlu [3, 7] sat 3)
  | 0x033 => some ((rowAlu [3, 7] sat 3).imm 3)
  | 0x006 => some (rowAlu [3, 7] 0 2 6)
  | 0x008 => some { rowAlu [3, 7] 0 2 6 with vd := dAny 2, vs3 := sAny 2 }
  | 0x009 | 0x00A => some (rowAlu [4, 8] 0 2 4 2)
  | 0x00B => some (rowAlu [4, 8] 0 3 6 2)
  | 0x00C | 0x00D => some (rowAlu [3, 7] 0 2)
  | 0x034 | 0x035 => some ((rowAlu [3, 7] 0 2).imm 2)
  | 0x00F => some (rowAlu [7, 3, 5] sat 3)
  | 0x010 | 0x011 | 0x012 | 0x014 => some (rowAlu [11] 0 2)
  | 0x038 | 0x039 | 0x03A | 0x03B => some ((rowAlu [11] 0 2).imm 2)
  | 0x013 | 0x01F | 0x020 | 0x021 | 0x022 => some (rowAlu [11] 0 1)
  | 0x015 => some (rowAlu [11] (modMask 19 12) 3)
  | 0x018 | 0x019 | 0x01A => some (rowAlu [11] sat 2)
  | 0x03C | 0x03D | 0x03E => some ((rowAlu [11] sat 2).imm 2)
  | 0x01B => some (rowAlu [11] (modMask 14 13) 3)
  | 0x01C => some (rowAlu [11] sat 2)
  | 0x01D => some (rowAlu [7, 3] 0 2)
  | 0x01E | 0x023 => some (rowAlu [11] 0 3)
  | 0x024 | 0x036 =>
    let w := typeWidth (effType ty [3])
    let r : Row := { vd := dBit, vs1 := sAny w, vs2 := sAny w, ty := [3, 7, 4, 8], bits := modMask 12 10 ||| modMask 18 14,
                     unusedVal := 6 ≤ modField o.mod 12 10 }
    some (if code = 0x036 then r.imm 2 else r)
  | 0x025 => some (rowAlu [11] (modMask 18 14) 3)
  | 0x037 => some { vd := dVec, vs1 := sVec, vs2 := sVec, form := .i, ty := [11], bits := modMask 18 14 }
  | 0x028 => some (rowAlu [11] 0 1)
  | 0x029 => some { vd := dAny, form := .i, ty := [11] }
  | 0x02A => some (rowAlu [12] 0 1 4 2)
  | 0x02F => some { vd := dVec 2, form := .w }
  | 0x02B => some { vd := dAny 2, vs1 := sAny 2, vs2 := sAny, ty := [3], bits := modMask 18 13 }
  | 0x03F => some { vd := dAny 2, vs1 := sAny 2, form := .i, ty := [3], bits := modMask 18 13 }
  | 0x02C | 0x02D =>
    let dyn := modField o.mod 19 19 = 1
    some { vd := dBit, vs1 := if dyn then sAny else .none, ty := [11],
           bits := if dyn then modMask 19 19 else modMask 18 14 }
  | 0x02E => some { vd := dBit, vs1 := sAny, vs2 := sAny, ty := [11], bits := modMask 12 10 ||| modMask 18 14, bits2 := 0x3FF,
                    unusedVal := 6 ≤ modField o.mod 12 10 }
  | 0x0C0 | 0x0C6 => some { form := .i, lat := some 1 }
  | 0x0C1 | 0x0C4 => some { vs1 := sAny 2, lat := some 1 }
  | 0x0C2 => some { form := .i, vd := dVec 2 }
  | 0x0C3 => some { vd := dVec 2, vs1 := sAny 2 }
  | 0x0C5 | 0x0C7 | 0x0C8 => some { lat := some 1 }
  | 0x0C9 => some { vd := .num, vs1 := if modField o.mod 13 13 = 1 then sAny 2 else .none, bits := sat, lat := some 1 }
  | 0x0CA => some { bits := modMask 14 13, unusedVal := modField o.mod 14 13 = 3, lat := some 1 }
  | 0x0CB => some { vd := if modField o.mod 13 13 = 1 then dVec else .none, bits := sat, lat := some 1 }
  | _ => none

/-- Classes 1 and 2 (07_floating_point.md). -/
def rowOf12 (code : Nat) (o : Ops) : Option Row :=
  let ty := modField o.mod 4 0
  let ty2 := modField o.mod 9 5
  let rs := modField o.mod 12 10 = 4
  let clamp := modMask 13 13
  let cross := modMask 5 5
  let r4 := [0, 1, 2, 3]
  match code with
  | 0x040 | 0x041 => some (rowFp [15] r4 clamp 2 [1, 2])
  | 0x070 | 0x071 => some ((rowFp [15] r4 clamp 2 [1]).imm 2)
  | 0x042 => some (rowFp [15] r4 clamp 3 [1, 2, 3])
  | 0x072 => some ((rowFp [15] r4 clamp 3 [1, 2]).imm 3)
  | 0x043 | 0x044 => some (rowFp [15] [0] 0 2 [1, 2])
  | 0x073 | 0x074 => some ((rowFp [15] [0] 0 2 [1]).imm 2)
  | 0x045 => some (rowCmp [15] [1, 2])
  | 0x075 => some ((rowCmp [15] [1]).imm 2)
  | 0x046 => some { vd := dAny, vs1 := sAny (typeWidth ty), ty := [15, 14, 16, 17], rnd := [0] }
  | 0x047 => some (rowFp [15, 14] r4 0 1 [1] (typeWidth ty))
  | 0x048 => some { rowFp [15, 14] r4 0 1 [1] (typeWidth ty) with vs2 := sAny }
  | 0x049 | 0x04A | 0x04B | 0x04C | 0x04D | 0x04E | 0x04F | 0x050 => some (rowFp [15] r4 0 1 [1] 1 none)
  | 0x054 => some { rowAlu [1, 5] clamp 3 with ty2 := [1, 5], rnd := [0] }
  | 0x058 | 0x059 => some (rowFp [16] r4 (clamp ||| cross) 2 [1, 2])
  | 0x078 | 0x079 => some ((rowFp [16] r4 (clamp ||| cross) 2 [1]).imm 2)
  | 0x05A => some (rowFp [16] r4 (clamp ||| cross) 3 [1, 2, 3])
  | 0x07A => some ((rowFp [16] r4 (clamp ||| cross) 3 [1, 2]).imm 3)
  | 0x05B | 0x05C => some (rowFp [16, 17] [0] cross 2 [1, 2])
  | 0x05D => some { rowCmp [16, 17] [1, 2] with unusedVal := modField o.mod 9 5 = 31 }
  | 0x060 | 0x061 => some (rowFp [17] r4 (clamp ||| cross) 2 [1, 2])
  | 0x07B | 0x07C => some ((rowFp [17] r4 (clamp ||| cross) 2 [1]).imm 2)
  | 0x062 => some (rowFp [17] r4 (clamp ||| cross) 3 [1, 2, 3])
  | 0x07D => some ((rowFp [17] r4 (clamp ||| cross) 3 [1, 2]).imm 3)
  | 0x068 | 0x069 => some (rowFp [14] r4 clamp 2 [1, 2] 2 none)
  | 0x06A => some (rowFp [14] r4 clamp 3 [1, 2, 3] 2 none)
  | 0x06B | 0x06C => some (rowFp [14] [0] 0 2 [1, 2] 2 none)
  | 0x06D => some (rowCmp [14] [1, 2] 2 none)
  | 0x080 =>
    let td := effType ty [15]
    let ts := effType ty2 [15]
    some { vd := dAny (typeWidth td), vs1 := sAny (typeWidth ts), vs2 := if rs then seedReg else .none, ty := cvtTypes,
           ty2 := cvtTypes, rnd := cvtRounds td ts, bits := satBit td ts }
  | 0x081 =>
    let td := effType ty [16]
    let ts := effType ty2 [15]
    let lim := if td = 20 then 4 else if td = 18 || td = 19 || td = 1 || td = 5 then 2 else 1
    some { rowAlu [16, 17, 18, 19, 20, 1, 5, 2, 6] (satBit td ts ||| modMask 15 14) 3 with
           vs4 := if rs then seedReg else .none, ty2 := [15, 3, 7], rnd := cvtRounds td ts,
           unusedVal := lim ≤ modField o.mod 15 14 }
  | 0x082 =>
    let td := effType ty [18]
    some { rowAlu [18, 19, 20, 16, 17] 0 2 with vs3 := if rs then seedReg else .none, ty2 := [15, 16, 17], rnd := cvtRounds td 15 }
  | 0x088 =>
    let w := typeWidth ty
    some { vd := dVec w, vs1 := sVec w, vs2 := sVec, ty := [11, 12], rnd := [0], bits := modMask 14 13 ||| modMask 18 16,
           unusedVal := 6 ≤ modField o.mod 18 16, lat := some 6 }
  | 0x089 => some { vd := dVec, vs1 := sVec, ty := [11], rnd := [0], bits := modMask 14 13 ||| modMask 19 15, lat := some 6 }
  | 0x08A => some { vd := dVec, vs1 := sVec, ty := [3, 7], rnd := [0], bits := modMask 19 13,
                    unusedVal := 6 ≤ modField o.mod 15 13 || modField o.mod 19 18 = 3, lat := some 6 }
  | 0x08B => some { vd := dBit, vs1 := sVec, ty := [11], rnd := [0], bits := modMask 19 15, lat := some 6 }
  | _ => none

/-- Classes 4 and 5 (08_memory_and_sync_instructions.md). LDT.b32 fills vd and vd+1 (R178), which is not called a pair: the model takes them as one, so that an odd vd
makes no instruction (R47, R68; DEDUCED, log entry 72). -/
def rowOf45 (code : Nat) (o : Ops) : Option Row :=
  let ty := modField o.mod 4 0
  let sem := modField o.mod 14 13
  let ix := modField o.mod 17 17 = 1
  let op := modField o.mod 8 5
  let sc := modField o.mod 12 10
  let scopes := [0, 1, 2, 3, 4]
  match code with
  | 0x100 => some { rowMem [11, 3, 7, 1, 2, 9, 5, 10, 6, 12, 13] (dVec (typeWidth ty)) true (modMask 14 13) ix none with
                    unusedVal := 2 ≤ sem }
  | 0x101 => some { rowMem [11, 9, 10, 12, 13] (sAny (typeWidth ty)) true (modMask 14 13) ix none with
                    unusedVal := sem = 1 || sem = 3, ends := sem = 2 }
  | 0x102 => some (rowMem [10, 9, 11] (dVec (if ty = 11 then 2 else 1)) false 0 ix none)
  | 0x103 => some (rowMem [] .none true (modMask 16 16) ix (some 1))
  | 0x140 =>
    let w := typeWidth (effType ty (atomTypes op))
    some { form := .a, vd := dVec w, vs1 := sAny 2, vs2 := sAny w, vs3 := if op = 8 then sAny w else .none,
           ty := checkTypes (op ≤ 11) op, rnd := scopes, bits := modMask 8 5 ||| modMask 14 13,
           unusedVal := 12 ≤ op, lat := none, ends := true }
  | 0x141 =>
    let w := typeWidth (effType ty (atomTypes op))
    some { form := .a, vs1 := sAny 2, vs2 := sAny w, ty := checkTypes (redOp op) op, rnd := scopes,
           bits := modMask 8 5, unusedVal := !redOp op, lat := none, ends := true }
  | 0x142 => some { vd := dVec, vs1 := sVec (typeWidth ty), ty := [11, 12], bits := modMask 17 16,
                    unusedVal := modField o.mod 17 16 = 3, lat := none }
  | 0x143 => some { rnd := scopes, lat := none, ends := true }
  | 0x144 | 0x146 =>
    some { vs1 := if modField o.mod 15 15 = 1 then sAny else .none, rnd := [1, 2, 3], bits := modMask 15 15 ||| modMask 19 16,
           unusedVal := barIds sc ≤ modField o.mod 19 16, lat := none, ends := true }
  | 0x145 => some { rnd := [1, 2, 3], bits := modMask 19 16, unusedVal := barIds sc ≤ modField o.mod 19 16, lat := none,
                    ends := true }
  | 0x147 => some { vd := dVec 2, vs1 := sAny 2, vs2 := sAny 2, rnd := scopes, lat := none }
  | _ => none

/-- Class 6 and the transfer commands (09_matrix_and_transfer_instructions.md). -/
def rowOf6 (code : Nat) (o : Ops) : Option Row :=
  let d := o.vd.num.toNat
  let a := o.vs1.num.toNat
  let b := o.vs2.num.toNat
  match code with
  | 0x180 | 0x181 => some (rowMat .num .none .num [] (8 ≤ b || 32 < d + b + 1))
  | 0x184 | 0x185 => some (rowMat .num .none .num [] (8 ≤ b || 8 < d + b + 1))
  | 0x182 | 0x183 => some (rowMat .num (sCrew 2) .none [] (32 ≤ d))
  | 0x186 => some (rowMat .num .none .none [] (8 ≤ d))
  | 0x187 | 0x188 => some (rowMat .num (sCrew 2) .none [11, 16, 17] (8 ≤ d))
  | 0x189 => some (rowMat (dVec 4) .num sAny [] (8 ≤ a))
  | 0x18A | 0x18B | 0x18C | 0x18D => some (rowMat .num .num .num [] (8 ≤ d || 32 ≤ a || 32 ≤ b))
  | 0x1C0 =>
    let loc := modField o.mod 15 15 = 1
    let r := rowXfer o (modMask 18 15) (loc && (modField o.mod 18 18 = 1 || 32 ≤ b))
    some (if loc then { r with vs2 := .num } else r)
  | 0x1C1 | 0x1C2 => some (rowXfer o (modMask 17 16) false)
  | 0x1C3 =>
    let comb := modField o.mod 18 18 = 1
    some (rowXfer o (modMask 18 18 ||| if comb then modMask 8 5 else 0) (comb && !redOp (modField o.mod 8 5)))
  | 0x1C4 => some (rowXfer o (modMask 8 5) (!redOp (modField o.mod 8 5)))
  | 0x1C5 => some { bits := modMask 16 13, unusedVal := modField o.mod 16 13 = 0, lat := none, collective := true, ends := true }
  | _ => none

/-- The system instructions (Table 1 of 10_system_instructions.md). -/
def rowOf7 (code : Nat) (o : Ops) : Option Row :=
  let a := o.vs1.num.toNat
  let d := o.vd.num.toNat
  match code with
  | 0x1C8 => some { vd := dAny (sregWidth a), vs1 := .num, unusedVal := 0x24 ≤ a, lat := none }
  | 0x1C9 => some { vd := .num, vs1 := sAny (sregWidth d), unusedVal := 0x24 ≤ d, lat := some 1 }
  | 0x1CA => some { bits := modMask 13 13, lat := some 1 }
  | 0x1CB => some { vs1 := sAny, lat := some 1 }
  | 0x1CC => some { vd := dVec 2, vs1 := sAny 2, vs2 := sAny 2, bits := modMask 13 13, lat := none, ends := true }
  | 0x1CD => some { vd := .num, lat := some 1 }
  | 0x1CE => some { vs1 := sAny 2, bits := modMask 16 14, unusedVal := 4 ≤ modField o.mod 16 14, lat := none }
  | 0x1CF => some { vs1 := sAny 2, vs2 := sAny, lat := none }
  | _ => none

/-- The entry of an opcode (Table 8 of 04_instruction_encoding.md), or none where the opcode is unassigned. -/
def rowOf (code : Nat) (o : Ops) : Option Row :=
  if code < 0x040 then rowOf03 code o
  else if code < 0x0C0 then rowOf12 code o
  else if code < 0x100 then rowOf03 code o
  else if code < 0x180 then rowOf45 code o
  else if code < 0x1C8 then rowOf6 code o
  else rowOf7 code o

/-- The opcode and operands of a thread instruction (Table 8 of 04_instruction_encoding.md). -/
def opcodeOf (i : Instr) : Option (Nat × Ops) :=
  match i with
  | .iadd o => some (0x001, o)
  | .isub o => some (0x002, o)
  | .ineg o => some (0x003, o)
  | .iadd3 o => some (0x004, o)
  | .imul o => some (0x005, o)
  | .imulh o => some (0x006, o)
  | .imad o => some (0x007, o)
  | .imadw o => some (0x008, o)
  | .iadd64 o => some (0x009, o)
  | .isub64 o => some (0x00A, o)
  | .imad64 o => some (0x00B, o)
  | .imin o => some (0x00C, o)
  | .imax o => some (0x00D, o)
  | .iabs o => some (0x00E, o)
  | .isad o => some (0x00F, o)
  | .and o => some (0x010, o)
  | .or o => some (0x011, o)
  | .xor o => some (0x012, o)
  | .not o => some (0x013, o)
  | .andn o => some (0x014, o)
  | .lop3 o => some (0x015, o)
  | .shl o => some (0x018, o)
  | .shr o => some (0x019, o)
  | .sar o => some (0x01A, o)
  | .shf o => some (0x01B, o)
  | .rot o => some (0x01C, o)
  | .bfe o => some (0x01D, o)
  | .bfi o => some (0x01E, o)
  | .brev o => some (0x01F, o)
  | .popc o => some (0x020, o)
  | .clz o => some (0x021, o)
  | .ctz o => some (0x022, o)
  | .prmt o => some (0x023, o)
  | .isetb o => some (0x024, o)
  | .sel o => some (0x025, o)
  | .mov o => some (0x028, o)
  | .movi o => some (0x029, o)
  | .mov64 o => some (0x02A, o)
  | .lea o => some (0x02B, o)
  | .setbit o => some (0x02C, o)
  | .clrbit o => some (0x02D, o)
  | .bitop o => some (0x02E, o)
  | .mov64I o => some (0x02F, o)
  | .iaddI o => some (0x030, o)
  | .isubI o => some (0x031, o)
  | .imulI o => some (0x032, o)
  | .imadI o => some (0x033, o)
  | .iminI o => some (0x034, o)
  | .imaxI o => some (0x035, o)
  | .isetbI o => some (0x036, o)
  | .selI o => some (0x037, o)
  | .andI o => some (0x038, o)
  | .orI o => some (0x039, o)
  | .xorI o => some (0x03A, o)
  | .andnI o => some (0x03B, o)
  | .shlI o => some (0x03C, o)
  | .shrI o => some (0x03D, o)
  | .sarI o => some (0x03E, o)
  | .leaI o => some (0x03F, o)
  | .fadd o => some (0x040, o)
  | .fmul o => some (0x041, o)
  | .ffma o => some (0x042, o)
  | .fmin o => some (0x043, o)
  | .fmax o => some (0x044, o)
  | .fsetb o => some (0x045, o)
  | .fclass o => some (0x046, o)
  | .frnd o => some (0x047, o)
  | .fscale o => some (0x048, o)
  | .rcp o => some (0x049, o)
  | .rsq o => some (0x04A, o)
  | .sqrt o => some (0x04B, o)
  | .ex2 o => some (0x04C, o)
  | .lg2 o => some (0x04D, o)
  | .sin o => some (0x04E, o)
  | .cos o => some (0x04F, o)
  | .tanh o => some (0x050, o)
  | .idp4 o => some (0x054, o)
  | .hadd2 o => some (0x058, o)
  | .hmul2 o => some (0x059, o)
  | .hfma2 o => some (0x05A, o)
  | .hmin2 o => some (0x05B, o)
  | .hmax2 o => some (0x05C, o)
  | .hsetb2 o => some (0x05D, o)
  | .badd2 o => some (0x060, o)
  | .bmul2 o => some (0x061, o)
  | .bfma2 o => some (0x062, o)
  | .dadd o => some (0x068, o)
  | .dmul o => some (0x069, o)
  | .dfma o => some (0x06A, o)
  | .dmin o => some (0x06B, o)
  | .dmax o => some (0x06C, o)
  | .dsetb o => some (0x06D, o)
  | .faddI o => some (0x070, o)
  | .fmulI o => some (0x071, o)
  | .ffmaI o => some (0x072, o)
  | .fminI o => some (0x073, o)
  | .fmaxI o => some (0x074, o)
  | .fsetbI o => some (0x075, o)
  | .hadd2I o => some (0x078, o)
  | .hmul2I o => some (0x079, o)
  | .hfma2I o => some (0x07A, o)
  | .badd2I o => some (0x07B, o)
  | .bmul2I o => some (0x07C, o)
  | .bfma2I o => some (0x07D, o)
  | .cvt o => some (0x080, o)
  | .cvtpk o => some (0x081, o)
  | .cvts o => some (0x082, o)
  | .shfl o => some (0x088, o)
  | .vote o => some (0x089, o)
  | .redux o => some (0x08A, o)
  | .elect o => some (0x08B, o)
  | .bra o => some (0x0C0, o)
  | .brx o => some (0x0C1, o)
  | .call o => some (0x0C2, o)
  | .callx o => some (0x0C3, o)
  | .ret o => some (0x0C4, o)
  | .exit o => some (0x0C5, o)
  | .meet o => some (0x0C6, o)
  | .region o => some (0x0C7, o)
  | .nop o => some (0x0C8, o)
  | .trap o => some (0x0C9, o)
  | .resume o => some (0x0CA, o)
  | .clrp o => some (0x0CB, o)
  | .ld o => some (0x100, o)
  | .st o => some (0x101, o)
  | .ldt o => some (0x102, o)
  | .pref o => some (0x103, o)
  | .atom o => some (0x140, o)
  | .red o => some (0x141, o)
  | .match o => some (0x142, o)
  | .fence o => some (0x143, o)
  | .barArr o => some (0x144, o)
  | .barWait o => some (0x145, o)
  | .barSync o => some (0x146, o)
  | .ctrwait o => some (0x147, o)
  | .oclaim o => some (0x180, o)
  | .orelease o => some (0x181, o)
  | .ohdr o => some (0x182, o)
  | .old o => some (0x183, o)
  | .aclaim o => some (0x184, o)
  | .arelease o => some (0x185, o)
  | .azero o => some (0x186, o)
  | .ald o => some (0x187, o)
  | .ast o => some (0x188, o)
  | .ard o => some (0x189, o)
  | .mma o => some (0x18A, o)
  | .mmas o => some (0x18B, o)
  | .mmag o => some (0x18C, o)
  | .mmags o => some (0x18D, o)
  | .xcopy o => some (0x1C0, o)
  | .xloop o => some (0x1C1, o)
  | .xgather o => some (0x1C2, o)
  | .xscatter o => some (0x1C3, o)
  | .xred o => some (0x1C4, o)
  | .xfence o => some (0x1C5, o)
  | .movs o => some (0x1C8, o)
  | .movsw o => some (0x1C9, o)
  | .yield o => some (0x1CA, o)
  | .tmark o => some (0x1CB, o)
  | .enq o => some (0x1CC, o)
  | .bkpt o => some (0x1CD, o)
  | .cctl o => some (0x1CE, o)
  | .invi o => some (0x1CF, o)
  | _ => none

/-! ## Words that are not instructions -/

def Operand.reserved (p : Operand) (r : Reg) : Bool :=
  match p with
  | .none => r.crew || r.num != 0
  | .num => r.crew
  | .reg .. => false

def Operand.badKind (p : Operand) (r : Reg) : Bool :=
  match p with
  | .reg _ _ _ .vec => r.crew
  | .reg _ _ _ .any => r.crew && 64 ≤ r.num.toNat
  | .reg _ _ _ .crew => !r.crew || 64 ≤ r.num.toNat
  | _ => false

def Operand.badPair (p : Operand) (r : Reg) : Bool :=
  match p with
  | .reg _ _ w _ => w ≤ 4 && r.num.toNat % w != 0
  | _ => false

/-- The fields of an instruction with the operands its entry gives them. -/
def Row.fields (r : Row) (o : Ops) : List (Operand × Reg) :=
  [(r.vd, o.vd), (r.vs1, o.vs1), (r.vs2, o.vs2), (r.vs3, o.vs3), (r.vs4, o.vs4)]

/-- The lowest subcode from 6 up that applies (Table 2 of 21_instruction_faults.md), none for an instruction. -/
def Row.bad (r : Row) (o : Ops) : Option Nat :=
  let used := r.bits ||| (if r.ty.isEmpty then 0 else modMask 4 0) ||| (if r.ty2.isEmpty then 0 else modMask 9 5)
    ||| (if r.rnd.isEmpty then 0 else modMask 12 10)
  if (o.mod &&& ~~~used) != 0 || (o.mod2 &&& ~~~r.bits2) != 0 || (r.fields o).any (fun f => f.1.reserved f.2) then some 6
  else if (r.fields o).any (fun f => f.1.badKind f.2) then some 7
  else if (!r.ty.isEmpty && modField o.mod 4 0 != 0 && !r.ty.contains (modField o.mod 4 0))
      || (!r.ty2.isEmpty && modField o.mod 9 5 != 0 && !r.ty2.contains (modField o.mod 9 5)) then some 8
  else if !r.rnd.isEmpty && !r.rnd.contains (modField o.mod 12 10) then some 9
  else if (r.fields o).any (fun f => f.1.badPair f.2) then some 10
  else if r.unusedVal then some 11
  else none

end Sys2Proof.Machine
end

