-- ==== Sys2Proof/WellFormed.lean ====
section
/-!
DEFINITION. Well-formedness of an instruction as syntax: its length is one its form has (R69), fields that the length lacks are
zero (R72), and no condition of Table 9 of 04_instruction_encoding.md holds (R78).
-/
namespace Sys2Proof

open Machine

/-- The lengths of a form (R69, Table 3 of 04_instruction_encoding.md). -/
def lenOk (f : Form) (l : Len) : Bool :=
  match f, l with
  | .i, .w64 => false
  | .w, .w64 => false
  | .w, .w96 => false
  | _, _ => true

/-- The instruction has an M word (R69). -/
def hasM (f : Form) (l : Len) : Bool :=
  match f, l with
  | _, .w64 => false
  | .w, _ => false
  | .i, .w96 => false
  | _, _ => true

/-- The instruction has an operand word (R69, R71). -/
def hasX (f : Form) (l : Len) : Bool := f == .r && l == .w128

/-- Fields that the length lacks are zero (R72), and the immediate fits its word. -/
def absentZero (f : Form) (o : Ops) : Bool :=
  (hasM f o.len || (o.mod == 0 && o.vs3 == ⟨false, 0⟩ && !o.vd.crew && !o.vs1.crew && !o.vs2.crew))
  && (hasX f o.len || (o.mod2 == 0 && o.vs4 == ⟨false, 0⟩))
  && match f with
     | .r => o.imm == 0
     | .i => o.imm.toNat < 2 ^ 32
     | .a => if o.len = .w128 then o.imm.toNat < 2 ^ 32 else o.imm == 0
     | .w => true

/-- A thread instruction's opcode and operands are those of an instruction. -/
def wfOps (code : Nat) (o : Ops) : Bool :=
  match rowOf code o with
  | none => false
  | some r => lenOk r.form o.len && absentZero r.form o && (r.bad o).isNone

/-- Every constructor but a thread instruction's is well formed as its types give it. -/
def Instr.wellFormed (i : Instr) : Bool :=
  match opcodeOf i with
  | none => true
  | some (code, o) => wfOps code o

end Sys2Proof
end

