-- ==== Sys2Proof/Decode.lean ====
section
/-!
DEFINITION. The decoder of thread instructions, total on any bytes of a fetch block and rejecting by subcode (R394), the decoder of
cox words (R304), and after them the encoder, written from the same tables (04_instruction_encoding.md, R63 to R78).
-/
namespace Sys2Proof

open Machine

/-! ## Bytes -/

/-- The number whose bytes, lowest first, are `bs`; all data is little-endian (R8). -/
def leNat : List Byte → Nat
  | [] => 0
  | b :: bs => b.toNat + 256 * leNat bs

/-- `n` bytes of `w`, lowest first. -/
def leBytes : Nat → Nat → List Byte
  | 0, _ => []
  | n + 1, w => BitVec.ofNat 8 w :: leBytes n (w / 256)

/-! ## Decoding -/

/-- The thread instruction of an opcode (Table 8 of 04_instruction_encoding.md). -/
def ofOpcode (code : Nat) (o : Ops) : Option Instr :=
  match code with
  | 0x001 => some (.iadd o)
  | 0x002 => some (.isub o)
  | 0x003 => some (.ineg o)
  | 0x004 => some (.iadd3 o)
  | 0x005 => some (.imul o)
  | 0x006 => some (.imulh o)
  | 0x007 => some (.imad o)
  | 0x008 => some (.imadw o)
  | 0x009 => some (.iadd64 o)
  | 0x00A => some (.isub64 o)
  | 0x00B => some (.imad64 o)
  | 0x00C => some (.imin o)
  | 0x00D => some (.imax o)
  | 0x00E => some (.iabs o)
  | 0x00F => some (.isad o)
  | 0x010 => some (.and o)
  | 0x011 => some (.or o)
  | 0x012 => some (.xor o)
  | 0x013 => some (.not o)
  | 0x014 => some (.andn o)
  | 0x015 => some (.lop3 o)
  | 0x018 => some (.shl o)
  | 0x019 => some (.shr o)
  | 0x01A => some (.sar o)
  | 0x01B => some (.shf o)
  | 0x01C => some (.rot o)
  | 0x01D => some (.bfe o)
  | 0x01E => some (.bfi o)
  | 0x01F => some (.brev o)
  | 0x020 => some (.popc o)
  | 0x021 => some (.clz o)
  | 0x022 => some (.ctz o)
  | 0x023 => some (.prmt o)
  | 0x024 => some (.isetb o)
  | 0x025 => some (.sel o)
  | 0x028 => some (.mov o)
  | 0x029 => some (.movi o)
  | 0x02A => some (.mov64 o)
  | 0x02B => some (.lea o)
  | 0x02C => some (.setbit o)
  | 0x02D => some (.clrbit o)
  | 0x02E => some (.bitop o)
  | 0x02F => some (.mov64I o)
  | 0x030 => some (.iaddI o)
  | 0x031 => some (.isubI o)
  | 0x032 => some (.imulI o)
  | 0x033 => some (.imadI o)
  | 0x034 => some (.iminI o)
  | 0x035 => some (.imaxI o)
  | 0x036 => some (.isetbI o)
  | 0x037 => some (.selI o)
  | 0x038 => some (.andI o)
  | 0x039 => some (.orI o)
  | 0x03A => some (.xorI o)
  | 0x03B => some (.andnI o)
  | 0x03C => some (.shlI o)
  | 0x03D => some (.shrI o)
  | 0x03E => some (.sarI o)
  | 0x03F => some (.leaI o)
  | 0x040 => some (.fadd o)
  | 0x041 => some (.fmul o)
  | 0x042 => some (.ffma o)
  | 0x043 => some (.fmin o)
  | 0x044 => some (.fmax o)
  | 0x045 => some (.fsetb o)
  | 0x046 => some (.fclass o)
  | 0x047 => some (.frnd o)
  | 0x048 => some (.fscale o)
  | 0x049 => some (.rcp o)
  | 0x04A => some (.rsq o)
  | 0x04B => some (.sqrt o)
  | 0x04C => some (.ex2 o)
  | 0x04D => some (.lg2 o)
  | 0x04E => some (.sin o)
  | 0x04F => some (.cos o)
  | 0x050 => some (.tanh o)
  | 0x054 => some (.idp4 o)
  | 0x058 => some (.hadd2 o)
  | 0x059 => some (.hmul2 o)
  | 0x05A => some (.hfma2 o)
  | 0x05B => some (.hmin2 o)
  | 0x05C => some (.hmax2 o)
  | 0x05D => some (.hsetb2 o)
  | 0x060 => some (.badd2 o)
  | 0x061 => some (.bmul2 o)
  | 0x062 => some (.bfma2 o)
  | 0x068 => some (.dadd o)
  | 0x069 => some (.dmul o)
  | 0x06A => some (.dfma o)
  | 0x06B => some (.dmin o)
  | 0x06C => some (.dmax o)
  | 0x06D => some (.dsetb o)
  | 0x070 => some (.faddI o)
  | 0x071 => some (.fmulI o)
  | 0x072 => some (.ffmaI o)
  | 0x073 => some (.fminI o)
  | 0x074 => some (.fmaxI o)
  | 0x075 => some (.fsetbI o)
  | 0x078 => some (.hadd2I o)
  | 0x079 => some (.hmul2I o)
  | 0x07A => some (.hfma2I o)
  | 0x07B => some (.badd2I o)
  | 0x07C => some (.bmul2I o)
  | 0x07D => some (.bfma2I o)
  | 0x080 => some (.cvt o)
  | 0x081 => some (.cvtpk o)
  | 0x082 => some (.cvts o)
  | 0x088 => some (.shfl o)
  | 0x089 => some (.vote o)
  | 0x08A => some (.redux o)
  | 0x08B => some (.elect o)
  | 0x0C0 => some (.bra o)
  | 0x0C1 => some (.brx o)
  | 0x0C2 => some (.call o)
  | 0x0C3 => some (.callx o)
  | 0x0C4 => some (.ret o)
  | 0x0C5 => some (.exit o)
  | 0x0C6 => some (.meet o)
  | 0x0C7 => some (.region o)
  | 0x0C8 => some (.nop o)
  | 0x0C9 => some (.trap o)
  | 0x0CA => some (.resume o)
  | 0x0CB => some (.clrp o)
  | 0x100 => some (.ld o)
  | 0x101 => some (.st o)
  | 0x102 => some (.ldt o)
  | 0x103 => some (.pref o)
  | 0x140 => some (.atom o)
  | 0x141 => some (.red o)
  | 0x142 => some (.match o)
  | 0x143 => some (.fence o)
  | 0x144 => some (.barArr o)
  | 0x145 => some (.barWait o)
  | 0x146 => some (.barSync o)
  | 0x147 => some (.ctrwait o)
  | 0x180 => some (.oclaim o)
  | 0x181 => some (.orelease o)
  | 0x182 => some (.ohdr o)
  | 0x183 => some (.old o)
  | 0x184 => some (.aclaim o)
  | 0x185 => some (.arelease o)
  | 0x186 => some (.azero o)
  | 0x187 => some (.ald o)
  | 0x188 => some (.ast o)
  | 0x189 => some (.ard o)
  | 0x18A => some (.mma o)
  | 0x18B => some (.mmas o)
  | 0x18C => some (.mmag o)
  | 0x18D => some (.mmags o)
  | 0x1C0 => some (.xcopy o)
  | 0x1C1 => some (.xloop o)
  | 0x1C2 => some (.xgather o)
  | 0x1C3 => some (.xscatter o)
  | 0x1C4 => some (.xred o)
  | 0x1C5 => some (.xfence o)
  | 0x1C8 => some (.movs o)
  | 0x1C9 => some (.movsw o)
  | 0x1CA => some (.yield o)
  | 0x1CB => some (.tmark o)
  | 0x1CC => some (.enq o)
  | 0x1CD => some (.bkpt o)
  | 0x1CE => some (.cctl o)
  | 0x1CF => some (.invi o)
  | _ => none

def lenOf (w : BitVec 32) : Option Len :=
  match (w.extractLsb' 0 2).toNat with
  | 0 => some .w64
  | 1 => some .w96
  | 2 => some .w128
  | _ => none

def lenBytes : Len → Nat
  | .w64 => 8
  | .w96 => 12
  | .w128 => 16

def flagOf (n : Nat) : Option (Fin 12) := if h : n < 12 then some ⟨n, h⟩ else none

/-- The fields of an instruction of form `f` (Tables 1, 3, 4 and 5 of 04_instruction_encoding.md): head `h`, words `e` and `x`. -/
def unpack (f : Form) (l : Len) (h : BitVec 64) (e x : BitVec 32) : Ops :=
  let m := if hasM f l then e else 0
  let y := if hasX f l then x else 0
  { len := l
    flag := flagOf (h.extractLsb' 39 4).toNat
    wait := h.extractLsb' 27 12
    stall := h.extractLsb' 24 3
    guard := ⟨h.extractLsb' 17 7, h.extractLsb' 12 5, h.getLsbD 11⟩
    vd := ⟨m.getLsbD 7, h.extractLsb' 43 7⟩
    vs1 := ⟨m.getLsbD 8, h.extractLsb' 50 7⟩
    vs2 := ⟨m.getLsbD 9, h.extractLsb' 57 7⟩
    vs3 := ⟨m.getLsbD 10, m.extractLsb' 0 7⟩
    vs4 := ⟨y.getLsbD 7, y.extractLsb' 0 7⟩
    mod := m.extractLsb' 11 20
    mod2 := y.extractLsb' 8 24
    imm := match f, l with
      | .r, _ => 0
      | .i, .w128 => x.zeroExtend 64
      | .i, _ => e.zeroExtend 64
      | .a, .w128 => x.zeroExtend 64
      | .a, _ => 0
      | .w, _ => x ++ e }

/-- Head, E and X words at the start of the bytes. -/
def headAt (bs : List Byte) : BitVec 64 := BitVec.ofNat 64 (leNat (bs.take 8))
def wordAt (bs : List Byte) (off : Nat) : BitVec 32 := BitVec.ofNat 32 (leNat ((bs.drop off).take 4))

/-- The instruction that starts the bytes `bs`, which end with their fetch block; or the lowest subcode of R394. -/
def decodeThread (bs : List Byte) : Nat ⊕ Instr :=
  let h := headAt bs
  match lenOf (wordAt bs 0) with
  | none => .inl 1
  | some l =>
    if bs.length < lenBytes l then .inl 2
    else
      let e := if l = .w64 then 0 else wordAt bs 8
      let x := if l = .w128 then wordAt bs 12 else 0
      let code := (h.extractLsb' 2 9).toNat
      let o := unpack .r l h 0 0
      match rowOf code o with
      | none => .inl 3
      | some r0 =>
        let o := unpack r0.form l h e x
        match rowOf code o, ofOpcode code o with
        | some r, some i =>
          if !lenOk r.form l then .inl 4
          else if 12 ≤ (h.extractLsb' 39 4).toNat && (h.extractLsb' 39 4).toNat ≤ 14 then .inl 5
          else if hasM r.form l && e.getLsbD 31 then .inl 6
          else match r.bad o with
            | some n => .inl n
            | none => .inr i
        | _, _ => .inl 3

/-- The cox instruction of a word (R304, Table 5 of 14_queues_host_fabric.md), none where an opcode is unused or a reserved field is
not zero. -/
def decodeCox (w : Word) : Option Instr :=
  match (w.extractLsb' 26 6).toNat with
  | 0x00 => if w &&& 0x03FFFFFF = 0 then some (.coxHalt) else none
  | 0x01 => if w &&& 0x00000000 = 0 then some (.coxLi (w.extractLsb' 22 4) (w.extractLsb' 0 22)) else none
  | 0x02 => if w &&& 0x003F0000 = 0 then some (.coxLih (w.extractLsb' 22 4) (w.extractLsb' 0 16)) else none
  | 0x03 => if w &&& 0x00000000 = 0 then some (.coxAdd (w.extractLsb' 22 4) (w.extractLsb' 18 4) (w.extractLsb' 14 4) (w.extractLsb' 0 14)) else none
  | 0x04 => if w &&& 0x00003FFF = 0 then some (.coxSub (w.extractLsb' 22 4) (w.extractLsb' 18 4) (w.extractLsb' 14 4)) else none
  | 0x05 => if w &&& 0x00003FFF = 0 then some (.coxAnd (w.extractLsb' 22 4) (w.extractLsb' 18 4) (w.extractLsb' 14 4)) else none
  | 0x06 => if w &&& 0x00003FFF = 0 then some (.coxOr (w.extractLsb' 22 4) (w.extractLsb' 18 4) (w.extractLsb' 14 4)) else none
  | 0x07 => if w &&& 0x00003FFF = 0 then some (.coxXor (w.extractLsb' 22 4) (w.extractLsb' 18 4) (w.extractLsb' 14 4)) else none
  | 0x08 => if w &&& 0x0003C000 = 0 then some (.coxShl (w.extractLsb' 22 4) (w.extractLsb' 18 4) (w.extractLsb' 0 14)) else none
  | 0x09 => if w &&& 0x0003C000 = 0 then some (.coxShr (w.extractLsb' 22 4) (w.extractLsb' 18 4) (w.extractLsb' 0 14)) else none
  | 0x0A => if w &&& 0x00003FFF = 0 then some (.coxMul (w.extractLsb' 22 4) (w.extractLsb' 18 4) (w.extractLsb' 14 4)) else none
  | 0x0B => if w &&& 0x00003FFF = 0 then some (.coxMinu (w.extractLsb' 22 4) (w.extractLsb' 18 4) (w.extractLsb' 14 4)) else none
  | 0x0C => if w &&& 0x003FC000 = 0 then some (.coxPkr (w.extractLsb' 22 4) (w.extractLsb' 0 14)) else none
  | 0x0D => if w &&& 0x03C3C000 = 0 then some (.coxPkw (w.extractLsb' 18 4) (w.extractLsb' 0 14)) else none
  | 0x0E => if w &&& 0x00000000 = 0 then some (.coxLdw (w.extractLsb' 22 4) (w.extractLsb' 18 4) (w.extractLsb' 15 3) (w.extractLsb' 0 15)) else none
  | 0x0F => if w &&& 0x00000000 = 0 then some (.coxStw (w.extractLsb' 22 4) (w.extractLsb' 18 4) (w.extractLsb' 15 3) (w.extractLsb' 0 15)) else none
  | 0x10 => if w &&& 0x00000000 = 0 then some (.coxAtadd (w.extractLsb' 22 4) (w.extractLsb' 18 4) (w.extractLsb' 15 3) (w.extractLsb' 0 15)) else none
  | 0x11 => if w &&& 0x03C00000 = 0 then some (.coxBeq (w.extractLsb' 18 4) (w.extractLsb' 14 4) (w.extractLsb' 0 14)) else none
  | 0x12 => if w &&& 0x03C00000 = 0 then some (.coxBne (w.extractLsb' 18 4) (w.extractLsb' 14 4) (w.extractLsb' 0 14)) else none
  | 0x13 => if w &&& 0x03C00000 = 0 then some (.coxBltu (w.extractLsb' 18 4) (w.extractLsb' 14 4) (w.extractLsb' 0 14)) else none
  | 0x14 => if w &&& 0x03FFC000 = 0 then some (.coxLoop (w.extractLsb' 0 14)) else none
  | 0x15 => if w &&& 0x03FFFFFF = 0 then some (.coxEndl) else none
  | 0x16 => if w &&& 0x03FFFFFF = 0 then some (.coxAct) else none
  | 0x17 => if w &&& 0x03C3FFFF = 0 then some (.coxNotify (w.extractLsb' 18 4)) else none
  | 0x18 => if w &&& 0x003FFFFF = 0 then some (.coxTime (w.extractLsb' 22 4)) else none
  | 0x19 => if w &&& 0x003FFFFF = 0 then some (.coxSeq (w.extractLsb' 22 4)) else none
  | _ => none

/-! ## Encoding -/

/-- The M word of an instruction (Table 4 of 04_instruction_encoding.md). -/
def packM (o : Ops) : BitVec 32 :=
  0#1 ++ o.mod ++ BitVec.ofBool o.vs3.crew ++ BitVec.ofBool o.vs2.crew ++ BitVec.ofBool o.vs1.crew ++ BitVec.ofBool o.vd.crew ++ o.vs3.num

/-- The operand word (Table 5 of 04_instruction_encoding.md). -/
def packX (o : Ops) : BitVec 32 := o.mod2 ++ BitVec.ofBool o.vs4.crew ++ o.vs4.num

def flagCode : Option (Fin 12) → BitVec 4
  | some f => BitVec.ofNat 4 f.val
  | none => 15

def lenCode : Len → BitVec 2
  | .w64 => 0
  | .w96 => 1
  | .w128 => 2

/-- The head (Table 1 of 04_instruction_encoding.md). -/
def packHead (code : Nat) (o : Ops) : BitVec 64 :=
  o.vs2.num ++ o.vs1.num ++ o.vd.num ++ flagCode o.flag ++ o.wait ++ o.stall ++ o.guard.reg ++ o.guard.bit ++ BitVec.ofBool o.guard.neg
    ++ BitVec.ofNat 9 code ++ lenCode o.len

/-- The 32-bit words of a thread instruction, first word first. -/
def packWords (f : Form) (code : Nat) (o : Ops) : List Word :=
  let h := packHead code o
  let head := [h.extractLsb' 0 32, h.extractLsb' 32 32]
  let lo := o.imm.extractLsb' 0 32
  match f, o.len with
  | _, .w64 => head
  | .i, .w96 => head ++ [lo]
  | _, .w96 => head ++ [packM o]
  | .r, .w128 => head ++ [packM o, packX o]
  | .i, .w128 => head ++ [packM o, lo]
  | .a, .w128 => head ++ [packM o, lo]
  | .w, .w128 => head ++ [lo, o.imm.extractLsb' 32 32]

/-- A cox word: opcode and fields at their lowest bits. -/
def coxWord (op : Nat) (fs : List (Nat × Nat)) : Word :=
  BitVec.ofNat 32 (fs.foldl (fun n f => n + f.2 * 2 ^ f.1) (op * 2 ^ 26))

/-- The word of a cox instruction (R304). -/
def encodeCox (i : Instr) : Option Word :=
  match i with
  | .coxHalt => some (coxWord 0x00 [])
  | .coxLi d i => some (coxWord 0x01 [(22, d.toNat), (0, i.toNat)])
  | .coxLih d i => some (coxWord 0x02 [(22, d.toNat), (0, i.toNat)])
  | .coxAdd d a b i => some (coxWord 0x03 [(22, d.toNat), (18, a.toNat), (14, b.toNat), (0, i.toNat)])
  | .coxSub d a b => some (coxWord 0x04 [(22, d.toNat), (18, a.toNat), (14, b.toNat)])
  | .coxAnd d a b => some (coxWord 0x05 [(22, d.toNat), (18, a.toNat), (14, b.toNat)])
  | .coxOr d a b => some (coxWord 0x06 [(22, d.toNat), (18, a.toNat), (14, b.toNat)])
  | .coxXor d a b => some (coxWord 0x07 [(22, d.toNat), (18, a.toNat), (14, b.toNat)])
  | .coxShl d a i => some (coxWord 0x08 [(22, d.toNat), (18, a.toNat), (0, i.toNat)])
  | .coxShr d a i => some (coxWord 0x09 [(22, d.toNat), (18, a.toNat), (0, i.toNat)])
  | .coxMul d a b => some (coxWord 0x0A [(22, d.toNat), (18, a.toNat), (14, b.toNat)])
  | .coxMinu d a b => some (coxWord 0x0B [(22, d.toNat), (18, a.toNat), (14, b.toNat)])
  | .coxPkr d i => some (coxWord 0x0C [(22, d.toNat), (0, i.toNat)])
  | .coxPkw a i => some (coxWord 0x0D [(18, a.toNat), (0, i.toNat)])
  | .coxLdw d a w i => some (coxWord 0x0E [(22, d.toNat), (18, a.toNat), (15, w.toNat), (0, i.toNat)])
  | .coxStw d a w i => some (coxWord 0x0F [(22, d.toNat), (18, a.toNat), (15, w.toNat), (0, i.toNat)])
  | .coxAtadd d a w i => some (coxWord 0x10 [(22, d.toNat), (18, a.toNat), (15, w.toNat), (0, i.toNat)])
  | .coxBeq a b i => some (coxWord 0x11 [(18, a.toNat), (14, b.toNat), (0, i.toNat)])
  | .coxBne a b i => some (coxWord 0x12 [(18, a.toNat), (14, b.toNat), (0, i.toNat)])
  | .coxBltu a b i => some (coxWord 0x13 [(18, a.toNat), (14, b.toNat), (0, i.toNat)])
  | .coxLoop i => some (coxWord 0x14 [(0, i.toNat)])
  | .coxEndl => some (coxWord 0x15 [])
  | .coxAct => some (coxWord 0x16 [])
  | .coxNotify a => some (coxWord 0x17 [(18, a.toNat)])
  | .coxTime d => some (coxWord 0x18 [(22, d.toNat)])
  | .coxSeq d => some (coxWord 0x19 [(22, d.toNat)])
  | _ => none

/-- The words of an instruction that the device fetches; an event of the part has none. -/
def encode (i : Instr) : List Word :=
  match opcodeOf i with
  | some (code, o) =>
    match rowOf code o with
    | some r => packWords r.form code o
    | none => []
  | none => (encodeCox i).toList

def wordsBytes (ws : List Word) : List Byte := ws.flatMap (fun w => leBytes 4 w.toNat)

/-! ## The opcode table's numbering -/

/-- The instruction of the word of `nbits` bits numbered as spec/opcode_table.json numbers them: at most 32 bits make a cox word, more
make a thread instruction, whose bits above `nbits` are zero. -/
def decodeTableWord (nbits w : Nat) : Option Instr :=
  if nbits ≤ 32 then decodeCox (BitVec.ofNat 32 w)
  else match decodeThread (leBytes 32 (w % 2 ^ nbits)) with
    | .inl _ => none
    | .inr i => some i

end Sys2Proof
end

