-- ==== Sys2Proof/Config.lean ====
section
/-!
DEFINITION. What an implementation fixes and the spec leaves open: free values, each an opaque constant with no body, so that no
proof can see its value (log entries 2, 3, 5, 6, 7, 41, 48 and 69 name them).
-/
namespace Sys2Proof.Config

/-- R401: whether an early read number `n` of a fixed-latency result returns the register's earlier value
(true) or the producer's result (false); each read decides independently. -/
opaque earlyRead : Nat → Bool

/-- R472 and the delays that the spec leaves open: the ticks of 1/18 ns after which the event that draws number `n` happens. -/
opaque latency : Nat → Nat

/-- R267: whether the accesses of the pass that draws number `n` are performed later than its issue. -/
opaque deferred : Nat → Bool

/-- R350: the latency fields of split records, which depend on timing that the spec leaves open. -/
opaque splitLatency : Nat → Nat

/-- R331: COUNT of an engine operation's chunk, which the spec does not state. -/
opaque engineCount : Nat → BitVec 32

/-- R317: the stepping in IDENT bits 23:16. -/
opaque stepping : BitVec 8

/-- R319, Table 10: the KIND code of a flit (0 request, 1 response, 2 reduction contribution, 3 beacon, 4 pause, 5 acknowledgement,
6 cross-trigger, 7 LU), and the kind-specific PARAM of the flits whose content the spec does not give. -/
opaque flitKind : Nat → BitVec 8
opaque flitParam : Nat → BitVec 40

/-- R319: the 64-bit CRC over bytes 0 to 247 of a flit, whose polynomial the spec does not give. -/
opaque flitCrc : List Byte → BitVec 64

/-- R246, R441: how a payload holds what a flit carries, and what a received payload says. -/
opaque flitPayload : FlitMsg → List Byte
opaque readPayload : List Byte → Option FlitMsg

/-- R320: the classes, bit i for class i, that a pause flit's PARAM pauses, and the PARAM that pauses these. -/
opaque pausedBy : BitVec 40 → BitVec 4
opaque pauseParam : BitVec 4 → BitVec 40

/-- R320: flits that the receive buffer of a class holds beyond its headroom of 64 and one more. -/
opaque rxRoom : Nat → Nat

/-- R320: the PARAM of an acknowledgement flit that asks for retry (true), and of one that does not. -/
opaque ackParam : Bool → BitVec 40

/-- R257: which held line the L3 eviction that draws number `n` takes; none when past the last. -/
opaque evictPick : Nat → Nat

/-- R322: SHA-256 (FIPS 180-4), which the spec names and does not define. -/
opaque sha256 : List Byte → BitVec 256

/-- R322, R467: whether boot ROM accepts the signature of a firmware image (SLH-DSA-SHA2-192s, FIPS 205). -/
opaque signatureGood : List Byte → Bool

/-- R467: the header check and the public-key digest of an image, as the fused package decides them. -/
opaque headerGood : List Byte → Bool
opaque keyDigestGood : List Byte → Bool

/-- R322: the firmware image in the boot flash when the package is first powered, or none when the flash cannot be read. -/
opaque factoryFlash : Option (List Byte)

/-- R322, Table 11: the digests of boot ROM identity and of the fuse configuration. -/
opaque romDigest : BitVec 256
opaque fuseDigest : BitVec 256

/-- R467, R468: the REASON of an image whose writing PERST# cut, and whether the flash write that draws number `n` succeeds. -/
opaque cutReason : BitVec 2
opaque flashGood : Nat → Bool

/-- R469, R470: the physical address of the repair table that firmware chooses, and the failing rows of register-file bank `b` of quarter `q`
of a core, in the order in which March C− finds them. -/
opaque repairTable : BitVec 64
opaque failingRows : Nat → Nat → Nat → List (BitVec 16)

/-- R470, R471: the bits of a scratchpad byte of a core that are stuck at 1 and at 0, by core and byte address. -/
opaque stuckBits : Nat → Nat → BitVec 8 × BitVec 8

/-- R323: the bytes of an SPDM message that the transport carries at once. -/
opaque transportSize : Nat

/-- R323: the certificate kept in the boot flash; the fused device secret, the 72-byte seed that the firmware derives from it, and the key pair of
SLH-DSA-SHA2-192s (FIPS 205), which the spec names and does not define: the 48-byte public key of a seed, and the 16,224-byte signature over a transcript. -/
opaque certificate : List Byte
opaque deviceSecret : List Byte
opaque keySeed : List Byte → BitVec 576
opaque slhPublic : BitVec 576 → BitVec 384
opaque slhSign : BitVec 576 → List Byte → BitVec 129792

/-- R470: the context record and the page tables that firmware lays out for the self-test, by physical address. -/
opaque firmwareMemory : List (BitVec 64 × List Byte)

/-- R469, R470: the physical address of that record, and the virtual addresses that firmware chooses for its queue's handle and ring, its program image, the
entry of `marchc` and the repair table. -/
opaque firmwareRecord : BitVec 64
opaque firmwareHandle : BitVec 64
opaque firmwareRing : BitVec 64
opaque firmwareProgram : BitVec 64
opaque firmwareEntry : BitVec 64
opaque firmwareTable : BitVec 64

/-- R469: what the rule leaves open in the LAUNCH packet of `marchc`, by number: 0 TAG, 1 RWRAP, 2 PRIO, 3 COOP, 4 SLICE, 5 MINRES, 6 GRACE, 7 STACKBASE, 8 STRIDE,
9 TRAPVEC. -/
opaque firmwareLaunch : Nat → Nat

/-- R322: the Sweep ports that have a link partner, which the firmware trains. -/
opaque portLinked : Nat → Bool

/-- R19, R21: which of the entries of a full instruction cache or L3 slice gives its place to a new one. -/
opaque victimPick : Nat → Nat

end Sys2Proof.Config
end

