-- ==== Sys2Proof/Machine/State.lean ====
section
/-!
DEFINITION. The state of one K24 package as plain data: everything the spec gives the machine, the steps' agenda, and
the state after reset. Sparse tables are lists; what a list does not name has its reset value.
-/
namespace Sys2Proof.Machine

/-! ## Memory and stamps -/

/-- Bytes by key: addresses strictly rising, no byte equal to 0, which is what an unlisted address reads as
(HBM: log entry 4; a new scratchpad allocation and a claimed slot read zero, R247, R56). -/
structure Memory where
  cells : List Host.Cell
  deriving DecidableEq, Repr

/-- A line stamp (R255, Table 3 and Table 4 of 11_memory_hierarchy.md). -/
structure Stamp where
  w : Word
  wpc : Word
  wo : Word
  ws : Word
  rd : Word
  ro : Word
  rs : Word
  rel : Bool
  rscope : BitVec 3
  wkind : BitVec 2
  wscope : BitVec 3
  deriving DecidableEq, Repr

/-- One exact accumulator of a floating reduction (R108); TOUCHED is its presence in the partial's list. -/
structure Accum where
  a : BitVec 320
  nan : Bool
  pinf : Bool
  ninf : Bool
  ovf : Bool
  u : DWord
  deriving DecidableEq, Repr

/-- The partial value of one touched element: floating accumulator or integer (R108, R254). -/
inductive Elem where
  | fl (x : Accum)
  | int (v : DWord)
  deriving DecidableEq, Repr

/-- A partial of one line: reduction op and type code, and its touched elements by index (R249, R253). -/
structure Partial where
  op : Nat
  ty : Nat
  elems : List (Nat × Elem)
  deriving DecidableEq, Repr

/-- A line held at its L3 home with its stamp; an absent line lies in HBM and fills settled (R253, R257). -/
structure HomeLine where
  line : LineId
  stamp : Stamp
  /-- The combine-unit buffer (or spill entry) of a line in update-only state (R253). -/
  uo : Option Partial
  /-- The cores whose L1 holds a partial of the line (R253). -/
  holders : List Nat
  /-- The buffer has been written to the reduction spill area (R253). -/
  spilled : Bool
  /-- Order of last use, for the least recently used buffer (R253). -/
  used : Nat
  /-- Staged contributions of XRED chunks not yet committed (R441). -/
  staged : List (ChunkKey × Partial × Word × Word)
  /-- Memory-poisoned: the mask of bytes written since the error (R414). -/
  bad : Option (BitVec 128)
  /-- The unit of the error that poisoned it (Table 3 of 22_memory_faults.md). -/
  badUnit : Nat
  deriving DecidableEq, Repr

/-- States of an L1 line (R249, Table 1); Invalid is absence. -/
inductive L1State where
  | shared | dirty | updateOnly
  deriving DecidableEq, Repr

/-- A line of a core's L1 (R249, R250, R422). -/
structure L1Line where
  line : LineId
  st : L1State
  data : List Byte
  mask : BitVec 128
  stamp : Stamp
  /-- Read fields changed since the fill (R250). -/
  readDirty : Bool
  /-- The home stamp's W and WO at fill or last refresh (R422). -/
  keptW : Word
  keptWO : Word
  part : Option Partial
  /-- The quarter whose access filled the line (R287). -/
  filler : Nat
  deriving DecidableEq, Repr

/-- A page-table entry as the walker reads it (R261, Table 5). -/
structure Pte where
  size : Nat
  ppn : BitVec 32
  homev : Bool
  home : Nat
  cache : Nat
  x : Bool
  w : Bool
  r : Bool
  deriving DecidableEq, Repr

/-- A per-core translation cache entry (R263): ASID, page number, entry. -/
structure TlbEntry where
  asid : BitVec 16
  vpn : BitVec 40
  pte : Pte
  deriving DecidableEq, Repr

/-- A fetch block held by an instruction cache (R19, R64, R244): ASID, VA, its 32 bytes. -/
structure ILine where
  asid : BitVec 16
  va : DWord
  bytes : List Byte
  deriving DecidableEq, Repr

/-! ## Threads -/

/-- What one access does (R173 to R180). -/
inductive AccKind where
  | load (acq : Bool) (sx : Bool)
  | store (rel : Bool)
  | atom (op ty : Nat) (acq rel : Bool)
  | red (op ty : Nat)
  deriving DecidableEq, Repr

/-- One lane's access, as its instruction issued it (R166, R175 to R180). -/
structure Access where
  kind : AccKind
  pc : DWord
  ea : DWord
  size : Nat
  scope : Nat
  /-- Store data, or the ATOM and RED value operand (low 64 bits) and the .cas swap value (high 64 bits). -/
  data : BitVec 128
  dest : List (BitVec 7)
  /-- Element bytes of an LDT, whose rows are read together (R178). -/
  ldt : Option Nat
  deriving DecidableEq, Repr

/-- An operation a thread has issued and that has not completed (R52, R54). -/
structure Pend where
  id : Nat
  /-- The issue pass it belongs to: lanes of one pass on one line form a group (R168). -/
  pass : Nat
  /-- The thread's count of issued instructions before this one (R327). -/
  seq : Nat
  lane : Nat
  flag : Option (Fin 12)
  /-- Registers to write at completion. -/
  writes : List (BitVec 7 × Word)
  /-- Crew registers to write at completion. -/
  kwrites : List (BitVec 7 × Word)
  /-- The destinations are written poisoned (R381). -/
  poisons : Bool
  /-- An access still to be performed, with the region it was issued in. -/
  todo : Option Access
  /-- Counts as an access of the region (R43). -/
  access : Bool
  /-- No later access may be performed before it completes (an acquire, R175, R267). -/
  acquire : Bool
  rpc : DWord
  rcount : Word
  /-- A peer request under way (R246), by its number. -/
  peer : Option Nat
  /-- The engine operations whose scoreboard entries have held it (R170), and the sync clock they give it (R195). -/
  held : List Nat
  lift : Option Word
  /-- The special register that a MOVS reads at its read point (R233, R234), and its destination; 0x80 for a MOVSW that clears STICKY behind the
  thread's earlier acquires (R60). -/
  sreg : Option (Nat × Reg)
  /-- A CCTL that waits for the thread's earlier accesses: its op and address (R243). -/
  cctl : Option (Nat × DWord)
  /-- Registers that instructions issued later have written, which it no longer writes (R401). -/
  gone : List (BitVec 7) := []
  deriving DecidableEq, Repr

/-- Delivery kinds (R376), in the order of precedence of R377 (async stands before issue). -/
inductive Delivery where
  | region | poison | async | issue
  deriving DecidableEq, Repr

/-- A standing fault of a thread (R376, R377). -/
structure PFault where
  how : Delivery
  order : Nat
  cause : Word
  addr : DWord
  pc : DWord
  rpc : DWord
  rcount : Word
  /-- A command's queue that its delivery makes whole again (R438). -/
  queue : Option Nat
  /-- The race report of this cycle whose index its DETAIL takes (R428, R430). -/
  race : Option Nat := none
  deriving DecidableEq, Repr

/-- A fault log record of the present cycle, for the log of an ASID (R387, R388). -/
structure FaultEntry where
  asid : BitVec 16
  hub : Nat
  bytes : List Byte
  deriving DecidableEq, Repr

/-- What a divergence record holds besides the code and detail (Table 3 of 25_record_and_debug_faults.md). -/
structure Divergence where
  recId : Word
  index : DWord
  launch : DWord
  where_ : Nat
  clock : Word
  count : Word
  ocount : Word
  pch : BitVec 16
  opch : BitVec 16
  exp : DWord
  obs : DWord
  deriving DecidableEq, Repr

/-- A failing check of a replay in the present cycle (R452, R453): the hub whose ring holds the record, with the thread that it halts, or else the
cox context that accepted its launch, the cause and the PC. -/
structure DivEntry where
  hub : Nat
  code : Nat
  detail : Nat
  asid : BitVec 16
  d : Divergence
  who : Option (TRef × PFault)
  owner : CoxId
  pc : DWord
  deriving DecidableEq, Repr

/-- A race record of the present cycle for the log of an ASID, with its number and the crew of a thread that traps for it (R428, R430). -/
structure RaceEntry where
  asid : BitVec 16
  bytes : List Byte
  no : Nat
  crew : Option CRef
  deriving DecidableEq, Repr

/-- Why a thread waits apart from flags (R29, R45). -/
inductive Wait where
  | none
  | bar (b : BarRef) (phase : Word) (pend : Nat)
  | ctr (ea : DWord) (target : DWord) (dest : BitVec 7) (scope : Nat) (last : Option DWord) (pend : Nat)
  /-- An ENQ that waits for room, with the region as it stood before its issue. -/
  | enqRoom (pc handle packet : DWord) (dest : BitVec 7) (seen : DWord) (pend : Nat) (region : DWord × Word × Bool)
  | enqPub (pc handle : DWord) (start next result : DWord) (dest : BitVec 7) (pend : Nat)
  /-- An INVI whose invalidation is not complete (R244). -/
  | inval (pend : Nat)
  | replay
  deriving DecidableEq, Repr

/-- The checking scoreboard of one register (R400). -/
structure Check where
  crew : Bool
  reg : BitVec 7
  due : Nat
  pend : Option Nat
  cov : Bool
  deriving DecidableEq, Repr

/-- A register write not yet due: until cycle `due` a read may see `old` (R67, R401). -/
structure Late where
  reg : BitVec 7
  old : Word
  due : Nat
  deriving DecidableEq, Repr

/-- A write of a crew register (R67, R50): no read that issues before cycle `due` sees it, and of those that a read sees the latest in issue order
(pass, then lane) stands. -/
structure KWrite where
  reg : BitVec 7
  val : Word
  due : Nat
  order : Nat
  deriving DecidableEq, Repr

/-- The poison record of a thread (R381). -/
structure PoisonRec where
  pc : DWord
  addr : DWord
  cause : Word
  deriving DecidableEq, Repr

/-- A thread's arrival at a barrier (R186, R188): the phase and whether it has been waited on. -/
structure Arrival where
  bar : BarRef
  phase : Word
  waited : Bool
  deriving DecidableEq, Repr

/-- The chunk a replaying thread may run (R334). -/
structure Grant where
  clock : Word
  left : Nat
  pch : BitVec 16
  trap : Bool
  index : DWord
  count : Word
  deriving DecidableEq, Repr

/-- A thread (R27). -/
structure Thread where
  /-- Program counter (R27, 02_execution_model.md). Reset: the kernel's entry at launch. -/
  pc : DWord
  /-- Vector registers v0 to v(n-1), 32 bits each (R46, 03_program_state.md). Reset: zero at launch. -/
  regs : List Word
  /-- Completion flags f0 to f11, 6 bits each (R52, 03_program_state.md). Reset: zero at launch. -/
  flags : List (BitVec 6)
  /-- Meet target (R27, R33, 02_execution_model.md). Reset: none at launch. -/
  meet : Option DWord
  /-- Cycle in which the thread reached its meet target (R33, 02_execution_model.md). Reset: none. -/
  meetAt : Option Nat
  /-- The thread has exited (R134, 06_integer_and_control.md). Reset: false at launch. -/
  exited : Bool
  /-- Region checkpoint $regionpc, 64 bits (R42, R58). Reset: entry PC at launch. -/
  regionPc : DWord
  /-- Region entry counter $regioncount, 32 bits (R42, R58). Reset: 0 at launch. -/
  regionCount : Word
  /-- No instruction has issued in the region of the checkpoint yet (R41, R42, log entry 65). Reset: false. -/
  regionNew : Bool
  /-- Order clock $oclock, 32 bits (R57, R171). Reset: clock floor of the section at placement. -/
  o : Word
  /-- Sync clock $sclock, 32 bits (R57, R172). Reset: clock floor at placement, then LB + 1 (R423). -/
  s : Word
  /-- Pending acquire clock PA, 32 bits (R172, 08_memory_and_sync_instructions.md). Reset: 0 at launch. -/
  pa : Word
  /-- Fence scope FS (R172, R184). Reset: none at launch. -/
  fs : Option Nat
  /-- $syncscope: RELSCOPE, ACQSCOPE, STICKY (R60, 03_program_state.md). Reset: 0. -/
  syncscope : Word
  /-- $trapvec, 64 bits (R58). Reset: from LAUNCH. -/
  trapvec : DWord
  /-- $trapcause, 32 bits (R58, R375). Reset: 0. -/
  trapcause : Word
  /-- $trapaddr, 64 bits (R58). Reset: 0. -/
  trapaddr : DWord
  /-- $trappc, 64 bits (R58). Reset: 0. -/
  trappc : DWord
  /-- Handler state (R380, 20_fault_architecture.md). Reset: false at launch. -/
  handler : Bool
  /-- Poisoned vector registers (R381, 20_fault_architecture.md). Reset: none. -/
  poison : List (BitVec 7)
  /-- Poison record (R381, 20_fault_architecture.md). Reset: none. -/
  poisonRec : Option PoisonRec
  /-- Faults standing for delivery (R377, 20_fault_architecture.md). Reset: none. -/
  faults : List PFault
  /-- Asynchronous faults that stood when the thread entered handler state: they stay pending until it leaves (R377, R438). Reset: none. -/
  later : List PFault
  /-- First cycle in which the stall count lets the thread issue (R29). Reset: 0. -/
  readyAt : Nat
  /-- Cycle in which it issued last (R29, R33). Reset: 0. -/
  issuedAt : Nat
  /-- Skip count (R30). Reset: 0 when the crew is placed. -/
  skip : Nat
  /-- Cycle in which the thread yielded, while it is yielded (R236, 10_system_instructions.md). Reset: none. -/
  yielded : Option Nat
  /-- What the thread waits for (R29, R188, R190, R242). Reset: none. -/
  wait : Wait
  /-- Arrivals at barriers (R186, R189). Reset: none. -/
  arrivals : List Arrival
  /-- Operations issued and not complete (R52, R54). Reset: none. -/
  pend : List Pend
  /-- Instructions issued, modulo nothing, and those issued before the current chunk began: their difference is the chunk's count
  (R327, 15_record_replay.md). Reset: 0. -/
  issued : Nat
  chunkStart : Nat
  /-- Checking scoreboard (R400, 21_instruction_faults.md). Reset: none. -/
  check : List Check
  /-- Register writes not yet due (R67, R401). Reset: none. -/
  late : List Late
  /-- Return hint stack, at most 8 entries (R132, 06_integer_and_control.md). Reset: empty. -/
  hints : List DWord
  /-- The thread passes once over the BKPT where it stopped (R240, R344). Reset: none. -/
  passBkpt : Option DWord
  /-- Watchpoints its next pass ignores once (R344). Reset: none. -/
  passWatch : List Nat
  /-- Chunk released to a replaying thread (R334). Reset: none. -/
  grant : Option Grant
  /-- Cause of the fault that halted the thread, with its PC untouched (R387, R390). Reset: none. -/
  haltFault : Option PFault
  deriving DecidableEq, Repr

/-! ## Crews, blocks, groups, launches -/

/-- The trace stream of a crew (R351, R454). -/
structure TraceStream where
  started : Bool
  lastCycle : Nat
  lastPc : DWord
  packets : Nat
  syncTime : Nat
  loss : Nat
  open_ : List Byte
  deriving DecidableEq, Repr

/-- A crew (R28). -/
structure Crew where
  /-- Crew slot 0 to 63; its quarter is slot / 16 (R17, R28). Reset: chosen at placement (R283). -/
  slot : Nat
  /-- Crew registers k0 to k63 (R48, R49). Reset: arguments, else zero, at launch. -/
  kregs : List Word
  /-- The writes of crew registers that a read may still find, newest and visible or not yet visible (R50, R67). Reset: none. -/
  klate : List KWrite
  threads : List Thread
  /-- Gang sequence number (R210, 09_matrix_and_transfer_instructions.md). Reset: 0 at launch. -/
  gangSeq : Word
  /-- Wait count (R285, 13_scheduling.md). Reset: 0 at placement and restore. -/
  wait : Nat
  /-- Store digest (R336, 15_record_replay.md). Reset: 0 at launch. -/
  digest : DWord
  /-- XCOPY commands the crew has issued (R221). Reset: 0. -/
  xcopies : Nat
  /-- Engine operations the crew has issued (R331). Reset: 0. -/
  engineOps : Nat
  /-- Slot, registers and crew-register file released (R134). Reset: false. -/
  released : Bool
  /-- Branch-and-mask trace stream (R351, 16_debug_trace_profiling.md). Reset: not started. -/
  trace : TraceStream
  deriving DecidableEq, Repr

/-- One counted arrival of a phase (R186, R187). -/
structure Arr where
  who : TRef
  s : Word
  o : Word
  id : Word
  deriving DecidableEq, Repr

/-- A barrier (R185 to R189). -/
structure Barrier where
  /-- Phase counter, 32 bits (R185). Reset: 0 at launch. -/
  phase : Word
  /-- Participant count fixed by the first arrival of the phase (R186). Reset: none. -/
  fixed : Option Nat
  /-- Arrivals of the open phase (R186, R189). Reset: none. -/
  arr : List Arr
  /-- Value M of completed phases (R187, R189). Reset: none. -/
  done : List (Word × Word)
  /-- Crews that have arrived in the open phase, by cycle and then by logical position (R186). Reset: none. -/
  came : List CRef
  deriving DecidableEq, Repr

/-- A release of a ring's stage by a rotation (R187, R224). -/
structure Release where
  /-- Sequence whose stage the rotation released (R224). -/
  seq : Word
  /-- Serial number of the rotation. -/
  turn : Nat
  /-- M of the rotation (R187, R195). -/
  m : Word
  deriving DecidableEq, Repr

/-- A ring region's moving state (R223, R248, R326). -/
structure Ring where
  /-- Stroke pointer, 4 bits (R248). Reset: 0 at launch. -/
  stroke : BitVec 4
  /-- Rotation count, 32 bits (R223). Reset: 0 at launch. -/
  rot : Word
  /-- Rotation stamp (R326). Reset: settled at the floor. -/
  stamp : Stamp
  /-- The releases of stages by rotations (R224): those of sequences at or after the rotation count, and those that an XLOOP has yet to
  write. Reset: none. -/
  rels : List Release
  deriving DecidableEq, Repr

/-- One slice of a transfer command: issuing crew, descriptor, box record, local side (R214, R215, R221). -/
structure Slice where
  crew : Nat
  desc : List Word
  box : List Word
  localAddr : DWord
  /-- Scratchpad offset of the local address, taken at issue (R196); none where it has no place. -/
  off : Option Nat
  slot : Option Nat
  mod : BitVec 20
  flag : Option (Fin 12)
  pc : DWord
  ident : Word
  /-- Elements done (R229). -/
  pos : Nat
  /-- Elements that a peer package has returned for the unit under way (R246). -/
  got : List Nat
  done : Bool
  /-- Serial number of the slice's issue, which orders it on the core (R212). -/
  order : Nat
  /-- Core and crew slot of its issue, which name its XRED chunks (R441). -/
  at_ : Nat × Nat := (0, 0)
  /-- Tick since which the XRED chunk under way waits for a spill entry (R418). -/
  since : Option Nat := none
  deriving DecidableEq, Repr

/-- A transfer command or fence in the queues of a block (R218, R228). -/
structure Cmd where
  id : Nat
  /-- Opcode minus 0x1C0 (R220): 0 XCOPY, 1 XLOOP, 2 XGATHER, 3 XSCATTER, 4 XRED, 5 XFENCE. -/
  op : Nat
  queues : List Nat
  scope : Nat
  slices : List Slice
  /-- Order of the command in its queues (R218, R221). -/
  order : Nat
  begun : Bool
  complete : Bool
  flushed : Bool
  failed : Bool
  oC : Word
  sC : Word
  /-- XLOOP: iteration, and P0 and Q0 taken at its beginning (R224). -/
  iter : Nat
  p0 : Nat
  q0 : Word
  /-- XRED: the block's XRED count (R441). -/
  count : Nat
  /-- The issuing crew's count of engine operations before it (R331). -/
  eop : Nat
  /-- Operations whose scoreboard entries have held it (R195). -/
  held : List Nat
  /-- Other packages that its XRED chunks have gone to (R441). -/
  chips : List (BitVec 8) := []
  deriving DecidableEq, Repr

/-- Stop state of a block under the debugger or a context halt (R343, R387). -/
inductive StopSt where
  | run | latched (rec : List Byte) | halted
  deriving DecidableEq, Repr

/-- A block (R34, R36). -/
structure Block where
  /-- Core 0 to 575 (R16, R17). Reset: chosen at placement (R283). -/
  core : Nat
  /-- First 4 KiB granule of its scratchpad allocation (R247). Reset: chosen at placement. -/
  base : Nat
  /-- Placement number on the core (R285). Reset: at placement. -/
  placeNo : Nat
  crews : List Crew
  /-- Bytes of the scratchpad allocation (R247). Reset: zero. -/
  scratch : Memory
  /-- Stamps of the allocation's lines that are not settled at the floor of placement (R247). Reset: none listed. -/
  stamps : List (Nat × Stamp)
  /-- Settled value of the unlisted stamps (R247, R257). Reset: floor at placement. -/
  settle : Word
  /-- Block barriers 0 to 15 (R185). Reset: phase 0. -/
  bars : List Barrier
  /-- Ring regions 0 to 7 (R248). Reset: stroke 0, rotation count 0. -/
  rings : List Ring
  /-- Transfer commands not retired, in issue order (R218). Reset: none. -/
  cmds : List Cmd
  /-- Queues broken by failed commands, each with the number of the fault that broke it (R438). Reset: none. -/
  broken : List (Nat × Nat)
  /-- XRED commands of the block (R441). Reset: 0. -/
  xreds : Nat
  /-- The block has ended (R134). Reset: false. -/
  ended : Bool
  /-- Kills of the block in its launch (R416). Reset: 0. -/
  kills : Nat
  /-- The block has arrived at a grid barrier (R416). Reset: false. -/
  gridArrived : Bool
  /-- Debug stop state (R343). Reset: running. -/
  stop : StopSt
  deriving DecidableEq, Repr

/-- An owned operand slot (R55, R197): header and data. -/
structure Slot where
  num : Nat
  owner : CRef
  header : DWord
  data : Memory
  deriving DecidableEq, Repr

/-- An owned accumulator (R55): elements that are not zero, by index 128 m + n. -/
structure Acc where
  num : Nat
  owner : CRef
  elems : List (Nat × Word)
  deriving DecidableEq, Repr

/-- Class 6 operations (R199 to R210). -/
inductive MatKind where
  | claim (acc : Bool) (n count : Nat)
  | release (acc : Bool) (n count : Nat)
  | ohdr (n : Nat) (hdr : DWord)
  | old (n : Nat) (ea : DWord)
  | azero (n : Nat)
  | ald (n ty : Nat) (ea : DWord)
  | ast (n ty : Nat) (ea : DWord)
  | ard (vd : BitVec 7) (n j : Nat)
  | mma (sparse gang : Bool) (d a b : Nat) (seq : Word)
  deriving DecidableEq, Repr

/-- A class 6 operation in the order of its core (R204), with its clocks (R195) and the matrix unit's acceptance (R473). -/
structure MatOp where
  id : Nat
  crew : CRef
  kind : MatKind
  flag : Option (Fin 12)
  pc : DWord
  ident : Word
  oC : Word
  sC : Word
  accepted : Bool
  /-- Scratchpad bytes it reads or writes, as a range (R212). -/
  range : Option (Nat × Nat)
  /-- The crew's count of engine operations before it (R331). -/
  eop : Nat
  /-- Operations whose scoreboard entries have held it (R195). -/
  held : List Nat
  /-- Bytes of an OLD, ALD or AST moved (R229). -/
  pos : Nat
  deriving DecidableEq, Repr

/-- Pre-emption states of a section group (R292, Table 3). -/
inductive GState where
  | resident | requested | stopping | saving | saved | restoring
  deriving DecidableEq, Repr

/-- A placed or saved section group (R34, R37, R292, R293). -/
structure Group where
  gid : Nat
  /-- Acceptance number of its launch. -/
  launch : Nat
  /-- Walk number (R278). -/
  walk : Nat
  st : GState
  /-- Section 0 to 5 in which it stands or stood. -/
  sect : Nat
  /-- Device time of its placement or restore: residency time counts from it (R288). -/
  since : DWord
  /-- Tick of the yield deadline (R290). Reset: none. -/
  deadline : Option Nat
  /-- The head for which this group gives way, as a victim, until it is restored (R289). Reset: none. -/
  victimOf : Option Nat
  /-- The packet that its launch's cox context was running when its stop began (R291). Reset: none. -/
  stopPkt : Option Nat
  /-- The stop is complete and its state is being stored (R292). Reset: false. -/
  storing : Bool
  blocks : List Block
  /-- Section barriers 0 to 7 (R185). Reset: phase 0. -/
  bars : List Barrier
  /-- HWX of the saving section (R260). Reset: 0. -/
  savedHwx : DWord
  /-- Tick at which the save or restore began, and the measured times of the last save and restore (R442). Reset: 0. -/
  saveFrom : Nat
  saveTook : Nat
  restoreTook : Nat
  /-- Its slice in µs (R288, R442). Reset: SLICE of its launch. -/
  slice : Nat
  /-- Class 6 operations and pending claims of its crews while it is saved (R293). Reset: none. -/
  savedOps : List MatOp
  /-- Operand slots of its crews while it is saved (R293, R56). Reset: none. -/
  savedSlots : List Slot
  /-- Accumulators of its crews while it is saved (R293, R56). Reset: none. -/
  savedAccs : List Acc
  /-- Swapped out by the debugger (R347). Reset: false. -/
  swapped : Bool
  deriving DecidableEq, Repr

/-- A declared ring region (R301 words 12 to 19, R248). -/
structure RingDecl where
  base : Nat
  stage : Nat
  stages : Nat
  bar : Nat
  deriving DecidableEq, Repr

/-- The fields of a LAUNCH packet (R301, Table 3). -/
structure LaunchP where
  entry : DWord
  x : Nat
  y : Nat
  z : Nat
  gx : Nat
  gy : Nat
  gz : Nat
  crews : Nat
  regs : Nat
  gran : Nat
  grows : Nat
  gcols : Nat
  idem : Bool
  modes : BitVec 8
  rwrap : Bool
  prio : Nat
  coop : Bool
  slice : Nat
  minres : Nat
  grace : Nat
  stackbase : BitVec 56
  stride : Nat
  trapvec : DWord
  homev : Bool
  harg : Nat
  stridex : DWord
  stridey : DWord
  rings : List (Option RingDecl)
  bpart : List Nat
  spart : List Nat
  args : List DWord
  deriving DecidableEq, Repr

/-- An accepted launch (R277, R311). -/
structure Launch where
  /-- Acceptance number in the package. -/
  idx : Nat
  /-- Launch sequence number $launch (R311). -/
  seq : DWord
  asid : BitVec 16
  cox : CoxId
  p : LaunchP
  /-- Next group in walk order (R280). Reset: 0. -/
  next : Nat
  /-- Blocks that have ended (R134). Reset: 0. -/
  ended : Nat
  /-- Round-robin pointer (R282). Reset: the sequencer's hub. -/
  rr : Nat
  /-- Grid barriers 0 to 3 (R277, R185). Reset: phase 0. -/
  bars : List Barrier
  /-- LB of R423. -/
  lb : Word
  /-- Serial maximum of clocks at completion (R423). -/
  endS : Word
  /-- Open until its last block ends (R277). -/
  isOpen : Bool
  /-- Packet number in its queue, for ORD (R302). -/
  packet : Nat
  deriving DecidableEq, Repr

/-- An entry of a waiting list (R280). -/
inductive WEntry where
  | launch (idx : Nat)
  | saved (gid : Nat)
  deriving DecidableEq, Repr

/-- What a victim of the slice arbiter held on a core when the arbiter chose it (R289): first granule and their number, crew slots with the
registers of a thread, operand slots and accumulators. -/
structure HeldCore where
  core : Nat
  base : Nat
  gran : Nat
  slots : List (Nat × Nat)
  oslots : List Nat
  accs : List Nat
  deriving DecidableEq, Repr

/-- A reservation of the slice arbiter (R289): for which head, in which section, from which victims, and what they held. -/
structure Reservation where
  head : WEntry
  sect : Nat
  victims : List Nat
  held : List HeldCore
  deriving DecidableEq, Repr

/-! ## Cores -/

/-- A quarter's issue state. -/
structure Quarter where
  /-- First cycle after the collective pass that occupies the issue slot (R32). Reset: 0. -/
  freeAt : Nat
  /-- First cycle in which the special-function unit is free (R149). Reset: 0. -/
  sfuFree : Nat
  /-- First cycle in which the FP64 pipe is free (R152). Reset: 0. -/
  fpFree : Nat
  /-- Lost-locality score, 10 bits (R287). Reset: 0. -/
  score : Nat
  /-- Passes until the next sample (R349). Reset: 0. -/
  sample : Nat
  /-- Galois LFSR (R349). Reset: 0x0001_0000 + 256 section + 4 core + quarter. -/
  lfsr : Word
  /-- The tagged passes under way, oldest first: crew, pass number and what the record holds so far (R349, R350). Reset: none. -/
  tagged : List (CRef × Nat × List Byte)
  deriving DecidableEq, Repr

/-- A core (R19). -/
structure Core where
  /-- Core number: 96 section + n (R16, R17). -/
  num : Nat
  /-- L1 lines, most recently used first (R249). Reset: Invalid. -/
  l1 : List L1Line
  /-- Instruction cache (R19, R244). Reset: empty. -/
  icache : List ILine
  /-- Translation cache (R263). Reset: empty. -/
  tlb : List TlbEntry
  /-- Operand slots that a crew owns (R55, R56). Reset: all free. -/
  slots : List Slot
  /-- Accumulators that a crew owns (R55, R56). Reset: all free. -/
  accs : List Acc
  /-- Class 6 operations and claims not yet complete, in issue order (R204). Reset: none. -/
  ops : List MatOp
  /-- Placements and restores on the core (R285). Reset: 0. -/
  places : Nat
  /-- Quarters 0 to 3. -/
  quarters : List Quarter
  /-- Victim tag array, at most 512 entries (R287). Reset: empty. -/
  victims : List (LineId × Nat)
  deriving DecidableEq, Repr

/-! ## Hubs, sections, contexts -/

/-- A replay record being matched (R331, R334). -/
structure RRec where
  index : DWord
  kind : Nat
  launch : DWord
  ident : Word
  clock : Word
  count : Word
  pch : BitVec 16
  trap : Bool
  mask : BitVec 128
  sreg : Nat
  value : DWord
  block : Nat
  crew : Nat
  /-- The packet of a PKT record; the mask of a CREW record as it was read. -/
  words : List DWord
  released : Bool
  complete : Bool
  deriving DecidableEq, Repr

/-- A chunk end of threads whose record is written at the end of its cycle (R328): its launch, whether its threads can be held, and the record: the first slot of
a CREW record with its mask, or, for another record made behind one, its slots with no mask. -/
structure CycRec where
  launch : DWord
  canWait : Bool
  slots : List (BitVec 128)
  mask : Option Nat
  deriving DecidableEq, Repr

/-- A recorder (R330, R449). -/
structure Recorder where
  /-- RRBASE, 64 bits (R330). Reset: 0. -/
  rrbase : DWord
  /-- RRSIZE, 8 bits (R330). Reset: 4. -/
  rrsize : BitVec 8
  /-- RRPUT, 64 bits (R330). Reset: 0. -/
  rrput : DWord
  /-- RRGET, 64 bits (R330). Reset: 0. -/
  rrget : DWord
  /-- RRCTL.STATE, 2 bits (R330). Reset: 0. -/
  state : BitVec 2
  /-- RBSEL, 64 bits (R330, R335). Reset: 0. -/
  rbsel : DWord
  /-- RBCHK, 64 bits (R330, R335). Reset: 0. -/
  rbchk : DWord
  /-- DIVADDR, 64 bits (R449). Reset: 0. -/
  divaddr : DWord
  /-- RRSTAT, 64 bits, W1C (R449). Reset: 0. -/
  rrstat : DWord
  /-- The replay has diverged: the recorder releases and checks nothing further (R453). Reset: false. -/
  diverged : Bool
  /-- LOSTPOS, 64 bits (R449). Reset: 0. -/
  lostpos : DWord
  /-- Blocks being filled: launch, block index, next slot (R331). Reset: none. -/
  openB : List (DWord × DWord × Nat)
  /-- Records read for replay and not complete (R334). Reset: none. -/
  replay : List RRec
  /-- LU as this hub has last sent it in this replay, none inside where it had no record left (R334). Reset: none sent. -/
  lu : Option (Option Word)
  /-- Records that wait for room under the stall policy, oldest first (R333, R450). Reset: none. -/
  held : List (DWord × List (BitVec 128))
  /-- Records of the present arithmetic cycle, from its first chunk end on (R328). Reset: none. -/
  cyc : List CycRec
  deriving DecidableEq, Repr

/-- A hub (R21). -/
structure Hub where
  /-- Settle clock SC, 32 bits (R257, 11_memory_hierarchy.md). Reset: 0. -/
  sc : Word
  /-- High-water clock HW, 32 bits (R258). Reset: 0 (log entry 8). -/
  hw : Word
  /-- HWX, 64 bits (R258). Reset: 0 (log entry 8). -/
  hwx : DWord
  /-- Size of the reduction spill area as system software has set it, 2^spillLog entries from 2^14 to 2^22, and its free entries (R253). Reset: 18, 2^18. -/
  spillLog : Nat
  spill : Nat
  /-- Commit table of XRED chunk keys (R441). Reset: empty. -/
  commits : List ChunkKey
  recd : Recorder
  /-- Last context that the copy engine served (R313). Reset: 0. -/
  copyLast : Nat
  /-- Last cox context served (R302). Reset: 0. -/
  coxLast : Nat
  /-- The hub cycle in which the cox executed last, and how many instructions it has executed in it (R302). Reset: 0, 0. -/
  coxCycle : Nat
  coxCount : Nat
  deriving DecidableEq, Repr

/-- Registers and trace buffer of a section (R352, R414, R454, R455, R457). -/
structure Section where
  /-- CECNT (R414). Reset: 0. -/
  cecnt : DWord
  /-- UECNT (R414). Reset: 0. -/
  uecnt : DWord
  /-- CETHR, 32 bits (R414). Reset: 0. -/
  cethr : Word
  /-- ESTAT, W1C (R414). Reset: 0. -/
  estat : DWord
  /-- EADDR (R414). Reset: 0. -/
  eaddr : DWord
  /-- WARN (R457). Reset: 0. -/
  warn : DWord
  /-- CKAREA (R457). Reset: 0. -/
  ckarea : DWord
  /-- Corrected errors in the current 1 ms window (R457). Reset: 0. -/
  window : Nat
  /-- An automatic checkpoint is pending (R457). Reset: false. -/
  autoPending : Bool
  /-- TRBASE (R352). Reset: 0. -/
  trbase : DWord
  /-- TRSIZE, 8 bits (R352). Reset: 1. -/
  trsize : BitVec 8
  /-- TRPUT (R352). Reset: 0. -/
  trput : DWord
  /-- TRGET (R352). Reset: 0. -/
  trget : DWord
  /-- SAMPK, 8 bits (R352). Reset: 16. -/
  sampk : BitVec 8
  /-- TRLOST (R454). Reset: 0. -/
  trlost : DWord
  /-- Trace buffer: 64-byte frames and split records, oldest first (R352). Reset: empty. -/
  buffer : List (List Byte)
  /-- Tick at which a gate was requested, while its buffer drains (R455). Reset: none. -/
  gating : Option Nat
  /-- The section's power is gated (R455). Reset: false. -/
  gated : Bool
  /-- Gate frames waiting for room, oldest first (R455). Reset: none. -/
  gateFrames : List (List Byte)
  deriving DecidableEq, Repr

/-- A window of a cox program (R303). -/
structure Window where
  base : DWord
  log : Nat
  rd : Bool
  wr : Bool
  deriving DecidableEq, Repr

/-- A copy queued with a hub's copy engine (R313). -/
structure Copy where
  src : DWord
  dst : DWord
  left : Nat
  ctr : DWord
  packet : Nat
  packetVa : DWord
  deriving DecidableEq, Repr

/-- A checkpoint under way (R338, R339): area, number, packet, lines still marked with the PA of their DATA place, and whether stop. -/
structure Ckpt where
  area : DWord
  number : DWord
  packet : Nat
  cut : Bool
  stop : Bool
  auto : Bool
  marks : List (LineId × DWord)
  /-- A line could not be read: its PA, till the context stops for it (R414, R445). -/
  lost : Option Nat := none
  deriving DecidableEq, Repr

/-- What a cox context waits for (R302, R310). -/
inductive CoxWait where
  | none
  | ord
  | launch (p : LaunchP)
  | counter (va : DWord) (target : DWord)
  /-- A COUNTER-ADD sent to another package (R246), with what it adds. -/
  | peerAdd (va n : DWord)
  | checkpoint
  deriving DecidableEq, Repr

/-- A cox context (R302 to R318). -/
structure Cox where
  id : CoxId
  /-- QCTL.EN (R317, Table 8). Reset: 0. -/
  en : Bool
  /-- QCTL.KIND (R317). Reset: 0. -/
  kind : Bool
  /-- QCTL.LOADED (R307, R317). Reset: 0. -/
  loaded : Bool
  /-- QCTL.NOREC (R305, R317). Reset: 0. -/
  norec : Bool
  /-- QCTL.STATE, 4 bits (R317). Reset: 0. -/
  state : Nat
  /-- QHANDLE (R317). Reset: 0. -/
  qhandle : DWord
  /-- QWRITE (R317). Reset: 0. -/
  qwrite : DWord
  /-- QREAD: copy of the handle's READ (R317). Reset: 0. -/
  qread : DWord
  /-- PROG (R317). Reset: 0. -/
  prog : DWord
  /-- CTXREC (R317). Reset: 0. -/
  ctxrec : DWord
  /-- TINV bit 0 (R317). Reset: 0. -/
  tinv : Bool
  /-- MSIV, 8 bits (R317). Reset: 0. -/
  msiv : BitVec 8
  /-- A PROG write whose checker has not finished, with the record it used (R307). Reset: none. -/
  checking : Option (DWord × DWord)
  /-- The context record bound by EN (R305). Reset: none. -/
  bound : Option DWord
  /-- Checked instructions (R307). Reset: none. -/
  code : List Word
  /-- Window declarations (R303). Reset: none. -/
  windows : List Window
  /-- Registers x0 to x15, 64 bits (R304). Reset: 0. -/
  x : List DWord
  /-- Cox pc (R304). Reset: 0. -/
  pc : Nat
  /-- Open loops: body start and iterations left (R304). Reset: none. -/
  loops : List (Nat × Nat)
  /-- Instructions executed for the packet (R308). Reset: 0. -/
  budget : Nat
  /-- Packet words in the context (R302, R304). Reset: none. -/
  packet : List DWord
  /-- Length of the packet taken (R302). Reset: 0. -/
  plen : Nat
  /-- It was taken from a PKT record of a replay (R337, R340). Reset: false. -/
  fromRec : Bool
  /-- Its first ACT has been performed, and its action done (R310, R445). Reset: false. -/
  acted : Bool
  actDone : Bool
  wait : CoxWait
  /-- Order, sync and pending acquire clocks (R306). Reset: 0 (log entry 8). -/
  o : Word
  s : Word
  pa : Word
  /-- Order, sync clocks of the hub's copy engine for this context (R306). Reset: 0 (log entry 8). -/
  co : Word
  cs : Word
  /-- Launches accepted since PROG was written (R311). Reset: 0. -/
  launches : Nat
  /-- Packets taken (R302), and those not complete with their numbers (R310). Reset: 0, none. -/
  packets : Nat
  openP : List Nat
  copies : List Copy
  /-- CUT of the last LAUNCH taken (R338). Reset: copy-on-write. -/
  cutStop : Bool
  /-- The last LAUNCH taken records (R338). Reset: false. -/
  recording : Bool
  /-- Number of the last STEP packet (R338). Reset: 0. -/
  lastStep : DWord
  ckpts : List Ckpt
  /-- Chunk count of the context while its queue is recorded (R327). Reset: 0. -/
  chunkCount : Word
  /-- The stop of R387 (context halted) rather than of its own fault (R390). Reset: false. -/
  haltStop : Bool
  /-- Values written to QWRITE, each with the host link's sync clock before that write (R423), oldest first. Reset: none. -/
  pubs : List (DWord × Word)
  deriving DecidableEq, Repr

/-- Registers shared by the contexts of one ASID (R389, R430, R443). -/
structure AsidSt where
  asid : BitVec 16
  /-- FLOGPUT (R389). Reset: 0. -/
  flogput : DWord
  /-- FSTAT.HALT (R389). Reset: 0. -/
  halt : Bool
  /-- RLOGBASE (R430). Reset: 0. -/
  rlogbase : DWord
  /-- RLOGSIZE (R430). Reset: 0. -/
  rlogsize : DWord
  /-- RLOGPUT (R430). Reset: 0. -/
  rlogput : DWord
  /-- SCHEDSTAT.YFORCED and SLICERAISED (R443). Reset: 0. -/
  yforced : Bool
  sliceRaised : Bool
  deriving DecidableEq, Repr

/-- A Sweep port (R319, R320, R459, R460). -/
structure Port where
  num : Nat
  /-- PSTATE.STATE (R459): 0 off 1 training 2 up 3 down 4 lost. Reset: 0. -/
  st : Nat
  /-- PSTATE.CAUSE (R459). Reset: 0. -/
  cause : Nat
  /-- PSTATE.PEER (R459). Reset: 0. -/
  peer : BitVec 8
  /-- PCTL.EN (R459). Reset: 0. -/
  en : Bool
  /-- PCTL.PVEC (R459). Reset: 0. -/
  pvec : Nat
  /-- CRCERR (R459). Reset: 0. -/
  crcerr : DWord
  /-- RETRIES (R459). Reset: 0. -/
  retries : DWord
  /-- PEVENT (R459). Reset: 0. -/
  pevent : DWord
  /-- Next sequence number expected (R320). Reset: 0. -/
  rxNext : BitVec 12
  /-- Next sequence number to send (R320). Reset: 0. -/
  txNext : BitVec 12
  /-- Flits sent and not acknowledged (R320). Reset: none. -/
  unacked : List Flit
  /-- Flits accepted and still in the receive buffers, oldest first (R320). Reset: none. -/
  rx : List Flit
  /-- The classes that this end has paused (R320). Reset: none. -/
  told : BitVec 4
  /-- Flits on the wire, in the order sent (R320). Reset: none. -/
  wire : List Flit
  /-- Flits not yet sent: the window is full, their class is paused or the port is not up (R320, R460). Reset: none. -/
  queue : List Flit
  /-- Tick at which ACK last advanced, or the first unacknowledged flit was sent (R460). Reset: 0. -/
  ackAt : Nat
  /-- Consecutive retry requests for one sequence number (R460). Reset: 0. -/
  run : Nat
  /-- Classes paused by the receiver (R320). Reset: none. -/
  paused : List Nat
  /-- Tick at which it went down (R460). Reset: none. -/
  downAt : Option Nat
  deriving DecidableEq, Repr

/-- The debug block (R341). -/
structure Debug where
  /-- DBGCTL.BPEN. Reset: 0. -/
  bpen : Bool
  /-- DBGCTL.HALTED (R343). Reset: 0. -/
  halted : Bool
  /-- DBGCTL.WPEN, 4 bits. Reset: 0. -/
  wpen : BitVec 4
  /-- DBGCTL.ASID. Reset: 0. -/
  asid : BitVec 16
  /-- STOPBASE. Reset: 0. -/
  stopbase : DWord
  /-- STOPSIZE. Reset: 0. -/
  stopsize : DWord
  /-- STOPPUT. Reset: 0. -/
  stopput : DWord
  /-- WPBASE 0 to 3. Reset: 0. -/
  wpbase : List DWord
  /-- WPCTL 0 to 3. Reset: 0. -/
  wpctl : List DWord
  /-- DBGBLK. Reset: 0. -/
  blk : DWord
  /-- DBGSEL. Reset: 0. -/
  sel : DWord
  /-- DBGDATA as last read (R348). Reset: 0. -/
  data : DWord
  /-- A trigger has been driven and reaches the cores (R342): its cause. Reset: none. -/
  trigger : Option Nat
  deriving DecidableEq, Repr

/-- A black-box entry (R353, R456). -/
structure BBEntry where
  die : Nat
  time : DWord
  kind : Nat
  unit : Nat
  asid : BitVec 16
  arg : Word
  d0 : DWord
  d1 : DWord
  deriving DecidableEq, Repr

/-- Boot, recovery and self-test (R322, R467 to R470). -/
structure Boot where
  /-- READY bits 0 and 1 (R317). Reset: 0. -/
  firmware : Bool
  tested : Bool
  /-- SELFTEST (R470). Reset: 0. -/
  selftest : DWord
  /-- RCVSTAT.STATE and REASON (R467). Reset: 0. -/
  rcvState : Nat
  reason : Nat
  /-- RCVLEN (R467). Reset: 0. -/
  rcvLen : DWord
  /-- Staging area of recovery (R467). Reset: empty. -/
  staging : Memory
  /-- An image that recovery wrote to the boot flash (R468); none: the factory's, Config.factoryFlash. Reset: none. -/
  flash : Option (List Byte)
  /-- PERST# cut the last flash write: the image is rejected (R468). Reset: false. -/
  flashCut : Bool
  /-- Digest of measurement slot 1 and slot 3 (R322, Table 11). Reset: 0. -/
  slot1 : BitVec 256
  slot3 : BitVec 256
  /-- The public key that the firmware has generated, 48 bytes (R323). Reset: 0. -/
  pubKey : BitVec 384
  /-- Repaired rows (R470): repair-table words kept. Reset: none. -/
  repairs : List (Nat × Nat × Word)
  /-- Table base of the self-test launch (R469). Reset: 0. -/
  table : DWord
  deriving DecidableEq, Repr

/-- SPDM answers (R323, R467). -/
inductive Spdm where
  | version (v : Byte)
  | capabilities (chunk : Bool)
  | algorithms (asym baseHash measHash : String)
  | digests (d : BitVec 256)
  | certificate (part : List Byte) (rest : Nat)
  | challengeAuth (d : BitVec 256) (sig : List Byte)
  | measurements (slots : List (Nat × BitVec 256)) (sig : Option (List Byte))
  | chunk (handle seq : Nat) (part : List Byte)
  | error
  deriving DecidableEq, Repr

/-- What the host sees (R315, R466, R348, R353). -/
inductive HostOut where
  | read (data : List Byte)
  | unsupported
  | register (v : DWord)
  | blackBox (entries : List (List Byte))
  | spdm (m : Spdm)
  deriving DecidableEq, Repr

/-- A host access that waits for its turn (R315): a write through BAR 2, a register write, a read through BAR 2. -/
inductive HostAct where
  | write (off : Nat) (data : List Byte)
  | register (off : Nat) (v : DWord)
  | read (off size : Nat)
  deriving DecidableEq, Repr

/-- An occupant tag (R172): the crew last placed in a physical slot. -/
structure Tag where
  /-- Physical slot: core number and crew slot. -/
  core : Nat
  slot : Nat
  launch : DWord
  walk : Nat
  block : Nat
  crew : Nat
  deriving DecidableEq, Repr

/-- A peer request sent and not answered (R246, R462): its thread and pending operation. -/
structure PeerOut where
  req : PeerReq
  /-- The chip that it was sent to. -/
  chip : BitVec 8
  who : TRef
  pend : Nat
  sent : Nat
  /-- The cox context whose counter action it is (R310). -/
  cox : Option CoxId
  deriving DecidableEq, Repr

/-- An XRED chunk of which another package has sent contributions that are staged here (R441): what the first part said, the numbers of the
first contributions of the parts that have come, the addresses by line, and since when its commit waits for a spill entry (R418). -/
structure Foreign where
  part : RedPart
  got : List (Nat × Nat)
  lines : List (LineId × BitVec 48)
  since : Option Nat
  deriving DecidableEq, Repr

/-- An XRED chunk sent to a peer home (R441, R462): block, command, chunk, its number and parts, when sent, whether it is the resent one, and the home's chip. -/
structure PeerChunk where
  id : Nat
  parts : List RedPart
  b : BRef
  cmd : Nat
  chunk : Nat
  sent : Nat
  again : Bool
  chip : BitVec 8
  deriving DecidableEq, Repr

/-- The last LU of a hub of another package (R334, R464): its value, none when that hub has no record left, and its tick of arrival. -/
structure RemoteLu where
  chip : BitVec 8
  hub : Nat
  lu : Option Word
  at_ : Nat
  deriving DecidableEq, Repr

/-! ## Focus and agenda -/

/-- The issue pass a quarter has formed (R30): its crew, its threads in lane order, its PC. -/
structure Pass where
  crew : CRef
  lanes : List Nat
  pc : DWord
  /-- Number of the pass. -/
  num : Nat
  /-- Its accesses are performed when its instruction executes (false) or at ACCESS_COMPLETE (true); the model's own choice field. -/
  defer : Bool
  /-- A collective pass of 128 threads (R32). -/
  collective : Bool
  deriving DecidableEq, Repr

/-- Whose instruction the next step runs. -/
inductive Focus where
  | none
  | pass (p : Pass)
  | cox (x : CoxId)
  deriving DecidableEq, Repr

/-- Work that the package does by itself: the offers that stand at the start of an arithmetic cycle (R237), floors and sweeps of the cores (R258, R259), the sweeper of a hub (R259), an L3 eviction (R257),
the slewing of the time base (R465), the host accesses that a replay has held back (R315, R337), the chunk records of a cycle (R328), its fault and race log records (R387, R430), the
host's masking of an MSI-X vector (R316) and sizing of BAR 2 (R314) and system software's sizing of a spill area (R253), which only those place in the agenda, the firmware's start of the self-test (R322, R470), a beacon on a bridge (R258), a peer contribution that
waits for a spill entry since a tick (R418), a part of an XRED chunk that waits for the commit table and a chunk that waits to commit (R441), the
oldest flit of a class in a receive buffer (R320), the kill of a block that is stopping (R416), boot ROM (R322), the end of its flash write
(R468). -/
inductive Tick where
  | cycle
  | cores
  | sweep (hub : Nat)
  | beacon (hub : Nat) (hw : Word)
  | peer (rs : List PeerReq) (since : Nat)
  | part (r : RedPart)
  | foreign (key : ChunkKey)
  | rx (port cls : Nat)
  | kill (b : BRef) (unit : Nat)
  | boot
  | flash (ok : Bool)
  | evict
  | slew
  | hostHeld
  | records (hub : Nat)
  | logs
  | msixMask (vector : Nat)
  | bar2Size (log : Nat)
  | spillSize (hub log : Nat)
  | jobChips (chips : List (BitVec 8))
  | firmware
  deriving DecidableEq, Repr

/-- One entry of the agenda: an event, one instruction of a cox context, or periodic work. -/
inductive Act where
  | event (i : Instr)
  | cox (x : CoxId)
  | tick (k : Tick)
  deriving DecidableEq, Repr

/-- What happens next, `dt` ticks after the step before it. -/
structure Turn where
  dt : Nat
  act : Act
  deriving DecidableEq, Repr

/-- What the sequencer of a hub has chosen in the walk step of tick `now` and not yet placed (R26): the priority of the head and the section; none where it
found nothing to place or has placed it. -/
structure Walk where
  hub : Nat
  pick : Option (Nat × Nat)
  now : Nat
  deriving DecidableEq, Repr

/-- The package. -/
structure State where
  /-- The MODEL'S OWN: steps still to happen, oldest first (log entry 1). Reset: what the clocks bring about by themselves. -/
  agenda : List Turn
  /-- The MODEL'S OWN: whose instruction the next step runs (log entry 1). Reset: none. -/
  focus : Focus
  /-- The MODEL'S OWN: how far this arithmetic cycle's choices have come: 0 before its start, then 1 above the next quarter, 4 n + q for quarter q of core n
(log entry 1). Reset: 0. -/
  rotor : Nat
  /-- The MODEL'S OWN: index of the next free value (log entry 3). Reset: 0. -/
  fresh : Nat
  /-- The MODEL'S OWN: numbers given to passes and operations so far. Reset: 0. -/
  serial : Nat
  /-- Ticks of 1/18 ns since reset: $cycle, hub cycles and the time base (R18, R58). Reset: 0. -/
  now : Nat
  /-- What PTM has added to the time base in ns (R18, R465). Reset: 0. -/
  timeOff : DWord
  /-- What PTM has still to slew, as a signed number of ns (R465). Reset: 0. -/
  slew : DWord
  /-- Bytes of HBM by line key and byte (R251). Reset: nothing listed (log entry 4). -/
  mem : Memory
  /-- Lines held at their L3 homes (R253, R257). Reset: none. -/
  l3 : List HomeLine
  /-- Hubs 0 to 5 (R21). -/
  hubs : List Hub
  /-- Section registers 0 to 5 (R352, R414). -/
  sections : List Section
  /-- Cores that hold anything, by number (R19). Reset: none listed. -/
  cores : List Core
  /-- Cox contexts that hold anything (R302). Reset: none listed. -/
  coxes : List Cox
  /-- State shared per ASID (R389). Reset: none listed. -/
  asids : List AsidSt
  /-- Accepted launches (R277). Reset: none. -/
  launches : List Launch
  /-- Placed and saved section groups (R292). Reset: none. -/
  groups : List Group
  /-- Waiting lists by priority 0 to 7 (R280). Reset: empty. -/
  waiting : List (List WEntry)
  /-- Reservations of the slice arbiter (R289). Reset: none. -/
  reserved : List Reservation
  /-- The choices of the walk steps of this hub cycle (R26). Reset: none. -/
  walks : List Walk
  /-- Occupant tags of crew slots (R172). Reset: none. -/
  tags : List Tag
  /-- Order and sync clocks of the host link (R306, R423). Reset: 0 (log entry 8). -/
  hostO : Word
  hostS : Word
  /-- Writes of the host link's present chunk (R327, R337). Reset: 0. -/
  hostCount : Nat
  /-- Host accesses behind a write that a replay has held back, in the order of the link (R315, R337). Reset: none. -/
  hostHeld : List HostAct
  /-- CHIPNUM (R317). Reset: 0. -/
  chip : BitVec 8
  /-- BAR2BASE (R317). Reset: 0. -/
  bar2 : DWord
  /-- The BAR 2 window's size as the host has set it, 2^bar2Log bytes from 256 MiB to 2 TiB (R314). Reset: 2^41 (log entry 69). -/
  bar2Log : Nat
  /-- SWROUTE(c) entries that are not 0 (R317). Reset: 0. -/
  routes : List (Nat × BitVec 8)
  /-- HOSTSTAT.BAR2UR and HOSTUROFF (R466). Reset: 0. -/
  bar2ur : Bool
  hostUrOff : DWord
  /-- The host link is up (R465). Reset: true (log entry 9). -/
  linkUp : Bool
  /-- MSI-X: masked vectors, vectors pending, messages sent in order (R316, R465). Reset: none masked (log entry 9), none, none. -/
  msixMask : List Nat
  msixPend : List Nat
  msixSent : List Nat
  /-- Completions and answers sent to the host, in order (R315, R323). Reset: none. -/
  hostOut : List HostOut
  /-- A response being chunked (R323). Reset: none. -/
  spdmChunk : List Byte
  /-- Sweep ports that are not at reset (R459). Reset: off. -/
  ports : List Port
  /-- Peer requests awaiting a response, and responses sent (R246). Reset: none. -/
  peerOut : List PeerOut
  peerSent : List PeerAns
  /-- Requests of other packages that wait for the rest of their group (R168). Reset: none. -/
  peerHeld : List PeerReq
  /-- XRED chunks of other packages not yet committed (R441). Reset: none. -/
  foreign : List Foreign
  /-- XRED chunks to peer chips awaiting acknowledgement (R462). Reset: none. -/
  peerChunks : List PeerChunk
  /-- LU of the hubs of other packages (R334). Reset: none. -/
  remoteLu : List RemoteLu
  /-- The other packages of the pod job that replays, as their CHIPNUM values (R337); system software names them (log entry 45). Reset: none. -/
  jobChips : List (BitVec 8)
  dbg : Debug
  /-- Black-box entries, oldest first, at most 2,048 per die (R353). Reset: empty at power-on (R456). -/
  blackBox : List BBEntry
  /-- Fault log records of this cycle, in ascending thread identity (R387). Reset: none. -/
  faultsNow : List FaultEntry
  /-- Race records of this cycle, in ascending accessing identity (R430). Reset: none. -/
  racesNow : List RaceEntry
  /-- Failing checks of this cycle, in ascending identity (R452). Reset: none. -/
  divsNow : List DivEntry
  boot : Boot
  /-- Power cap in watts (R324). Reset: 8,800. -/
  powerCap : Nat
  deriving DecidableEq, Repr

/-! ## Stops of the model -/

/-- Why a step can stop the model. Every fault of the spec is a trap, a halt or a register event and hence a next state. -/
inductive Fault where
  /-- Raised by `step` when `State.focus` names a pass or a cox context that the State does not hold; no run reaches it. Safe. -/
  | strayFocus
  deriving DecidableEq, Repr

/-- Why an instruction has no meaning. -/
inductive Refusal where
  /-- Raised by `exec` for a constructor that has no meaning yet. Safe. -/
  | notModelled (mnemonic : String)
  deriving DecidableEq, Repr

/-! ## Reset -/

def Memory.empty : Memory := ⟨[]⟩

def Recorder.reset : Recorder :=
  { rrbase := 0, rrsize := 4, rrput := 0, rrget := 0, state := 0, rbsel := 0, rbchk := 0, divaddr := 0, rrstat := 0, diverged := false, lostpos := 0,
    openB := [], replay := [], lu := none, held := [], cyc := [] }

def Hub.reset : Hub :=
  { sc := 0, hw := 0, hwx := 0, spillLog := 18, spill := 262144, commits := [], recd := Recorder.reset, copyLast := 0, coxLast := 0, coxCycle := 0, coxCount := 0 }

def Section.reset : Section :=
  { cecnt := 0, uecnt := 0, cethr := 0, estat := 0, eaddr := 0, warn := 0, ckarea := 0, window := 0, autoPending := false,
    trbase := 0, trsize := 1, trput := 0, trget := 0, sampk := 16, trlost := 0, buffer := [], gating := none, gated := false,
    gateFrames := [] }

def Debug.reset : Debug :=
  { bpen := false, halted := false, wpen := 0, asid := 0, stopbase := 0, stopsize := 0, stopput := 0,
    wpbase := [0, 0, 0, 0], wpctl := [0, 0, 0, 0], blk := 0, sel := 0, data := 0, trigger := none }

def Boot.reset : Boot :=
  { firmware := false, tested := false, selftest := 0, rcvState := 0, reason := 0, rcvLen := 0, staging := Memory.empty,
    flash := none, flashCut := false, slot1 := 0, slot3 := 0, pubKey := 0, repairs := [], table := 0 }

/-- Boot (R322), and what the clocks of the package bring about by themselves, the delay of each from the one before: beacons each 1 µs (R258), floors and
sweeps of the cores each 2^16 cycles, sweepers each 2^18 hub cycles (R259), error windows each 1 ms (R457). -/
def resetAgenda : List Turn :=
  [⟨0, .tick .boot⟩, ⟨0, .tick .evict⟩, ⟨18000, .event (.beaconSend 0)⟩, ⟨0, .event (.beaconSend 1)⟩, ⟨0, .event (.beaconSend 2)⟩, ⟨0, .event (.beaconSend 3)⟩,
   ⟨0, .event (.beaconSend 4)⟩, ⟨0, .event (.beaconSend 5)⟩, ⟨637360, .tick .cores⟩, ⟨1703936, .tick (.sweep 0)⟩, ⟨0, .tick (.sweep 1)⟩,
   ⟨0, .tick (.sweep 2)⟩, ⟨0, .tick (.sweep 3)⟩, ⟨0, .tick (.sweep 4)⟩, ⟨0, .tick (.sweep 5)⟩, ⟨15640704, .event (.errorRateWindow 0)⟩,
   ⟨0, .event (.errorRateWindow 1)⟩, ⟨0, .event (.errorRateWindow 2)⟩, ⟨0, .event (.errorRateWindow 3)⟩, ⟨0, .event (.errorRateWindow 4)⟩,
   ⟨0, .event (.errorRateWindow 5)⟩]

/-- The package right after reset (R9: every register at its stated reset value; log entries 4, 8, 9 name the rest). -/
def State.reset : State :=
  { agenda := resetAgenda, focus := .none, rotor := 0, fresh := 0, serial := 0, now := 0, timeOff := 0, slew := 0, mem := Memory.empty, l3 := [],
    hubs := List.replicate 6 Hub.reset, sections := List.replicate 6 Section.reset, cores := [], coxes := [], asids := [],
    launches := [], groups := [], waiting := List.replicate 8 [], reserved := [], walks := [], tags := [], hostO := 0, hostS := 0, hostCount := 0, hostHeld := [],
    chip := 0, bar2 := 0, bar2Log := 41, routes := [], bar2ur := false, hostUrOff := 0, linkUp := true, msixMask := [], msixPend := [],
    msixSent := [], hostOut := [], spdmChunk := [], ports := [], peerOut := [], peerSent := [], peerHeld := [], foreign := [], peerChunks := [], jobChips := [], remoteLu := [],
    dbg := Debug.reset, blackBox := [], faultsNow := [], racesNow := [], divsNow := [], boot := Boot.reset, powerCap := 8800 }

end Sys2Proof.Machine
end

