-- ==== Sys2Proof/Machine/Clocks.lean ====
section
/-!
DEFINITION. Serial comparison of clocks (R256), the package's clocks and time base (R18, R58), and the agenda of steps to come.
-/
namespace Sys2Proof.Machine

/-! ## Serial arithmetic (R256) -/

/-- `a` is above `b`: 1 ≤ (a − b) mod 2^32 ≤ 2^31 − 1. -/
def above (a b : Word) : Bool := 1 ≤ (a - b).toNat && (a - b).toNat < 2 ^ 31

/-- Serial maximum: the operand that is not below the other. -/
def smax (a b : Word) : Word := if above b a then b else a

def smin (a b : Word) : Word := if above a b then b else a

def smaxList (a : Word) (l : List Word) : Word := l.foldl smax a

/-! ## Time -/

/-- Arithmetic cycles since reset: 10 ticks of 1/18 ns each (R18). -/
def State.cycle (s : State) : Nat := s.now / 10

/-- Hub cycles since reset: 9 ticks each (R18). -/
def State.hubCycle (s : State) : Nat := s.now / 9

/-- `$time`: nanoseconds, as PTM has set them (R18, R465). -/
def State.time (s : State) : DWord := BitVec.ofNat 64 (s.now / 18) + s.timeOff

/-- Ticks in a microsecond. -/
def usTicks : Nat := 18000

/-! ## The agenda (log entry 1) -/

/-- `a` becomes due `dt` ticks from now, behind what is due no later. -/
def insertTurn (dt : Nat) (a : Act) : List Turn → List Turn
  | [] => [⟨dt, a⟩]
  | t :: ts => if dt < t.dt then ⟨dt, a⟩ :: ⟨t.dt - dt, t.act⟩ :: ts else t :: insertTurn (dt - t.dt) a ts

def State.schedule (s : State) (dt : Nat) (a : Act) : State := { s with agenda := insertTurn dt a s.agenda }

/-- Schedules an event for the start of arithmetic cycle `c`, or for now when that has begun. -/
def State.atCycle (s : State) (c : Nat) (i : Instr) : State := s.schedule (10 * c - s.now) (.event i)

/-- `a` becomes due `dt` ticks from now, before what else is due then. -/
def insertFirst (dt : Nat) (a : Act) : List Turn → List Turn
  | [] => [⟨dt, a⟩]
  | t :: ts => if dt ≤ t.dt then ⟨dt, a⟩ :: ⟨t.dt - dt, t.act⟩ :: ts else t :: insertFirst (dt - t.dt) a ts

/-- Schedules an event for the start of the next arithmetic cycle, before everything else in that cycle. -/
def State.atStart (s : State) (i : Instr) : State := { s with agenda := insertFirst (10 - s.now % 10) (.event i) s.agenda }

/-- Schedules an event within arithmetic cycle `c`, behind the passes that issue in it. -/
def State.inCycle (s : State) (c : Nat) (i : Instr) : State := s.schedule (10 * c + 9 - s.now) (.event i)

/-- A latency the spec leaves open (R472), in ticks: a free value (log entry 3). -/
def State.soon (s : State) (i : Instr) : State :=
  { s.schedule (Config.latency s.fresh) (.event i) with fresh := s.fresh + 1 }

end Sys2Proof.Machine
end

