-- ==== Sys2Proof/Machine/Access.lean ====
section
/-!
DEFINITION. Finding and updating the parts of the State by their names: groups, blocks, crews, threads, cores, hubs, sections,
contexts, launches.
-/
namespace Sys2Proof

def CRef.block (c : CRef) : BRef := ⟨c.g, c.k⟩

def TRef.crew (t : TRef) : CRef := ⟨t.g, t.k, t.c⟩

def TRef.block (t : TRef) : BRef := ⟨t.g, t.k⟩

def CRef.thread (c : CRef) (n : Nat) : TRef := ⟨c.g, c.k, c.c, n⟩

def BRef.crew (b : BRef) (n : Nat) : CRef := ⟨b.g, b.k, n⟩

end Sys2Proof

namespace Sys2Proof.Machine

/-! ## Work hierarchy -/

def State.group? (s : State) (g : Nat) : Option Group := s.groups.find? (fun x => x.gid == g)

def State.modGroup (s : State) (g : Nat) (f : Group → Group) : State :=
  { s with groups := s.groups.map (fun x => if x.gid = g then f x else x) }

def State.block? (s : State) (b : BRef) : Option Block := (s.group? b.g).bind (fun g => g.blocks[b.k]?)

def State.modBlock (s : State) (b : BRef) (f : Block → Block) : State :=
  s.modGroup b.g (fun g => { g with blocks := g.blocks.modify b.k f })

def State.crew? (s : State) (c : CRef) : Option Crew := (s.block? c.block).bind (fun b => b.crews[c.c]?)

def State.modCrew (s : State) (c : CRef) (f : Crew → Crew) : State :=
  s.modBlock c.block (fun b => { b with crews := b.crews.modify c.c f })

def State.thread? (s : State) (t : TRef) : Option Thread := (s.crew? t.crew).bind (fun c => c.threads[t.t]?)

def State.modThread (s : State) (t : TRef) (f : Thread → Thread) : State :=
  s.modCrew t.crew (fun c => { c with threads := c.threads.modify t.t f })

/-- Updates every thread of a crew, by its number. -/
def State.modThreads (s : State) (c : CRef) (f : Nat → Thread → Thread) : State :=
  s.modCrew c (fun x => { x with threads := x.threads.mapIdx f })

/-- Every block of the package's placed and saved groups, with its name. -/
def State.allBlocks (s : State) : List (BRef × Block) :=
  s.groups.flatMap (fun g => g.blocks.mapIdx (fun k b => (⟨g.gid, k⟩, b)))

def Block.allCrews (b : BRef) (x : Block) : List (CRef × Crew) := x.crews.mapIdx (fun i c => (b.crew i, c))

def Crew.allThreads (c : CRef) (x : Crew) : List (TRef × Thread) := x.threads.mapIdx (fun i t => (c.thread i, t))

/-! ## Launches -/

def State.launch? (s : State) (i : Nat) : Option Launch := s.launches.find? (fun x => x.idx == i)

def State.modLaunch (s : State) (i : Nat) (f : Launch → Launch) : State :=
  { s with launches := s.launches.map (fun x => if x.idx = i then f x else x) }

def State.launchOf (s : State) (g : Nat) : Option Launch := (s.group? g).bind (fun x => s.launch? x.launch)

/-- The `$modes` fields of the launch of a group (Table 2 of 03_program_state.md). -/
def State.modesOf (s : State) (g : Nat) : BitVec 8 := ((s.launchOf g).map (fun l => l.p.modes)).getD 0

def recordMode (m : BitVec 8) : Nat := (m.extractLsb' 0 2).toNat
def raceMode (m : BitVec 8) : Nat := (m.extractLsb' 2 2).toNat
/-- Races are looked for: RACE is 1 or 2, or the launch replays (R340). -/
def racesOn (m : BitVec 8) : Bool := raceMode m != 0 || recordMode m == 2
def traceOn (m : BitVec 8) : Bool := m.getLsbD 4
def stallChk (m : BitVec 8) : Bool := m.getLsbD 5
def sampleOn (m : BitVec 8) : Bool := m.getLsbD 6
def cutStopMode (m : BitVec 8) : Bool := m.getLsbD 7

/-- Blocks of a section group, and its logical first block (R36, R278). -/
def LaunchP.groupSize (p : LaunchP) : Nat := p.gx * p.gy * p.gz

def LaunchP.groupCount (p : LaunchP) : Nat := (p.x / p.gx) * (p.y / p.gy) * (p.z / p.gz)

/-- Coordinates of block `k` of the group with walk coordinates (u, v, w) (R36). -/
def LaunchP.coords (p : LaunchP) (u v w k : Nat) : Nat × Nat × Nat :=
  (u * p.gx + k % p.gx, v * p.gy + k / p.gx % p.gy, w * p.gz + k / p.gx / p.gy)

/-- Block index ((bz × Y + by) × X + bx). -/
def LaunchP.index (p : LaunchP) (c : Nat × Nat × Nat) : Nat := (c.2.2 * p.y + c.2.1) * p.x + c.1

/-- Walk coordinates of walk number `n`: u fastest, then v, then w (R278). -/
def LaunchP.walkCoords (p : LaunchP) (n : Nat) : Nat × Nat × Nat :=
  let nx := p.x / p.gx
  let ny := p.y / p.gy
  (n % nx, n / nx % ny, n / nx / ny)

def State.coordsOf (s : State) (b : BRef) : Nat × Nat × Nat :=
  match s.group? b.g, s.launchOf b.g with
  | some g, some l => let u := l.p.walkCoords g.walk; l.p.coords u.1 u.2.1 u.2.2 b.k
  | _, _ => (0, 0, 0)

def State.blockIndex (s : State) (b : BRef) : Nat :=
  match s.launchOf b.g with
  | some l => l.p.index (s.coordsOf b)
  | none => 0

/-! ## Cores, hubs, sections -/

/-- A quarter at reset. The spec gives the seed of its sampling register but no initial pass count: 0 here, so that the first sampled pass is tagged (R349;
DESIGN CHOICE, log entry 49). -/
def Quarter.reset (core q : Nat) : Quarter :=
  { freeAt := 0, sfuFree := 0, fpFree := 0, score := 0, sample := 0,
    lfsr := BitVec.ofNat 32 (0x10000 + 256 * (core / 96) + 4 * (core % 96) + q), tagged := [] }

def Core.reset (n : Nat) : Core :=
  { num := n, l1 := [], icache := [], tlb := [], slots := [], accs := [], ops := [], places := 0,
    quarters := (List.range 4).map (Quarter.reset n), victims := [] }

/-- Core `n`; one that the State does not list stands as after reset. -/
def State.core (s : State) (n : Nat) : Core := (s.cores.find? (fun x => x.num == n)).getD (Core.reset n)

def State.modCore (s : State) (n : Nat) (f : Core → Core) : State :=
  if s.cores.any (fun x => x.num == n) then { s with cores := s.cores.map (fun x => if x.num = n then f x else x) }
  else { s with cores := s.cores ++ [f (Core.reset n)] }

/-- The section of a core (R17). -/
def coreSection (n : Nat) : Nat := n / 96

def State.hub (s : State) (h : Nat) : Hub := (s.hubs[h]?).getD Hub.reset

def State.modHub (s : State) (h : Nat) (f : Hub → Hub) : State := { s with hubs := s.hubs.modify h f }

def State.sect (s : State) (h : Nat) : Section := (s.sections[h]?).getD Section.reset

def State.modSect (s : State) (h : Nat) (f : Section → Section) : State := { s with sections := s.sections.modify h f }

def Cox.reset (x : CoxId) : Cox :=
  { id := x, en := false, kind := false, loaded := false, norec := false, state := 0, qhandle := 0, qwrite := 0, qread := 0,
    prog := 0, ctxrec := 0, tinv := false, msiv := 0, checking := none, bound := none, code := [], windows := [],
    x := List.replicate 16 0, pc := 0, loops := [], budget := 0, packet := [], plen := 0, fromRec := false, acted := false, actDone := false,
    wait := .none, o := 0, s := 0, pa := 0, co := 0, cs := 0, launches := 0, packets := 0, openP := [], copies := [],
    cutStop := false, recording := false, lastStep := 0, ckpts := [], chunkCount := 0, haltStop := false, pubs := [] }

def State.cox (s : State) (x : CoxId) : Cox := (s.coxes.find? (fun c => c.id == x)).getD (Cox.reset x)

def State.modCox (s : State) (x : CoxId) (f : Cox → Cox) : State :=
  if s.coxes.any (fun c => c.id == x) then { s with coxes := s.coxes.map (fun c => if c.id = x then f c else c) }
  else { s with coxes := s.coxes ++ [f (Cox.reset x)] }

def AsidSt.reset (a : BitVec 16) : AsidSt :=
  { asid := a, flogput := 0, halt := false, rlogbase := 0, rlogsize := 0, rlogput := 0, yforced := false, sliceRaised := false }

def State.asid (s : State) (a : BitVec 16) : AsidSt := (s.asids.find? (fun x => x.asid == a)).getD (AsidSt.reset a)

def State.modAsid (s : State) (a : BitVec 16) (f : AsidSt → AsidSt) : State :=
  if s.asids.any (fun x => x.asid == a) then { s with asids := s.asids.map (fun x => if x.asid = a then f x else x) }
  else { s with asids := s.asids ++ [f (AsidSt.reset a)] }

def Port.reset (n : Nat) : Port :=
  { num := n, st := 0, cause := 0, peer := 0, en := false, pvec := 0, crcerr := 0, retries := 0, pevent := 0, rxNext := 0,
    txNext := 0, unacked := [], rx := [], told := 0, wire := [], queue := [], ackAt := 0, run := 0, paused := [], downAt := none }

def State.port (s : State) (n : Nat) : Port := (s.ports.find? (fun x => x.num == n)).getD (Port.reset n)

def State.modPort (s : State) (n : Nat) (f : Port → Port) : State :=
  if s.ports.any (fun x => x.num == n) then { s with ports := s.ports.map (fun x => if x.num = n then f x else x) }
  else { s with ports := s.ports ++ [f (Port.reset n)] }

def State.asidOf (s : State) (g : Nat) : BitVec 16 := ((s.launchOf g).map (fun l => l.asid)).getD 0

/-- Blocks of a section group that stand on a core: the group is placed (R37). -/
def Group.placed (g : Group) : Bool := g.st != .saved

/-- The group's accesses can be performed: it stands on cores and its state is not being moved (R292). -/
def Group.stands (g : Group) : Bool := g.st == .resident || g.st == .requested || g.st == .stopping || (g.st == .saving && !g.storing)

def State.stands (s : State) (g : Nat) : Bool := ((s.group? g).map Group.stands).getD false

/-- The core, crew slot and section of a crew (R17, R28). -/
def State.coreOf (s : State) (b : BRef) : Nat := ((s.block? b).map (fun x => x.core)).getD 0

def State.slotOf (s : State) (c : CRef) : Nat := ((s.crew? c).map (fun x => x.slot)).getD 0

/-- The physical identity of a thread: valid, chip, section, core, slot, thread (R17, R255). -/
def identity (chip : BitVec 8) (section_ core slot thread : Nat) : Word :=
  1#1 ++ chip ++ BitVec.ofNat 3 section_ ++ BitVec.ofNat 7 core ++ BitVec.ofNat 6 slot ++ BitVec.ofNat 7 thread

def State.identOf (s : State) (t : TRef) : Word :=
  let n := s.coreOf t.block
  identity s.chip (n / 96) (n % 96) (s.slotOf t.crew) t.t

/-- The identity of a cox context, of its hub's copy engine for it, and of the host link (R306). -/
def State.coxIdent (s : State) (x : CoxId) (copy : Bool) : Word :=
  identity s.chip x.hub 127 (48 + x.ctx) (if copy then 1 else 0)

def State.hostIdent (s : State) : Word := identity s.chip 0 126 0 0

/-- A serial number for a pass or an operation. -/
def State.take (s : State) : Nat × State := (s.serial, { s with serial := s.serial + 1 })

end Sys2Proof.Machine
end

