-- ==== Sys2Proof/Machine/Mem.lean ====
section
/-!
DEFINITION. Byte memories in their canonical form, physical lines and their homes (R251), and HBM read and written raw, which
touches no stamp.
-/
namespace Sys2Proof

/-- The key of a line's first byte in `State.mem`. -/
def LineId.key (l : LineId) : Nat := (l.hub * 2 ^ 31 + l.q) * 128

/-- The hub-local physical address of a line (R251). -/
def LineId.pa (l : LineId) : Nat := 0x800000000000 + l.hub * 0x004000000000 + l.q * 128

end Sys2Proof

namespace Sys2Proof.Machine

/-! ## Byte memories -/

/-- The byte at `a`: 0 where nothing is listed (log entry 4). -/
def cellsRead : List Host.Cell → Nat → Byte
  | [], _ => 0
  | c :: cs, a => if c.1 = a then c.2 else if a < c.1 then 0 else cellsRead cs a

/-- The list with byte `v` at `a`, still in canonical form. -/
def cellsWrite : List Host.Cell → Nat → Byte → List Host.Cell
  | [], a, v => if v = 0 then [] else [(a, v)]
  | c :: cs, a, v =>
    if c.1 = a then (if v = 0 then cs else (a, v) :: cs)
    else if a < c.1 then (if v = 0 then c :: cs else (a, v) :: c :: cs)
    else c :: cellsWrite cs a v

/-- Addresses strictly rise from `lo` on and no byte is 0. -/
def cellsWf : Nat → List Host.Cell → Bool
  | _, [] => true
  | lo, c :: cs => lo ≤ c.1 && c.2 != 0 && cellsWf (c.1 + 1) cs

/-- The canonical form. -/
def Memory.wf (m : Memory) : Bool := cellsWf 0 m.cells

def Memory.read (m : Memory) (a : Nat) : Byte := cellsRead m.cells a

def Memory.write (m : Memory) (a : Nat) (v : Byte) : Memory := ⟨cellsWrite m.cells a v⟩

/-- `n` bytes from `a` up. -/
def Memory.readN (m : Memory) (a : Nat) : Nat → List Byte
  | 0 => []
  | n + 1 => m.read a :: Memory.readN m (a + 1) n

def Memory.writeN (m : Memory) (a : Nat) : List Byte → Memory
  | [] => m
  | b :: bs => Memory.writeN (m.write a b) (a + 1) bs

/-- Sets the bytes from `lo` (inclusive) to `hi` to 0. -/
def Memory.clear (m : Memory) (lo hi : Nat) : Memory := ⟨m.cells.filter (fun c => c.1 < lo || hi ≤ c.1)⟩

/-! ## Physical lines -/

def fold6 (q : Nat) : Nat := q + q / 2 ^ 8 + q / 2 ^ 16 + q / 2 ^ 24

/-- The line and byte of a physical address (R251, Table 2 of 11_memory_hierarchy.md); none where nothing backs it. -/
def lineOf (pa : Nat) : Option (LineId × Nat) :=
  if pa ≤ 0x011FFFFFFFFF then
    let n := pa / 128
    some (⟨(n % 6 + fold6 (n / 6)) % 6, n / 6⟩, pa % 128)
  else
    let d := pa - 0x800000000000
    if 0x800000000000 ≤ pa && d / 0x004000000000 < 6 && d % 0x004000000000 < 0x003000000000 then
      some (⟨d / 0x004000000000, d % 0x004000000000 / 128⟩, pa % 128)
    else none

def State.lineBytes (s : State) (l : LineId) : List Byte := s.mem.readN l.key 128

/-- Raw bytes at a physical address, without stamps; 0 where nothing backs it. -/
def State.physByte (s : State) (pa : Nat) : Byte :=
  match lineOf pa with
  | some (l, i) => s.mem.read (l.key + i)
  | none => 0

def State.physRead (s : State) (pa n : Nat) : List Byte := (List.range n).map (fun i => s.physByte (pa + i))

def State.physNat (s : State) (pa n : Nat) : Nat := leNat (s.physRead pa n)

def State.physWriteByte (s : State) (pa : Nat) (v : Byte) : State :=
  match lineOf pa with
  | some (l, i) => { s with mem := s.mem.write (l.key + i) v }
  | none => s

def State.physWrite (s : State) (pa : Nat) : List Byte → State
  | [] => s
  | b :: bs => State.physWrite (s.physWriteByte pa b) (pa + 1) bs

end Sys2Proof.Machine
end

