-- ==== Sys2Proof/Machine/Stamp.lean ====
section
/-!
DEFINITION. Line stamps and clocks as functions of a stamp and a party's clocks: checks, raises, updates, acquire and release
(R171, R172, R174), scope inclusion (R172), merging (R174, R250), settling (R257) and the race rule (R421).
-/
namespace Sys2Proof.Machine

/-- The clocks of an accessing party: order, sync and pending acquire clocks, fence scope, `$syncscope`, and whether a raise has ended
its chunk. -/
structure Clk where
  o : Word
  s : Word
  pa : Word
  fs : Option Nat
  sync : Word
  ended : Bool
  deriving DecidableEq, Repr

/-- A settled stamp (R257). -/
def settledStamp (x : Word) : Stamp :=
  { w := 0, wpc := 0, wo := x, ws := x, rd := 0, ro := x, rs := x, rel := false, rscope := 0, wkind := 0, wscope := 0 }

/-- Bit 31 of an identity: valid (R255). -/
def validId (i : Word) : Bool := i.getLsbD 31

/-! ## Clocks -/

def Clk.raise (c : Clk) (x : Word) : Clk := if above x c.o then { c with o := x, ended := true } else c

/-- Raises o, s and PA to the floor (R258); a raise of o ends the chunk (R327). -/
def Clk.floor (c : Clk) (f : Word) : Clk := { c.raise f with s := smax c.s f, pa := smax c.pa f }

/-- read_check (R171); an engine also raises against an engine's write (R195). -/
def readCheck (l : Stamp) (id : Word) (engine : Bool) (c : Clk) : Clk :=
  if l.w != id || (engine && l.wkind == 3) then c.raise (l.wo + 1) else c

/-- write_check (R171). -/
def writeCheck (l : Stamp) (id : Word) (c : Clk) : Clk :=
  if l.w != id || above l.ro l.wo then c.raise (smax l.wo l.ro + 1) else c

/-- The check of a reduction (R174). -/
def redCheck (l : Stamp) (converted : Bool) (c : Clk) : Clk :=
  if !validId l.w || l.wkind != 2 || above l.ro l.wo || converted then c.raise (smax l.wo l.ro + 1) else c

/-- `$syncscope` after a dropped acquire (R60). -/
def dropAcquire (sync : Word) (rel acq : Nat) : Word :=
  if sync.getLsbD 0 then sync else BitVec.ofNat 32 (1 + 4 * acq + 32 * rel)

/-- acquire (R172): `w` tells that the released scope includes the acquirer, `t` that its scope `x` includes the writer. -/
def acquireStamp (l : Stamp) (x : Nat) (w t : Bool) (c : Clk) : Clk :=
  if !l.rel then c
  else if w && t then { c with s := smax c.s (l.ws + 1) }
  else { c with sync := dropAcquire c.sync l.wscope.toNat x }

/-- pending (R172). -/
def pendingStamp (l : Stamp) (w : Bool) (c : Clk) : Clk :=
  if l.rel && w then { c with pa := smax c.pa (l.ws + 1) } else c

/-- FENCE's effect on the clocks, steps 3 and 4 (R184). -/
def Clk.fence (c : Clk) (scope : Nat) : Clk := { c with s := smax c.s c.pa + 1, fs := some scope }

/-! ## Updates -/

/-- stamp_read's update (R171). -/
def stampRead (l : Stamp) (id : Word) (scope : Nat) (c : Clk) : Stamp :=
  let newer := !validId l.rd || !above l.rs c.s
  { l with ro := smax l.ro c.o, rd := if newer then id else l.rd, rs := if newer then c.s else l.rs,
           rscope := if l.rscope.toNat < scope then BitVec.ofNat 3 scope else l.rscope }

/-- stamp_write's update with released (R171, R172): kinds 0 plain, 1 atomic, 3 engine. -/
def stampWrite (l : Stamp) (id pc : Word) (kind scope : Nat) (release : Bool) (c : Clk) : Stamp × Clk :=
  let base := { l with w := id, wpc := pc, wo := c.o, ro := c.o, rd := 0, rscope := 0, wkind := BitVec.ofNat 2 kind,
                       wscope := BitVec.ofNat 3 scope }
  let l' : Stamp :=
    if release then { base with rel := true, ws := c.s }
    else match c.fs with
      | some f => { base with rel := true, wscope := BitVec.ofNat 3 f, ws := c.s }
      | none =>
        if kind = 1 && l.rel then { base with rel := true, wscope := l.wscope, ws := l.ws }
        else { base with rel := false, ws := c.s }
  ({ l' with rs := l'.ws }, if release then { c with s := c.s + 1 } else c)

/-- The stamp after a reduction (R174). -/
def stampRed (l : Stamp) (id pc : Word) (scope : Nat) (c : Clk) : Stamp :=
  let wo := smax l.wo c.o
  let ws := if l.wkind == 2 then smax l.ws c.s else c.s
  { w := id, wpc := pc, wo := wo, ro := wo, ws := ws, rs := ws, rd := 0, rscope := 0, wkind := 2,
    wscope := match c.fs with | some f => BitVec.ofNat 3 f | none => BitVec.ofNat 3 scope,
    rel := c.fs.isSome || l.rel }

/-- The stamp of an update-only line whose copies merge (R174): the home's, `none` before its first contribution, and a copy's. -/
def mergeRed (a b : Stamp) : Stamp :=
  let first := above a.wo b.wo || (a.wo == b.wo && a.w.toNat ≤ b.w.toNat)
  let p := if first then a else b
  let ws := smax a.ws b.ws
  let wo := smax a.wo b.wo
  { w := p.w, wpc := p.wpc, wo := wo, ro := smax (smax a.ro b.ro) wo, ws := ws, rs := ws, rd := 0, rscope := 0, wkind := 2,
    rel := a.rel || b.rel,
    wscope := match a.rel, b.rel with
      | true, true => if a.wscope.toNat < b.wscope.toNat then b.wscope else a.wscope
      | true, false => a.wscope
      | false, true => b.wscope
      | false, false => p.wscope }

/-- The home stamp after a Dirty-block copy is written back (R250); the home's RD stands where both RS are equal (log entry 18). -/
def mergeWriteBack (home copy : Stamp) : Stamp :=
  let p := if above copy.wo home.wo then copy else home
  let r := if above copy.rs home.rs then copy else home
  { p with wo := smax home.wo copy.wo, ro := smax home.ro copy.ro, rd := r.rd, rs := r.rs,
           rscope := if home.rscope.toNat < copy.rscope.toNat then copy.rscope else home.rscope }

/-- The home stamp after the read fields of a Shared copy are merged (R250). -/
def mergeReads (home copy : Stamp) : Stamp :=
  let r := if above copy.rs home.rs then copy else home
  { home with ro := smax home.ro copy.ro, rd := r.rd, rs := r.rs,
              rscope := if home.rscope.toNat < copy.rscope.toNat then copy.rscope else home.rscope }

/-! ## Scopes (R172) -/

/-- A party to a scope test: its identity and the occupant tag of its crew slot. -/
structure Party where
  id : Word
  tag : Option Tag
  deriving DecidableEq, Repr

/-- A scope of one party includes the other. -/
def includesParty (scope : Nat) (a b : Party) : Bool :=
  a.id == b.id ||
  (match scope with
   | 3 => (a.id.extractLsb' 23 8) == (b.id.extractLsb' 23 8)
   | 4 => true
   | _ => match a.tag, b.tag with
     | some x, some y =>
       x.launch == y.launch && x.walk == y.walk && (scope == 2 || (x.block == y.block && (scope == 1 || x.crew == y.crew)))
     | _, _ => false)

/-- The occupant of the crew slot that an identity names (R172). -/
def State.party (s : State) (id : Word) : Party :=
  let sec := (id.extractLsb' 20 3).toNat
  let core := (id.extractLsb' 13 7).toNat
  if id.extractLsb' 23 8 == s.chip && core < 96 then
    { id := id, tag := s.tags.find? (fun t => t.core == 96 * sec + core && t.slot == (id.extractLsb' 7 6).toNat) }
  else { id := id, tag := none }

/-! ## The race rule (R421) -/

/-- Race kinds (Table 3 of 23_race_faults.md). -/
inductive Race where
  | rw | ww | wr | scope
  deriving DecidableEq, Repr

def Race.code : Race → Nat
  | .rw => 1
  | .ww => 2
  | .wr => 3
  | .scope => 4

/-- What the rule asks of an access: its party, kind and clocks, at the stamp before its group. -/
structure RaceIn where
  id : Word
  pc : Word
  s : Word
  reads : Bool
  writes : Bool
  isAtom : Bool
  isRed : Bool
  isSt : Bool
  sync : Bool
  /-- Each scope includes the other's party. -/
  mutual_ : Bool
  deriving DecidableEq, Repr

/-- splitpass (R421): one ST of the accessing crew slot that issues in several passes. -/
def splitPass (l : Stamp) (a : RaceIn) : Bool :=
  a.isSt && l.wkind == 0 && !l.rel && (l.w >>> 7) == (a.id >>> 7) && l.wpc == a.pc && l.ws == a.s

def raceCheck (l : Stamp) (a : RaceIn) : Option Race :=
  let unordW := validId l.w && l.w != a.id && !above a.s l.ws
  let holdsSync := l.wkind == 1 || l.rel
  let scopeRace := if a.isAtom && l.wkind == 1 && !a.mutual_ then some Race.scope else none
  let asRead := if a.reads && unordW then (if a.sync && holdsSync then scopeRace else some .rw) else none
  if asRead.isSome || !a.writes then asRead
  else if unordW then
    if a.sync && holdsSync then scopeRace
    else if a.isRed && l.wkind == 2 then none
    else if splitPass l a then none
    else some .ww
  else if !a.sync && validId l.rd && l.rd != a.id && !above a.s l.rs then some .wr
  else none

end Sys2Proof.Machine
end

