-- ==== Sys2Proof/Machine/Record.lean ====
section
/-!
DEFINITION. What the device writes for others to read: record rings (R328 to R333, R450, R451), the fault log (R388), the race log
(R430), the black box (R353, R456), MSI-X messages (R316).
-/
namespace Sys2Proof.Machine

/-! ## MSI-X and the black box -/

/-- Sends MSI-X vector `v`: held pending while its entry is masked or the link is down (R316, R465). -/
def State.msix (s : State) (v : Nat) : State :=
  if s.msixMask.contains v || !s.linkUp then
    { s with msixPend := if s.msixPend.contains v then s.msixPend else s.msixPend ++ [v] }
  else { s with msixSent := s.msixSent ++ [v] }

/-- The 24 dies (R16): compute dies 0 to 17 of 32 cores each, and behind them the six hub dies (log entry 69). -/
def coreDie (n : Nat) : Nat := n / 32
def hubDie (h : Nat) : Nat := 18 + h

/-- Appends a black-box entry; each die keeps its newest 2,048 (R353). -/
def State.bbox (s : State) (die kind unit : Nat) (asid : BitVec 16) (arg : Word) (d0 d1 : DWord) : State :=
  let e : BBEntry := { die := die, time := s.time, kind := kind, unit := unit, asid := asid, arg := arg, d0 := d0, d1 := d1 }
  let full := 2048 ≤ (s.blackBox.filter (fun x => x.die == die)).length
  let old := if full then s.blackBox.eraseP (fun x => x.die == die) else s.blackBox
  { s with blackBox := old ++ [e] }

/-- The 32 bytes of an entry (R353). -/
def BBEntry.bytes (e : BBEntry) : List Byte :=
  leBytes 8 e.time.toNat ++ leBytes 1 e.kind ++ leBytes 1 e.unit ++ leBytes 2 e.asid.toNat ++ leBytes 4 e.arg.toNat ++ leBytes 8 e.d0.toNat ++ leBytes 8 e.d1.toNat

/-! ## Context records (R317, Table 7 of 14_queues_host_fabric.md) -/

/-- The physical address of the context record that serves an ASID: that of a bound cox context, else of the launch's. -/
def State.recordOf (s : State) (a : BitVec 16) : Option Nat :=
  ((s.coxes.filterMap (fun c => c.bound) ++ s.coxes.map (fun c => c.ctxrec)).find? (fun r => BitVec.ofNat 16 (s.physNat r.toNat 2) == a)).map (fun r => r.toNat)

/-- A 64-bit field of a context record. -/
def State.recordField (s : State) (a : BitVec 16) (off : Nat) : Nat :=
  match s.recordOf a with
  | some r => s.physNat (r + off) 8
  | none => 0

/-! ## Fault log (R388) -/

/-- The bytes of a fault log record (Table 5 of 20_fault_architecture.md). -/
def faultRecord (cause : Word) (flags : Nat) (launch : DWord) (block crew : Nat) (id rcount : Word) (tpc taddr rpc time : DWord) :
    List Byte :=
  leBytes 4 cause.toNat ++ leBytes 4 flags ++ leBytes 8 launch.toNat ++ leBytes 8 (block + crew * 2 ^ 56) ++ leBytes 4 id.toNat
    ++ leBytes 4 rcount.toNat ++ leBytes 8 tpc.toNat ++ leBytes 8 taddr.toNat ++ leBytes 8 rpc.toNat ++ leBytes 8 time.toNat

/-- A 32-bit or 64-bit field of a record's bytes. -/
def fieldOf (bytes : List Byte) (off n : Nat) : Nat := leNat ((bytes.drop off).take n)

/-- Inserts an entry behind those whose identity is not greater. -/
def insertBy {α : Type} (key : α → Nat) (x : α) : List α → List α
  | [] => [x]
  | y :: ys => if key x < key y then x :: y :: ys else y :: insertBy key x ys

def sortBy {α : Type} (key : α → Nat) (xs : List α) : List α := xs.foldl (fun l x => insertBy key x l) []

/-- The records of a cycle are written at its end. -/
def State.logSoon (s : State) : State :=
  if s.faultsNow.isEmpty && s.racesNow.isEmpty && s.divsNow.isEmpty then s.schedule (9 - s.now % 10) (.tick .logs) else s

/-- A fault log record of this cycle: the records are written in ascending thread identity (R387). -/
def State.faultLog (s : State) (a : BitVec 16) (hub : Nat) (bytes : List Byte) : State :=
  { s.logSoon with faultsNow := insertBy (fun (e : FaultEntry) => fieldOf e.bytes 24 4) ⟨a, hub, bytes⟩ s.faultsNow }

/-- A race record of this cycle: the races take their indices in ascending accessing identity (R430). -/
def State.raceLog (s : State) (a : BitVec 16) (bytes : List Byte) (crew : Option CRef) : State :=
  { s.logSoon with racesNow := insertBy (fun (e : RaceEntry) => fieldOf e.bytes 4 4) ⟨a, bytes, s.serial, crew⟩ s.racesNow, serial := s.serial + 1 }

/-- A check of this cycle that fails: the first at a hub decides, in ascending thread identity (R452). -/
def State.failCheck (s : State) (e : DivEntry) : State :=
  { s.logSoon with divsNow := insertBy (fun (x : DivEntry) => x.d.recId.toNat) e s.divsNow }

/-- Appends a record to the fault log of an ASID and counts it (R388, R389); the black box of its hub keeps it (R456). -/
def State.putFault (s : State) (e : FaultEntry) : State :=
  let put := (s.asid e.asid).flogput
  let base := s.recordField e.asid 24
  let size := min (s.recordField e.asid 32) (2 ^ 20)
  let s1 := if size = 0 then s else s.physWrite (base + 64 * (put.toNat % size)) e.bytes
  (s1.modAsid e.asid (fun x => { x with flogput := x.flogput + 1 })).bbox (hubDie e.hub) 8 0 e.asid (BitVec.ofNat 32 (fieldOf e.bytes 0 4))
    (BitVec.ofNat 64 (fieldOf e.bytes 32 8)) (BitVec.ofNat 64 (fieldOf e.bytes 40 8))

/-- The faults of a thread that race report `no` explains take its index as their DETAIL (R428). -/
def PFault.indexed (f : PFault) (no : Nat) (index : DWord) : PFault :=
  if f.race = some no then { f with cause := f.cause ||| (index.extractLsb' 0 16).zeroExtend 32 <<< 16, race := none } else f

/-- TRAP_DELIVERY for the threads of a crew whose faults a race report explains. -/
def State.pokeRace (s : State) (c : CRef) (no : Nat) : State :=
  match s.crew? c with
  | none => s
  | some x => (x.allThreads c).foldl (fun (u : State) t => if t.2.faults.any (fun f => f.race == some no) then u.soon (.trapDelivery t.1) else u) s

/-- Appends a race record (R430); the traps that it explains are delivered behind it. -/
def State.putRace (s : State) (e : RaceEntry) : State :=
  let x := s.asid e.asid
  let size := min x.rlogsize.toNat (2 ^ 20)
  let s1 := if size = 0 then s else s.physWrite (x.rlogbase.toNat + 64 * (x.rlogput.toNat % size)) e.bytes
  let s2 := s1.modAsid e.asid (fun y => { y with rlogput := y.rlogput + 1 })
  match e.crew with
  | none => s2
  | some c => (s2.pokeRace c e.no).modCrew c (fun (y : Crew) => { y with threads := y.threads.map (fun (t : Thread) =>
      { t with faults := t.faults.map (fun (f : PFault) => f.indexed e.no x.rlogput) }) })

/-- The end of a cycle that has fault or race records. -/
def State.flushLogs (s : State) : State :=
  s.faultsNow.foldl State.putFault (s.racesNow.foldl State.putRace { s with faultsNow := [], racesNow := [] })

/-! ## Record rings -/

/-- Blocks that a ring holds (R330). -/
def Recorder.size (r : Recorder) : Nat := r.rrsize.toNat * 2 ^ 24

def Recorder.used (r : Recorder) : Nat := (r.rrput - r.rrget).toNat

def Recorder.blockPa (r : Recorder) (i : DWord) : Nat := r.rrbase.toNat + 64 * (i.toNat % max 1 r.size)

/-- The PC hash (R328). -/
def pcHash (pc : DWord) : BitVec 16 :=
  pc.extractLsb' 2 16 ^^^ pc.extractLsb' 18 16 ^^^ pc.extractLsb' 34 16 ^^^ (pc.extractLsb' 50 14).zeroExtend 16

/-- Bits hi..lo of a slot. -/
def slotField (v hi lo : Nat) : Nat := v / 2 ^ lo % 2 ^ (hi + 1 - lo)

/-- A slot whose fields stand at the given lowest bits. -/
def slotOfFields (fs : List (Nat × Nat)) : BitVec 128 := BitVec.ofNat 128 (fs.foldl (fun n f => n + f.2 * 2 ^ f.1) 0)

/-- The block being filled for a launch, while it has room and lies between RRGET and RRPUT (R331; log entry 70). -/
def Recorder.openOf (r : Recorder) (launch : DWord) : Option (DWord × DWord × Nat) :=
  r.openB.find? (fun b => b.1 == launch && b.2.2 < 4 && (b.2.1 - r.rrget).toNat < r.used)

/-- Blocks that `n` slots of a launch add to the ring (R331). -/
def Recorder.blocksFor (r : Recorder) (launch : DWord) (n : Nat) : Nat :=
  (n - ((r.openOf launch).map (fun b => 4 - b.2.2)).getD 0 + 2) / 3

/-- Puts one 16-byte slot into the open block of `launch`, opening the next block where none is open or it is full; `first` marks the
slot that begins a record (R331). -/
def State.putSlot (s : State) (h : Nat) (launch : DWord) (first : Bool) (slot : BitVec 128) : State :=
  let r := (s.hub h).recd
  match r.openOf launch with
  | some b =>
    let pa := r.blockPa b.2.1
    let hdr := s.physNat (pa + 12) 4
    let s1 := if first && hdr % 4 = 0 then s.physWrite (pa + 12) (leBytes 4 (hdr + b.2.2)) else s
    (s1.physWrite (pa + 16 * b.2.2) (leBytes 16 slot.toNat)).modHub h (fun x =>
      { x with recd := { x.recd with openB := x.recd.openB.map (fun y => if y = b then (b.1, b.2.1, b.2.2 + 1) else y) } })
  | none =>
    let i := r.rrput
    let pa := r.blockPa i
    let head := leBytes 8 launch.toNat ++ leBytes 4 i.toNat ++ leBytes 4 (if first then 1 else 0) ++ leBytes 16 slot.toNat ++ leBytes 32 0
    (s.physWrite pa head).modHub h (fun x =>
      { x with recd := { x.recd with rrput := i + 1, openB := (launch, i, 2) :: x.recd.openB.filter (fun y => y.1 != launch) } })

def State.putSlots (s : State) (h : Nat) (launch : DWord) (first : Bool) : List (BitVec 128) → State
  | [] => s
  | x :: xs => State.putSlots (s.putSlot h launch first x) h launch false xs

/-- The LAUNCH packet's RWRAP of the launch with a sequence number: true for wrap (R333). -/
def State.wrapOf (s : State) (launch : DWord) : Bool := ((s.launches.find? (fun l => l.seq == launch)).map (fun l => l.p.rwrap)).getD false

/-- Sets a bit of RRSTAT; the black box keeps those of a ring held, wrapped or lost (R456). -/
def State.setRrstat (s : State) (h bit : Nat) : State :=
  let r := (s.hub h).recd
  if r.rrstat.getLsbD bit then s
  else
    let v := r.rrstat ||| BitVec.ofNat 64 (2 ^ bit)
    let s1 := s.modHub h (fun x => { x with recd := { x.recd with rrstat := v } })
    if bit < 3 then s1.bbox (hubDie h) 0xB 0 0 (v.extractLsb' 0 32 &&& 7) r.rrput 0 else s1

/-- Discards a record that cannot wait: LOST, LOSTPOS, one fault log record RECLOST and MSIV once (R450). -/
def State.recLost (s : State) (h : Nat) (launch : DWord) : State :=
  let r := (s.hub h).recd
  if r.rrstat.getLsbD 2 then s
  else
    let s1 := (s.modHub h (fun x => { x with recd := { x.recd with lostpos := x.recd.rrput } })).setRrstat h 2
    match s1.launches.find? (fun l => l.seq == launch) with
    | none => s1
    | some l =>
      let cause : Word := BitVec.ofNat 32 (h * 2 ^ 16 + 0x506)
      let rec_ := faultRecord cause 0 launch 0 0 (identity s1.chip h 126 0 0) 0 0 0 0 s1.time
      (s1.faultLog l.asid h rec_).msix ((s1.cox l.cox).msiv.toNat % 64)

/-- Writes a record where the ring has room for it; else it is lost (R450). -/
def State.putOrLose (s : State) (h : Nat) (launch : DWord) (slots : List (BitVec 128)) : State :=
  let r := (s.hub h).recd
  if r.size < r.used + r.blocksFor launch slots.length then s.recLost h launch else s.putSlots h launch true slots

/-- The party whose records stay in order (R332): CORE and SLOT; for PKT and STEP records those of the context; none for FAB. -/
def recordKey (xs : List (BitVec 128)) : Option (Nat × Nat) :=
  let v := (xs.headD 0).toNat
  match slotField v 3 0 with
  | 7 => some (127, 48 + slotField v 10 7)
  | 8 => none
  | 9 => some (127, 48 + slotField v 10 7)
  | _ => some (slotField v 10 4, slotField v 16 11)

/-- RRCTL.STATE once no record waits: recording while a launch that records is open, else idle (R330). -/
def State.recIdle (s : State) : BitVec 2 := if s.launches.any (fun l => l.isOpen && recordMode l.p.modes == 1) then 1 else 0

/-- The records that still wait; `idle` is the recorder's state once none does. -/
def Recorder.freed (r : Recorder) (idle : BitVec 2) (held : List (DWord × List (BitVec 128))) : Recorder :=
  { r with held := held, state := if held.isEmpty && r.state = 3 then idle else r.state }

/-- The records of a party that wait for room go before one of it that cannot wait (R332; log entry 70). -/
def State.forceHeld (s : State) (h : Nat) (key : Option (Nat × Nat)) : State :=
  let mine := fun (x : DWord × List (BitVec 128)) => key.isSome && recordKey x.2 == key
  let held := (s.hub h).recd.held
  if !held.any mine then s
  else ((held.filter mine).foldl (fun (u : State) x => u.putOrLose h x.1 x.2) s).modHub h (fun y =>
    { y with recd := y.recd.freed s.recIdle (held.filter (fun x => !mine x)) })

/-- Writes one record to the ring of section `h` (R331, R333, R450, R451). `canWait`: the party is held under the stall policy instead of
using the last 4,096 blocks. -/
def State.writeRecord (s : State) (h : Nat) (launch : DWord) (canWait : Bool) (slots : List (BitVec 128)) : State :=
  let r := (s.hub h).recd
  if s.wrapOf launch then
    let excess := r.used + r.blocksFor launch slots.length - r.size
    let s1 := if excess = 0 then s
      else (s.modHub h (fun x => { x with recd := { x.recd with rrget := x.recd.rrget + BitVec.ofNat 64 excess } })).setRrstat h 1
    s1.putSlots h launch true slots
  else if canWait && (!r.held.isEmpty || r.size - r.used < 4096) then
    (s.modHub h (fun x => { x with recd := { x.recd with held := x.recd.held ++ [(launch, slots)], state := 3 } })).setRrstat h 0
  else (s.forceHeld h (recordKey slots)).putOrLose h launch slots

/-- Writes the records that waited, as far as room allows. -/
def State.flushHeld (s : State) (h : Nat) : List (DWord × List (BitVec 128)) → State
  | [] => s.modHub h (fun x => { x with recd := x.recd.freed s.recIdle [] })
  | x :: xs =>
    let r := (s.hub h).recd
    if r.size - r.used < 4096 then s.modHub h (fun y => { y with recd := { y.recd with held := x :: xs } })
    else State.flushHeld (s.putSlots h x.1 true x.2) h xs

/-! ### The records of a cycle (R328) -/

/-- A record names the thread `n` of a crew slot, or the pass it was in. -/
def recordNames (core slot n : Nat) (xs : List (BitVec 128)) : Bool :=
  match xs with
  | [] => false
  | h :: more =>
    let v := h.toNat
    slotField v 10 4 == core && slotField v 16 11 == slot &&
    (match slotField v 3 0 with
     | 1 => slotField v 24 24 == 0 && slotField v 23 17 == n
     | 3 => slotField v 23 17 == n
     | 2 => (more.headD 0).getLsbD n
     | 4 => (more.headD 0).getLsbD n
     | _ => false)

/-- The slots of a record of the cycle: a chunk end of one thread is a THREAD record, of several a CREW record. -/
def CycRec.record (r : CycRec) : List (BitVec 128) :=
  match r.mask with
  | none => r.slots
  | some m =>
    if m = 2 ^ Nat.log2 m then r.slots.map (fun v => v - 1 + BitVec.ofNat 128 (2 ^ 17 * Nat.log2 m)) else r.slots ++ [BitVec.ofNat 128 m]

/-- Writes the records of the cycle. -/
def State.flushCyc (s : State) (h : Nat) : State :=
  (s.hub h).recd.cyc.foldl (fun (u : State) r => u.writeRecord h r.launch r.canWait r.record)
    (s.modHub h (fun x => { x with recd := { x.recd with cyc := [] } }))

/-- Writes one record to the ring of section `h`, behind those of the cycle. -/
def State.putRecord (s : State) (h : Nat) (launch : DWord) (canWait : Bool) (slots : List (BitVec 128)) : State :=
  if (s.hub h).recd.cyc.isEmpty then s.writeRecord h launch canWait slots
  else s.modHub h (fun x => { x with recd := { x.recd with cyc := x.recd.cyc ++ [⟨launch, canWait, slots, none⟩] } })

/-- One chunk that ends: its thread, clock, count, PC hash and TRAP bit (R327, R328). -/
structure ChunkEnd where
  ref : TRef
  clock : Word
  count : Nat
  pch : BitVec 16
  trap : Bool
  deriving DecidableEq, Repr

/-- The first slot of the CREW record of a chunk end (Table 3 of 15_record_replay.md). -/
def chunkHead (core slot : Nat) (e : ChunkEnd) : BitVec 128 :=
  slotOfFields [(0, 2), (4, core), (11, slot), (25, if e.trap then 1 else 0), (48, e.pch.toNat), (64, e.clock.toNat), (96, e.count % 2 ^ 32)]

/-- A chunk end joins the record of others alike of its crew in this cycle, unless a record behind that one names its thread. -/
def joinCyc (e : CycRec) (core slot t : Nat) : List CycRec → Option (List CycRec)
  | [] => none
  | x :: xs => match joinCyc e core slot t xs with
    | some ys => some (x :: ys)
    | none =>
      if x.mask.isSome && { x with mask := e.mask } == e && !(x :: xs).any (fun y => recordNames core slot t y.record) then
        some ({ x with mask := x.mask.map (fun m => m + 2 ^ t) } :: xs)
      else none

/-- The chunk of one thread ends: its record is written at the end of the cycle (R328). -/
def State.putChunk (s : State) (canWait : Bool) (e : ChunkEnd) : State :=
  if recordMode (s.modesOf e.ref.g) ≠ 1 then s
  else match s.launchOf e.ref.g with
    | none => s
    | some l =>
      let core := s.coreOf e.ref.block
      let h := core / 96
      let slot := s.slotOf e.ref.crew
      let c := (s.hub h).recd.cyc
      let r : CycRec := ⟨l.seq, canWait, [chunkHead (core % 96) slot e], some (2 ^ e.ref.t)⟩
      let s1 := if c.isEmpty then s.schedule (10 * s.cycle + 9 - s.now) (.tick (.records h)) else s
      s1.modHub h (fun x => { x with recd := { x.recd with cyc := (joinCyc r (core % 96) slot e.ref.t c).getD (c ++ [r]) } })

/-- The chunks that end together (R328). -/
def State.putChunks (s : State) (canWait : Bool) (es : List ChunkEnd) : State := es.foldl (fun (u : State) e => u.putChunk canWait e) s

/-- A record of one slot for a launch that records, made in section `h`. -/
def State.putOne (s : State) (g h : Nat) (canWait : Bool) (slots : List (BitVec 128)) : State :=
  if recordMode (s.modesOf g) = 1 then
    match s.launchOf g with
    | some l => s.putRecord h l.seq canWait slots
    | none => s
  else s

end Sys2Proof.Machine
end

