-- ==== Sys2Proof/Machine/Link.lean ====
section
/-!
DEFINITION. Sweep ports (R319 to R321, R459 to R461): routes, flits sent and sent again, ports that go down; peer requests leaving the
package (R246, R462); and the cross-trigger (R342).
-/
namespace Sys2Proof.Machine

/-! ## Routes (R317, R321, R464) -/

/-- The port of a chip's route, none when the route is invalid. -/
def State.routePort (s : State) (c : BitVec 8) : Option Nat :=
  ((s.routes.find? (fun r => r.1 == c.toNat)).bind (fun r => if r.2.getLsbD 7 then some (r.2.toNat % 64) else none))

/-- Chip `c` is lost: its route is invalid or names a port in STATE 4 (R464). -/
def State.chipLost (s : State) (c : BitVec 8) : Bool :=
  match s.routePort c with
  | some p => (s.port p).st == 4
  | none => true

/-- The hub of a port: 8 ports each (01_device_organisation.md). -/
def portHub (p : Nat) : Nat := p / 8

/-- The chips whose routes are valid. -/
def State.routedChips (s : State) : List (BitVec 8) := ((s.routes.filter (fun r => r.2.getLsbD 7)).map (fun r => BitVec.ofNat 8 r.1)).eraseDups

/-- Saturating count of a 64-bit counter. -/
def satInc (v : DWord) : DWord := if v.toNat + 1 < 2 ^ 64 then v + 1 else v

/-- Black-box entry 0x0F (R461): `chip` for the loss of a package. -/
def State.portEvent (s : State) (p : Nat) (chip : Option (BitVec 8)) : State :=
  let x := s.port p
  let arg := match chip with
    | some c => p % 256 + 256 * c.toNat + 2 ^ 31
    | none => p % 256
  s.bbox (hubDie (portHub p)) 0xF 0 0 (BitVec.ofNat 32 arg) x.crcerr x.retries

/-! ## Sending (R320) -/

/-- A flit with its CRC (R319). -/
def sealFlit (f : Flit) : Flit := { f with crc := Config.flitCrc f.bytes }

/-- The CRC of a flit received is good. -/
def goodFlit (f : Flit) : Bool := f.crc == Config.flitCrc f.bytes

/-- A flit as it waits to be sent: its link numbers and its CRC come when it goes. -/
def newFlit (dst src : BitVec 8) (kind cls : Nat) (param : BitVec 40) (m : FlitMsg) : Flit :=
  { dst := dst, src := src, kind := Config.flitKind kind, cls := BitVec.ofNat 2 cls, seq := 0, ack := 0, param := param,
    payload := Config.flitPayload m, crc := 0 }

/-- The window of unacknowledged flits. -/
def windowSize : Nat := 2048

/-- Takes the flits that may go now, oldest first: those of classes not paused, within the window. -/
def pumpPort (now : Nat) (x : Port) : Nat → Port
  | 0 => x
  | n + 1 =>
    match x.queue.find? (fun f => !x.paused.contains f.cls.toNat) with
    | none => x
    | some f =>
      if x.st = 2 && x.unacked.length < windowSize then
        let g := sealFlit { f with seq := x.txNext, ack := x.rxNext - 1 }
        pumpPort now { x with queue := x.queue.erase f, unacked := x.unacked ++ [g], wire := x.wire ++ [g], txNext := x.txNext + 1,
                              ackAt := if x.unacked.isEmpty then now else x.ackAt } n
      else x

/-- 100 µs, after which unacknowledged flits take a port down (R460). -/
def ackTicks : Nat := 100 * usTicks

/-- Sends what a port may send, and watches for the acknowledgement. -/
def State.pump (s : State) (p : Nat) : State :=
  let idle := (s.port p).unacked.isEmpty
  let s1 := s.modPort p (fun x => pumpPort s.now x x.queue.length)
  if idle && !(s1.port p).unacked.isEmpty then s1.schedule ackTicks (.event (.ackTimeout p)) else s1

/-- Puts a flit behind those that wait at a port. -/
def State.portSend (s : State) (p : Nat) (f : Flit) : State := (s.modPort p (fun x => { x with queue := x.queue ++ [f] })).pump p

/-- A flit for chip `c` (R321); dropped where the chip is lost (R464). Kinds are those of `Config.flitKind`. -/
def State.sendFlit (s : State) (c : BitVec 8) (kind cls : Nat) (param : BitVec 40) (m : FlitMsg) : State :=
  if s.chipLost c then s
  else match s.routePort c with
    | none => s
    | some p => s.portSend p (newFlit c s.chip kind cls param m)

/-- Go-back retry: every flit from the first unacknowledged one goes again. -/
def State.resend (s : State) (p : Nat) : State :=
  s.modPort p (fun x => if x.st = 2 then { x with wire := x.wire ++ x.unacked.map (fun f => sealFlit { f with ack := x.rxNext - 1 }) } else x)

/-! ## A port that goes down (R460) -/

def recoveryTicks : Nat := 10000 * usTicks

/-- Takes a port down with CAUSE `cause`. -/
def State.portDown (s : State) (p cause : Nat) : State :=
  let x := s.port p
  if x.st != 2 then s
  else
    let s1 := (s.modPort p (fun y => { y with st := 3, cause := cause, pevent := y.pevent ||| 1, downAt := some s.now })).portEvent p none
    (s1.msix x.pvec).schedule recoveryTicks (.event (.portRecoveryTimeout p))

/-- 20 ms, after which a lost chip's hub is given up (R464). -/
def luTicks : Nat := 20000 * usTicks

/-- A chip is lost: its hubs are given up 20 ms after the last LU of each (R464). -/
def State.luGone (s : State) (c : BitVec 8) : State :=
  (s.remoteLu.filter (fun r => r.chip == c)).foldl (fun (u : State) r => u.schedule (r.at_ + luTicks - s.now) (.event (.replayLuTimeout r.hub c))) s

/-- A port becomes lost: its held flits go, and the chips routed through it are lost to the package (R460, R464). -/
def State.portLost (s : State) (p : Nat) : State :=
  let s1 := (s.modPort p (fun y => { y with st := 4, pevent := y.pevent ||| 4, unacked := [], queue := [], downAt := none })).portEvent p none
  let gone := s.routedChips.filter (fun c => s.routePort c == some p && !s.chipLost c)
  gone.foldl (fun (u : State) c => (u.portEvent p (some c)).luGone c) s1

/-! ## Peer requests (R246, R462) -/

/-- 20 ms, after which a peer request has no response (R462). -/
def peerTicks : Nat := 20000 * usTicks

/-- The class of a request: reductions travel in class 2 (R321). -/
def peerCls : PeerKind → Nat
  | .reduce .. => 2
  | _ => 0

/-- Sends a peer request to a chip that is not lost, and waits for its response. -/
def State.request (s : State) (chip : BitVec 8) (q : PeerReq) (who : TRef) (pend : Nat) (cox : Option CoxId) : State :=
  ({ s with serial := s.serial + 1,
            peerOut := s.peerOut ++ [({ req := q, chip := chip, who := who, pend := pend, sent := s.now, cox := cox } : PeerOut)] }.sendFlit chip
      (if (peerCls q.kind) = 2 then 2 else 0) (peerCls q.kind) (Config.flitParam q.id) (.request q)).schedule peerTicks (.event (.peerRequestTimeout q.id))

/-! ## The cross-trigger (R342) -/

/-- The trigger reaches core `n` in a cycle that the spec leaves open, within the 2 µs of R343 (log entry 3), and acts behind the passes that
issue in that cycle (R344). -/
def State.triggerSoon (s : State) (n : Nat) : State :=
  { s.inCycle (s.cycle + Config.latency s.fresh % (2 * usTicks / 10)) (.debugTrigger n) with fresh := s.fresh + 1 }

/-- Drives the cross-trigger network: every core with blocks, and every chip with a valid route, whose flit says what it is for: a debug stop, or the halt of a
context (R387). -/
def State.crossTrigger (s : State) (cores : List Nat) (chips : Bool) (why : FlitMsg) : State :=
  let s1 := cores.foldl State.triggerSoon s
  if chips then s.routedChips.foldl (fun (u : State) c => u.sendFlit c 6 3 (Config.flitParam u.fresh) why) s1 else s1

end Sys2Proof.Machine
end

