-- ==== Sys2Proof/Machine/Replay.lean ====
section
/-!
DEFINITION. Record rings as a replay reads them (R330 to R335): loading and parsing, the records of an identity, and the frontier.
-/
namespace Sys2Proof.Machine

/-! ## Records of an identity -/

/-- The launch of a group replays records, until a divergence has made it a free run (R334, R453). -/
def State.replays (s : State) (g : Nat) : Bool := recordMode (s.modesOf g) == 2 && s.hubs.any (fun h => h.recd.state == 2)

def State.modRRec (s : State) (h : Nat) (i : DWord) (f : RRec → RRec) : State :=
  s.modHub h (fun u => { u with recd := { u.recd with replay := u.recd.replay.map (fun r => if r.index = i then f r else r) } })

/-- A chunk record: of threads, of an engine operation or a copy (`sreg` 256 + EOP), of a cox context or of the host link. -/
def RRec.isChunk (r : RRec) : Bool := r.kind == 1 || r.kind == 2

/-- Core 126 names the host link and 127 the cox contexts (R331). -/
def RRec.isUnit (r : RRec) : Bool := 126 ≤ (r.ident.extractLsb' 13 7).toNat

/-- The first chunk record of a party of a hub that is no thread, which replay has not completed: of a context or the host link, or of the copy `eop` of a
context (R331, R334). -/
def State.unitRec (s : State) (h : Nat) (id : Word) (eop : Option Nat) : Option RRec :=
  (s.hub h).recd.replay.find? (fun r => r.isChunk && r.isUnit && r.ident == id && r.sreg == eop.elim 0 (fun n => 256 + n % 256) && !r.complete)

/-- The threads that a THREAD, CREW, VALUE or PASS record names. -/
def RRec.threads (r : RRec) : BitVec 128 :=
  if r.isUnit then 0
  else if (r.kind = 1 && r.sreg < 256) || r.kind = 3 then 1 <<< (r.ident.toNat % 128)
  else if r.kind = 2 || r.kind = 4 then r.mask
  else 0

/-- The records of a thread that are not complete, each with its hub. -/
def State.replayRecs (s : State) (t : TRef) : List (Nat × RRec) :=
  let seq := ((s.launchOf t.g).map (fun l => l.seq)).getD 0
  let block := s.blockIndex ⟨t.g, t.k⟩
  (List.range 6).flatMap (fun h => ((s.hub h).recd.replay.filter (fun r =>
    !r.complete && r.launch == seq && r.block == block && r.crew == t.c && r.threads.getLsbD t.t)).map (fun r => (h, r)))

/-- The chunk record that a thread runs next: the lowest clock, and in one ring the oldest (R332). -/
def State.chunkRec (s : State) (t : TRef) : Option (Nat × RRec) :=
  match (s.replayRecs t).filter (fun r => r.2.isChunk) with
  | [] => none
  | r :: rs => some (rs.foldl (fun b x => if above b.2.clock x.2.clock then x else b) r)

/-- A thread has run its part of its chunk record (R334). -/
def State.finishChunk (s : State) (t : TRef) : State :=
  match s.chunkRec t with
  | none => s.modThread t (fun y => { y with grant := none })
  | some x =>
    let part := fun (r : RRec) =>
      let m := if r.kind = 2 then r.mask &&& ~~~((1 : BitVec 128) <<< t.t) else 0
      { r with mask := m, complete := m == 0 }
    ((s.modRRec x.1 x.2.index part).modThread t (fun y => { y with grant := none })).schedule 0 (.event (.frontierUpdate x.1))

/-- What the thread may still issue in its chunk; none without a chunk. -/
def Thread.left (t : Thread) : Nat := (t.grant.map (fun g => g.left)).getD 0

/-- The thread's present chunk ends in a recorded trap. -/
def Thread.trapDue (t : Thread) : Bool := (t.grant.map (fun g => g.trap)).getD false

/-! ## Loading a ring (R330 to R332, R451) -/

/-- The slots of the blocks from index `i` up, by their place in the ring (4 × block + slot), at most `n` blocks and up to the first gap: a discontinuity or
what lies past LOSTPOS (R448, R450); with the number of those blocks. The slots of the first block that continue an earlier record are passed over. -/
def State.ringRun (s : State) (r : Recorder) (launch : DWord) (first : Bool) (i : DWord) : Nat → List (DWord × Nat) × Nat
  | 0 => ([], 0)
  | n + 1 =>
    let v := s.physNat (r.blockPa i) 64
    if v % 2 ^ 64 ≠ launch.toNat || v / 2 ^ 64 % 2 ^ 32 ≠ i.toNat % 2 ^ 32 || (r.rrstat.getLsbD 2 && r.lostpos.toNat ≤ i.toNat) then ([], 0)
    else
      let f := v / 2 ^ 96 % 4
      let ks := [1, 2, 3].filter (fun k => !first || (f != 0 && f ≤ k))
      let w := State.ringRun s r launch false (i + 1) n
      (ks.map (fun k => (4 * i + BitVec.ofNat 64 k, v / 2 ^ (128 * k) % 2 ^ 128)) ++ w.1, w.2 + 1)

/-- Slots of a record, from its first (Table 3). -/
def recordSlots (v : Nat) : Nat :=
  match slotField v 3 0 with
  | 2 | 4 => 2
  | 7 => 1 + (slotField v 20 11 + 1) / 2
  | _ => 1

/-- The record whose first slot is `v` and whose further slots are `more` (Table 3). FAB and STEP records take no part in the frontier. -/
def rrecOf (chip : BitVec 8) (h : Nat) (launch index : DWord) (place : Nat × Nat) (v : Nat) (more : List Nat) : RRec :=
  let kind := slotField v 3 0
  let eop := if kind = 1 && slotField v 24 24 = 1 then 256 + slotField v 33 26 else 0
  { index := index, kind := kind, launch := launch,
    ident := if kind = 5 then identity (BitVec.ofNat 8 (slotField v 31 24)) h (slotField v 10 4) (slotField v 16 11) 0
      else identity chip h (slotField v 10 4) (slotField v 16 11) (if kind = 1 || kind = 3 then slotField v 23 17 else 0),
    clock := BitVec.ofNat 32 (if kind = 6 then slotField v 127 96 else slotField v 95 64),
    count := BitVec.ofNat 32 (if kind = 6 then slotField v 95 64 else slotField v 127 96),
    pch := BitVec.ofNat 16 (slotField v 63 48), trap := slotField v 25 25 = 1 && (kind = 1 || kind = 2),
    mask := BitVec.ofNat 128 (more.headD 0),
    sreg := if kind = 3 then slotField v 29 24 else if kind = 6 then slotField v 20 17 else if kind = 7 then slotField v 10 7 else eop,
    value := BitVec.ofNat 64 (slotField v 127 64),
    block := if kind = 5 then slotField v 87 32 else place.1, crew := if kind = 5 then slotField v 22 17 else place.2,
    words := if kind = 2 then [BitVec.ofNat 64 (more.headD 0), BitVec.ofNat 64 (more.headD 0 / 2 ^ 64)]
      else if kind = 7 then (more.flatMap (fun m => [BitVec.ofNat 64 m, BitVec.ofNat 64 (m / 2 ^ 64)])).take (slotField v 20 11) else [],
    released := false, complete := kind = 5 || kind = 8 || kind = 9 }

/-- The placement in force for the crew slot of a record, newest first. -/
def placeOfSlot (rs : List RRec) (v : Nat) : Option (Nat × Nat) :=
  (rs.find? (fun r => r.kind == 5 && (r.ident.extractLsb' 13 7).toNat == slotField v 10 4 && (r.ident.extractLsb' 7 6).toNat == slotField v 16 11)).map
    (fun r => (r.block, r.crew))

/-- Parses slots; `done` holds the earlier records, newest first. The second part tells that a PLACE record is missing. -/
def parseSlots (chip : BitVec 8) (h : Nat) (launch : DWord) : Nat → List RRec → List (DWord × Nat) → List RRec × Bool
  | 0, done, _ => (done, false)
  | _, done, [] => (done, false)
  | n + 1, done, (i, v) :: rest =>
    let kind := slotField v 3 0
    if kind = 0 || 0xA < kind then parseSlots chip h launch n done rest
    else
      let k := recordSlots v
      let needs := (kind ≤ 4 || kind = 6 || kind = 0xA) && slotField v 10 4 < 126
      let place := placeOfSlot done v
      if needs && place.isNone then (done, true)
      else
        parseSlots chip h launch n (rrecOf chip h launch i (place.getD (0, 0)) v ((rest.take (k - 1)).map (fun x => x.2)) :: done) (rest.drop (k - 1))

/-- The launch whose records a replay reads: that of the replaying launch, else of the first block. -/
def State.replayLaunch (s : State) : DWord :=
  match s.launches.find? (fun l => l.isOpen && recordMode l.p.modes == 2) with
  | some l => l.seq
  | none => 0

/-- LAUNCH of the first block that a ring holds from RRGET (R334). -/
def State.ringLaunch (s : State) : Option DWord :=
  (List.range 6).findSome? (fun h =>
    let r := (s.hub h).recd
    if r.rrget = r.rrput then none else some (BitVec.ofNat 64 (s.physNat (r.blockPa r.rrget) 8)))

/-- Takes part in the frontier: chunk and BAR records. -/
def RRec.fronts (r : RRec) : Bool := (r.isChunk || r.kind == 6) && !r.complete

/-- Reads the blocks from RRGET to RRPUT of hub `h`, up to a gap, which the replay meets once it has run what stands before; then the DETAIL of its RINGGAP
(R448). -/
def State.loadRing (s : State) (h : Nat) : Nat ⊕ State :=
  let r := (s.hub h).recd
  let launch := s.replayLaunch
  let w := s.ringRun r launch (r.replay.isEmpty) r.rrget r.used
  if w.2 = 0 then (if r.replay.any RRec.fronts then .inr s else .inl (if r.replay.isEmpty then 0 else 1))
  else
    let got := parseSlots s.chip h launch w.1.length r.replay.reverse w.1
    if got.2 then .inl 1
    else .inr (s.modHub h (fun x => { x with recd := { x.recd with rrget := x.recd.rrget + BitVec.ofNat 64 w.2, replay := got.1.reverse } }))

/-! ## The frontier (R334) -/

/-- Serial minimum of the clocks listed. -/
def sminOpt : List Word → Option Word
  | [] => none
  | x :: xs => some (xs.foldl smin x)

/-- LU of a hub. -/
def State.luOf (s : State) (h : Nat) : Option Word := sminOpt (((s.hub h).recd.replay.filter RRec.fronts).map (fun r => r.clock))

/-- A package of the replay, one that the job names or that has sent an LU, has not yet sent LU for all six of its hubs (R334, R337). -/
def State.luMissing (s : State) : Bool :=
  (s.jobChips ++ s.remoteLu.map (fun r => r.chip)).any (fun c => (List.range 6).any (fun h => !s.remoteLu.any (fun q => q.chip == c && q.hub == h)))

/-- G: over every hub of the package and of the other replaying packages; none while one of those has not told all of its own (log entry 45). -/
def State.frontier (s : State) : Option Word :=
  if s.luMissing then none else sminOpt ((List.range 6).filterMap s.luOf ++ s.remoteLu.filterMap (fun r => r.lu))

/-- Two records are of one identity. -/
def RRec.sameParty (a b : RRec) : Bool :=
  if a.isUnit || b.isUnit then a.ident == b.ident && a.sreg / 256 == b.sreg / 256
  else a.block == b.block &&
    ((a.crew == b.crew && (a.threads &&& b.threads) != 0)
     || (a.crew == b.crew && a.kind == 1 && b.kind == 1 && 256 ≤ a.sreg && a.sreg == b.sreg)
     || (a.kind == 6 && b.kind == 6 && a.sreg == b.sreg))

/-- The records that G releases now: at its clock, not yet released, with every earlier record of their identity complete. -/
def releasable (g : Word) : List RRec → List RRec → List RRec
  | _, [] => []
  | before, r :: rs =>
    (if r.fronts && !r.released && r.clock = g && !before.any (fun b => b.fronts && b.sameParty r) then [r] else []) ++ releasable g (before ++ [r]) rs

end Sys2Proof.Machine
end

