-- ==== Sys2Proof/Machine/Ops.lean ====
section
/-!
DEFINITION. The operations that instructions share: reading and writing registers, the clocks of a thread, ending chunks, taking a
trap (R376 to R378) and returning from one (R385), and the halt of a context (R387).
-/
namespace Sys2Proof.Machine

/-! ## Registers -/

/-- What a read in cycle `cyc` returns of a register whose writes may not yet be due, newest first (R401): the choice of read `n` is
free (log entry 3). -/
def lateValue (cyc n : Nat) (r : BitVec 7) : List Late → Word → Word
  | [], v => v
  | l :: ls, v =>
    if l.reg = r && cyc < l.due then (if Config.earlyRead n then lateValue cyc n r ls l.old else v) else lateValue cyc n r ls v

/-- The writes of an operation that instructions issued later have not replaced (R401). -/
def Pend.lasting (p : Pend) : List (BitVec 7 × Word) := p.writes.filter (fun w => !p.gone.contains w.1)

/-- The newest result of an operation under way for register `r`. -/
def pendValue (r : BitVec 7) : List Pend → Option Word
  | [] => none
  | p :: ps => match pendValue r ps with
    | some v => some v
    | none => (p.lasting.find? (fun w => w.1 == r)).map (fun w => w.2)

/-- Register `r` as the thread reads it (R46, R401); a poisoned register reads 0 (R381, R382). -/
def Thread.readReg (t : Thread) (cyc n : Nat) (r : BitVec 7) : Word :=
  if t.poison.contains r then 0
  else
    let v := lateValue cyc n r t.late ((t.regs[r.toNat]?).getD 0)
    match pendValue r t.pend with
    | some p => if Config.earlyRead (n + 1) then v else p
    | none => v

/-- A later write to `r` replaces what earlier operations would still write there, known already or not (R401). -/
def dropWrites (r : BitVec 7) (ps : List Pend) : List Pend := ps.map (fun p => { p with gone := r :: p.gone })

/-- Writes register `r`; a read that issues before cycle `due` may still see the old value. -/
def Thread.writeReg (t : Thread) (cyc due : Nat) (r : BitVec 7) (v : Word) (poisoned : Bool) : Thread :=
  { t with regs := t.regs.set r.toNat v,
           late := if cyc < due then ⟨r, (t.regs[r.toNat]?).getD 0, due⟩ :: t.late.filter (fun l => cyc < l.due)
                   else t.late.filter (fun l => cyc < l.due),
           pend := dropWrites r t.pend,
           poison := if poisoned then (if t.poison.contains r then t.poison else r :: t.poison) else t.poison.erase r }

/-- The record goes when no poisoned register remains (R382). -/
def Thread.tidyPoison (t : Thread) : Thread := if t.poison.isEmpty then { t with poisonRec := none } else t

/-- The latest write in issue order. -/
def newestWrite : List KWrite → Option KWrite
  | [] => none
  | w :: ws => match newestWrite ws with
    | some u => some (if w.order ≤ u.order then u else w)
    | none => some w

/-- Crew register `k` as a read issued in cycle `cyc` finds it (R67): of the writes that are due, the latest in issue order. -/
def Crew.readReg (c : Crew) (cyc : Nat) (k : BitVec 7) : Word :=
  match newestWrite (c.klate.filter (fun w => w.reg == k && w.due ≤ cyc)) with
  | some w => w.val
  | none => (c.kregs[k.toNat]?).getD 0

/-- The writes that a read may still find once `w` has joined them: those not before the latest that is due. The value that the register held
before its first write stands below them all. -/
def Crew.keepWrite (c : Crew) (cyc : Nat) (w : KWrite) : List KWrite :=
  let mine := c.klate.filter (fun u => u.reg == w.reg)
  let all := w :: (if mine.isEmpty then [⟨w.reg, (c.kregs[w.reg.toNat]?).getD 0, 0, 0⟩] else mine)
  let least := ((newestWrite (all.filter (fun u => u.due ≤ cyc))).map KWrite.order).getD 0
  all.filter (fun u => least ≤ u.order) ++ c.klate.filter (fun u => u.reg != w.reg)

/-- Writes crew register `k` at the issue `order`, the latest so far (R50: writes of a pass come in lane order, so the last stands). -/
def Crew.writeReg (c : Crew) (cyc due : Nat) (k : BitVec 7) (v : Word) (order : Nat) : Crew :=
  { c with kregs := c.kregs.set k.toNat v, klate := c.keepWrite cyc ⟨k, v, due, order⟩ }

/-- A result of a variable latency reaches crew register `k`: the writes of instructions issued later stand (R50). -/
def Crew.writeLate (c : Crew) (cyc : Nat) (k : BitVec 7) (v : Word) (order : Nat) : Crew :=
  { c with kregs := if c.klate.any (fun u => u.reg == k && order < u.order) then c.kregs else c.kregs.set k.toNat v,
           klate := c.keepWrite cyc ⟨k, v, cyc, order⟩ }

/-- Place of a lane's write in issue order (R50). -/
def writeOrder (pass lane : Nat) : Nat := 128 * pass + lane + 1

/-! ## Clocks of a thread -/

def Thread.clk (t : Thread) : Clk := { o := t.o, s := t.s, pa := t.pa, fs := t.fs, sync := t.syncscope, ended := false }

def Thread.setClk (t : Thread) (c : Clk) : Thread :=
  { t with o := c.o, s := c.s, pa := c.pa, fs := c.fs, syncscope := c.sync }

/-- The clock floor of a section: HW − 2^29 of its hub (R258). -/
def State.floorOf (s : State) (sec : Nat) : Word := (s.hub sec).hw - 0x20000000

/-- A hub's high-water clock takes in clock values it stamps or handles; HWX counts its wraps; SC never stands below the floor (R258). -/
def State.noteClock (s : State) (h : Nat) (x : Word) : State :=
  s.modHub h (fun u =>
    if above x u.hw then
      { u with hw := x, hwx := u.hwx + ((x - u.hw).zeroExtend 64), sc := smax u.sc (x - 0x20000000) }
    else u)

def Thread.chunkCount (t : Thread) : Nat := t.issued - t.chunkStart

/-- New clocks of a thread after an access of the instruction issued as its `seq`-th at `pc`. -/
structure ClkUpd where
  ref : TRef
  clk : Clk
  seq : Nat
  pc : DWord
  deriving DecidableEq, Repr

/-- The chunk end that a raise makes (R327): the instruction whose access raises the clock begins the next chunk. -/
def State.chunkEndOf (s : State) (u : ClkUpd) : Option ChunkEnd :=
  match s.thread? u.ref with
  | some t => if u.clk.ended then some ⟨u.ref, t.o, u.seq - t.chunkStart, pcHash u.pc, false⟩ else none
  | none => none

/-- A raise begins the next chunk, but in replay, where the records tell the chunks (R334). -/
def State.applyClk (s : State) (u : ClkUpd) : State :=
  let ends := u.clk.ended && !s.replays u.ref.g
  s.modThread u.ref (fun t => { t.setClk u.clk with chunkStart := if ends then max t.chunkStart u.seq else t.chunkStart })

/-- Gives threads their new clocks and writes the records of the chunks that end (R171, R328). -/
def State.commitClks (s : State) (us : List ClkUpd) : State :=
  let es := us.filterMap s.chunkEndOf
  (us.foldl State.applyClk s).putChunks true es

/-! ## Causes and traps -/

/-- `$trapcause` (R375, Table 2 of 20_fault_architecture.md). -/
def mkCause (cls code detail : Nat) (poison rolled : Bool) : Word :=
  BitVec.ofNat 32 (detail % 2 ^ 16 * 2 ^ 16 + (if rolled then 2 ^ 15 else 0) + (if poison then 2 ^ 14 else 0) + cls * 2 ^ 8 + code)

def Delivery.rank : Delivery → Nat
  | .region => 0
  | .poison => 1
  | .async => 2
  | .issue => 3

/-- Precedence of standing faults (R377): delivery kind, then order, then effective address. -/
def PFault.before (a b : PFault) : Bool :=
  a.how.rank < b.how.rank || (a.how.rank == b.how.rank &&
    (a.order < b.order || (a.order == b.order && a.addr.toNat ≤ b.addr.toNat)))

def firstFault : List PFault → Option PFault
  | [] => none
  | f :: fs => match firstFault fs with
    | some g => some (if f.before g then f else g)
    | none => some f

def Thread.dropFlag (t : Thread) (f : Option (Fin 12)) : Thread :=
  match f with
  | some i => { t with flags := t.flags.modify i.val (· - 1) }
  | none => t

/-- An ENQ is under way. -/
def Wait.enq : Wait → Bool
  | .enqRoom .. => true
  | .enqPub .. => true
  | _ => false

/-- Every access that the thread has issued has been performed and checked (R377, R43), those of an ENQ under way with them (R242). -/
def Thread.settled (t : Thread) : Bool := !t.wait.enq && !t.pend.any (fun p => p.access && (p.todo.isSome || p.peer.isSome))

/-- A thread that waits in CTRWAIT, or in an ENQ for room, stands before that instruction again (R190, R291; log entry 40). -/
def Thread.unwind (t : Thread) : Thread :=
  let back := fun (pc : DWord) (n : Nat) =>
    { t.dropFlag ((t.pend.find? (fun p => p.id == n)).bind (fun p => p.flag)) with
      pc := pc, wait := .none, pend := t.pend.filter (fun p => p.id != n), issued := t.issued - 1, readyAt := 0,
      grant := t.grant.map (fun (g : Grant) => { g with left := g.left + 1 }) }
  match t.wait with
  | .ctr _ _ _ _ _ n => match (t.pend.find? (fun p => p.id == n)).bind (fun p => p.todo) with
    | some a => back a.pc n
    | none => t
  | .enqRoom pc _ _ _ _ n r => { back pc n with regionPc := r.1, regionCount := r.2.1, regionNew := r.2.2 }
  | _ => t

def State.unwindBlock (s : State) (b : BRef) : State :=
  s.modBlock b (fun x => { x with crews := x.crews.map (fun (c : Crew) => { c with threads := c.threads.map Thread.unwind }) })

/-- The blocks of the debugged context that stand on cores. -/
def State.debugged (s : State) : List (BRef × Block) :=
  s.allBlocks.filter (fun b => s.asidOf b.1.g == s.dbg.asid && !b.2.ended && ((s.group? b.1.g).map Group.placed).getD false)

/-- HALTED reads 1 once every block of the context has halted (R343, R387). -/
def State.checkHalted (s : State) : State :=
  if (s.dbg.trigger.isSome || (s.asid s.dbg.asid).halt) && s.debugged.all (fun b => b.2.stop == .halted) then
    { s with dbg := { s.dbg with halted := true, trigger := none } }
  else s

/-- Stops the context of an ASID (R387): its blocks latch when the trigger reaches them, in every package where `chips` holds, and its cox contexts stop before
their next packet with STATE 4. -/
def State.stopContext (s : State) (a : BitVec 16) (first : Option BRef) (chips : Bool) : State :=
  if (s.asid a).halt then s
  else
    let s1 := s.modAsid a (fun x => { x with halt := true })
    let s2 := match first with
      | some b => (((match s1.block? b with
          | some x => if x.stop = StopSt.run then (s1.unwindBlock b).modBlock b (fun (y : Block) => { y with stop := StopSt.latched [] }) else s1
          | none => s1).soon (.stopRecordWrite b)).inCycle s1.cycle (.debugTrigger (s1.coreOf b)))
      | none => s1
    let cores := (s.allBlocks.filter (fun b => s.asidOf b.1.g == a && !b.2.ended)).map (fun b => b.2.core)
    let s3 := s2.crossTrigger (cores.filter (fun n => some n != first.map s.coreOf)).eraseDups chips (.halt a)
    let bound := s.coxes.filter (fun c => match c.bound with
      | some r => BitVec.ofNat 16 (s.physNat r.toNat 2) == a
      | none => false)
    (bound.foldl (fun u c => u.modCox c.id (fun y =>
      if y.state = 4 then y else { y with haltStop := true, state := if y.state = 2 || y.state = 3 then y.state else 4 })) s3).checkHalted

/-- Halts the context of an ASID in the Sweep domain (R387); the cox context of the faulting launch sends MSIV once. -/
def State.haltContext (s : State) (a : BitVec 16) (owner : CoxId) (first : Option BRef) : State :=
  if (s.asid a).halt then s else (s.stopContext a first true).msix ((s.cox owner).msiv.toNat % 64)

/-- Logs a fault of a thread and halts its context (R387, R388). -/
def State.haltFault (s : State) (t : TRef) (f : PFault) : State :=
  match s.thread? t, s.launchOf t.g with
  | some x, some l =>
    let flags := (if x.handler then 1 else 0) + (if x.trapvec = 0 then 2 else 0)
    let bytes := faultRecord f.cause flags l.seq (s.blockIndex t.block) t.c (s.identOf t) x.regionCount f.pc f.addr x.regionPc s.time
    let s1 := s.modThread t (fun y => { y with haltFault := some f, faults := y.faults.filter (fun g => g.how = .async && g ≠ f) })
    (s1.faultLog l.asid (coreSection (s.coreOf t.block)) bytes).haltContext l.asid l.cox (some t.block)
  | _, _ => s

/-- The record at DIVADDR, DIVERGED and the black-box entry of a divergence at hub `h` (R453, R456). -/
def State.putDivergence (s : State) (h code detail : Nat) (a : BitVec 16) (d : Divergence) : State :=
  let addr := (s.hub h).recd.divaddr
  let bytes := leBytes 1 code ++ leBytes 1 detail ++ leBytes 1 h ++ leBytes 1 0 ++ leBytes 4 d.recId.toNat ++ leBytes 8 d.index.toNat
    ++ leBytes 8 d.launch.toNat ++ leBytes 8 d.where_ ++ leBytes 4 d.clock.toNat ++ leBytes 4 d.count.toNat ++ leBytes 4 d.ocount.toNat
    ++ leBytes 2 d.pch.toNat ++ leBytes 2 d.opch.toNat ++ leBytes 8 d.exp.toNat ++ leBytes 8 d.obs.toNat
  let s1 := if addr = 0 then s else s.physWrite addr.toNat bytes
  ((s1.modHub h (fun x => { x with recd := { x.recd with diverged := true } })).setRrstat h 3).bbox (hubDie h) 0xC 0 a (BitVec.ofNat 32 code) d.index (d.recId.zeroExtend 64)

/-- A divergence (R453): its record, and the halt of its context; the recorder's first one stands. -/
def State.putCheck (s : State) (e : DivEntry) : State :=
  if (s.hub e.hub).recd.diverged then s
  else
    let u := s.putDivergence e.hub e.code e.detail e.asid e.d
    match e.who with
    | some w => u.haltFault w.1 w.2
    | none => (u.faultLog e.asid e.hub (faultRecord (mkCause 5 e.code e.detail false false) 0 e.d.launch 0 0 e.d.recId 0 e.pc 0 0 s.time)).haltContext
        e.asid e.owner none

/-- The end of a cycle in which checks have failed. -/
def State.flushChecks (s : State) : State := s.divsNow.foldl State.putCheck { s with divsNow := [] }

/-- A divergence of a thread at hub `h` (R453), which halts its context. -/
def State.diverge (s : State) (h : Nat) (t : TRef) (code detail : Nat) (recId : Word) (index : DWord) (clock rcount ocount : Word)
    (pch opch : BitVec 16) (exp obs : DWord) : State :=
  if (s.hub h).recd.diverged then s
  else match s.launchOf t.g, s.thread? t with
    | some l, some x =>
      let f : PFault := { how := .async, order := 0, cause := mkCause 5 code detail false false, addr := 0, pc := x.pc, rpc := x.regionPc,
                          rcount := x.regionCount, queue := none }
      let d : Divergence := ⟨recId, index, l.seq, s.blockIndex t.block + t.c * 2 ^ 56, clock, rcount, ocount, pch, opch, exp, obs⟩
      s.failCheck ⟨h, code, detail, l.asid, d, some (t, f), l.cox, x.pc⟩
    | _, _ => s

/-- A divergence of a thread in its present chunk, at the record checked: `own`, a VALUE or PASS record, or that of the chunk. -/
def State.divergeAt (s : State) (t : TRef) (code detail : Nat) (pc : DWord) (exp obs : DWord) (own : Option RRec := none) : State :=
  match s.thread? t with
  | none => s
  | some x =>
    let g := x.grant.getD ⟨x.o, 0, 0, false, 0, 0⟩
    let h := ((s.chunkRec t).map (fun r => r.1)).getD (coreSection (s.coreOf t.block))
    let id := ((s.chunkRec t).map (fun r => r.2.ident)).getD (s.identOf t)
    s.diverge h t code detail id (((own.map (fun r => r.index)).getD g.index) / 4) g.clock g.count (BitVec.ofNat 32 x.chunkCount) g.pch (pcHash pc) exp obs

/-- The first VALUE or PASS record (`kind` 3 or 4) of the thread's present chunk that it has not consumed (R332, R334). -/
def State.chunkOwn (s : State) (t : TRef) (kind : Nat) : Option (Nat × RRec) :=
  match s.chunkRec t with
  | none => none
  | some c => (s.replayRecs t).find? (fun r => r.1 == c.1 && r.2.kind == kind && r.2.index.toNat < c.2.index.toNat)

/-- The end of a replayed chunk (R334, R452): PCH is checked against `pc`, then the record is complete. -/
def State.endChunk (s : State) (t : TRef) (pc : DWord) : State :=
  match (s.thread? t).bind (fun x => x.grant) with
  | none => s
  | some g => if g.pch != pcHash pc then s.divergeAt t 1 0 pc 0 0 else s.finishChunk t

/-- The thread's effect of a delivered trap (R378), with region checkpoint, clocks, flags and meet target as they stand. -/
def Thread.trap (t : Thread) (f : PFault) : Thread :=
  let rolled := f.how = .region || f.how = .poison
  let u := if rolled then { t with pc := f.rpc, regionPc := f.rpc, regionCount := f.rcount, regionNew := true, poison := [], poisonRec := none }
    else t
  { u with trapcause := f.cause, trapaddr := f.addr, trappc := f.pc, handler := true, skip := 0, pc := t.trapvec,
           faults := [], later := t.later ++ t.faults.filter (fun g => g.how = .async && g ≠ f) }

/-- Where the thread's next chunk begins when a trap ends this one (R328): at its handler, or where a halt leaves it (R378, R387). -/
def Thread.trapPc (t : Thread) : DWord := if t.handler || t.trapvec = 0 then t.pc else t.trapvec

/-- What replay does with a standing fault before its delivery (R334, R340, R452): an issue or poison fault is a trap where it arises, the
others wait for the recorded trap; a trap that no record of the thread has diverges. Answers whether the trap is delivered. -/
def State.replayTrap (s : State) (t : TRef) (x : Thread) (f : PFault) : State × Bool :=
  if x.left = 0 && x.trapDue then
    let u := s.endChunk t x.trapPc
    (u, !((u.thread? t).bind (fun y => y.grant)).isSome)
  else if f.how = .issue || f.how = .poison || !(s.replayRecs t).any (fun r => r.2.isChunk && r.2.trap) then (s.divergeAt t 2 1 x.pc 0 0, false)
  else (s, false)

/-- TRAP_DELIVERY (R377, R378): delivers the thread's first standing fault once its accesses are performed. An asynchronous fault's
`$trappc` is the thread's next instruction. -/
def State.deliver (s : State) (t : TRef) : State :=
  match s.thread? t with
  | none => s
  | some x =>
    match firstFault x.faults with
    | none => s
    | some f0 =>
      if !x.settled || x.haltFault.isSome || x.faults.any (fun g => g.race.isSome) then s
      else
        let f := if f0.how = .async then { f0 with pc := x.pc } else f0
        let w := if s.replays t.g then s.replayTrap t x f else (s, true)
        if !w.2 then w.1
        else
          let s0 := match f.queue with
            | some q => w.1.modBlock t.block (fun b => { b with broken := b.broken.erase (q, f0.order) })
            | none => w.1
          let s1 := s0.modThread t (fun y => { y with faults := y.faults.map (fun g => if g = f0 then f else g), chunkStart := y.issued })
          let s2 := s1.putChunk false ⟨t, x.o, x.chunkCount, pcHash x.trapPc, true⟩
          if x.handler || x.trapvec = 0 then s2.haltFault t f else s2.modThread t (fun y => y.trap f)

/-- Adds a standing fault (R377) and delivers at once where every access of the thread is performed. -/
def State.addFault (s : State) (t : TRef) (f : PFault) : State :=
  (s.modThread t (fun x => { x with faults := x.faults ++ [f] })).deliver t

/-- Adds a fault that TRAP_DELIVERY will deliver later. -/
def State.standFault (s : State) (t : TRef) (f : PFault) : State :=
  (s.modThread t (fun x => { x with faults := x.faults ++ [f] })).soon (.trapDelivery t)

/-- An asynchronous fault for every thread of a crew that has not exited (R376). -/
def State.crewFault (s : State) (c : CRef) (cause : Word) (addr : DWord) (queue : Option Nat) : State :=
  match s.crew? c with
  | none => s
  | some x =>
    let n := s.serial
    (x.allThreads c).foldl (fun u p =>
      if p.2.exited then u
      else u.standFault p.1 { how := .async, order := n, cause := cause, addr := addr, pc := p.2.pc, rpc := p.2.regionPc, rcount := p.2.regionCount,
                              queue := queue }) { s with serial := n + 1 }

/-! ## Return from a trap (R385) -/

/-- A value as a PC: bits 1:0 are zero (R58, R64). -/
def alignPc (v : DWord) : DWord := v &&& ~~~(3 : DWord)

/-- Leaves handler state with the PC at the place the mode names: 0 `.region`, 1 `.next`, 2 `.here`; `len` is the length that the word at
`$trappc` gives. The asynchronous faults that have stood since before it entered can be delivered again (R377). -/
def Thread.resume (t : Thread) (mode : Nat) (len : Nat) : Thread :=
  { t with handler := false, faults := t.faults ++ t.later, later := [],
           regionNew := mode = 0 || t.regionNew,
           pc := if mode = 0 then t.regionPc else if mode = 1 then alignPc t.trappc + BitVec.ofNat 64 len else alignPc t.trappc }

/-! ## Range of a register group -/

/-- The registers of a group of `w` that starts at `r`. -/
def groupRegs (r : BitVec 7) (w : Nat) : List (BitVec 7) := (List.range w).map (fun i => r + BitVec.ofNat 7 i)

/-- Joins words, the first in the low bits. -/
def joinWords : List Word → Nat
  | [] => 0
  | w :: ws => w.toNat + 2 ^ 32 * joinWords ws

/-- Word `i` of a value. -/
def wordAtIdx (v : Nat) (i : Nat) : Word := BitVec.ofNat 32 (v / 2 ^ (32 * i))

end Sys2Proof.Machine
end

