-- ==== Sys2Proof/Machine/Operands.lean ====
section
/-!
DEFINITION. The operands of a thread instruction: guards (R66), register groups of either file (R47, R73), immediates (R69, R84),
register limits (R395) and the poison of sources (R382).
-/
namespace Sys2Proof.Machine

/-! ## Guards -/

/-- The guard is *always* (R66). -/
def Guard.always (g : Guard) : Bool := g.reg == 0 && g.bit == 0 && !g.neg

/-- Index of the free value for a read of register `r` by thread `n` of the crew in an instruction that starts at `base`. -/
def readIndex (base n : Nat) (r : BitVec 7) : Nat := base + 1024 * n + 4 * r.toNat

/-- The guard of a thread (R31, R66). -/
def guardTrue (g : Guard) (t : Thread) (cyc n base : Nat) : Bool :=
  Guard.always g || ((t.readReg cyc (readIndex base n g.reg) g.reg).getLsbD g.bit.toNat != g.neg)

/-! ## Groups of registers -/

/-- The registers a field names, for an operand of its entry. -/
def Operand.regs (p : Operand) (r : Reg) : List (BitVec 7) :=
  match p with
  | .reg _ _ w _ => groupRegs r.num w
  | _ => []

def Operand.isSrc : Operand → Bool
  | .reg s _ _ _ => s
  | _ => false

def Operand.isDst : Operand → Bool
  | .reg _ d _ _ => d
  | _ => false

/-- The value of a register operand, low register in the low bits. -/
def readOperand (p : Operand) (r : Reg) (c : Crew) (t : Thread) (cyc n base : Nat) : Nat :=
  joinWords ((p.regs r).map (fun q => if r.crew then c.readReg cyc q else t.readReg cyc (readIndex base n q) q))

/-- A source that one of the registers it names poisons. -/
def poisonedOperand (p : Operand) (r : Reg) (t : Thread) : Bool :=
  p.isSrc && !r.crew && (p.regs r).any (fun q => t.poison.contains q)

/-- The old contents of a destination register, poison or not. -/
def rawOperand (p : Operand) (r : Reg) (t : Thread) (cyc n base : Nat) : Nat :=
  joinWords ((p.regs r).map (fun q => lateValue cyc (readIndex base n q) q t.late ((t.regs[q.toNat]?).getD 0)))

/-- What one lane reads before anything is written (R113). -/
structure Src where
  /-- vs1, vs2, vs3, vs4 and the old vd. -/
  a : Nat
  b : Nat
  c : Nat
  e : Nat
  d : Nat
  poisoned : Bool
  deriving DecidableEq, Repr

def readSrc (row : Row) (o : Ops) (c : Crew) (t : Thread) (cyc n base : Nat) : Src :=
  { a := readOperand row.vs1 o.vs1 c t cyc n base
    b := readOperand row.vs2 o.vs2 c t cyc n base
    c := readOperand row.vs3 o.vs3 c t cyc n base
    e := readOperand row.vs4 o.vs4 c t cyc n base
    d := if o.vd.crew then readOperand row.vd o.vd c t cyc n base else rawOperand row.vd o.vd t cyc n base
    poisoned := poisonedOperand row.vs1 o.vs1 t || poisonedOperand row.vs2 o.vs2 t || poisonedOperand row.vs3 o.vs3 t
      || poisonedOperand row.vs4 o.vs4 t || (!row.vd.isDst && poisonedOperand row.vd o.vd t) }

/-- The last source: the immediate in an I form (R69). -/
def immOr (o : Ops) (row : Row) (v : Nat) : Nat := if row.form = .i then o.imm.toNat else v

/-! ## Register limits (R395) -/

/-- REGRANGE detail: the field with the lowest code and its lowest register at or above the allocation `n`. -/
def regRange (row : Row) (o : Ops) (n : Nat) : Option Nat :=
  let field := fun (code : Nat) (p : Operand) (r : Reg) =>
    if r.crew then none
    else ((p.regs r).find? (fun q => n ≤ q.toNat)).map (fun q => q.toNat + 128 * code)
  (field 0 row.vd o.vd).or ((field 1 row.vs1 o.vs1).or ((field 2 row.vs2 o.vs2).or ((field 3 row.vs3 o.vs3).or
    ((field 4 row.vs4 o.vs4).or
      (if Guard.always o.guard || o.guard.reg.toNat < n then none else some (o.guard.reg.toNat + 128 * 5))))))

/-- The registers an instruction reads or writes, as (crew register, number, destination) (R400). -/
def operandRegs (row : Row) (o : Ops) : List (Bool × BitVec 7 × Bool) :=
  (row.fields o).flatMap (fun f => (f.1.regs f.2).map (fun q => (f.2.crew, q, f.1.isDst)))

/-- The 32-bit immediate sign-extended to 64 bits (R84). -/
def immSext (o : Ops) : DWord := (o.imm.extractLsb' 0 32).signExtend 64

end Sys2Proof.Machine
end

