-- ==== Sys2Proof/Machine/Flags.lean ====
section
/-!
DEFINITION. Completion flags (R52 to R54) and the checking scoreboard of stallcheck mode (R400).
-/
namespace Sys2Proof.Machine

/-! ## Completion flags -/

def Thread.flag (t : Thread) (f : Fin 12) : BitVec 6 := (t.flags[f.val]?).getD 0

def Thread.raiseFlag (t : Thread) (f : Option (Fin 12)) : Thread :=
  match f with
  | some i => { t with flags := t.flags.modify i.val (· + 1) }
  | none => t

/-- Every flag of the wait mask reads zero, and the flag to be set does not read 63 (R29, R53, R54). -/
def flagsReady (t : Thread) (wait : BitVec 12) (f : Option (Fin 12)) : Bool :=
  (List.finRange 12).all (fun i => !wait.getLsbD i.val || t.flag i == 0) &&
  match f with
  | some i => t.flag i != 63
  | none => true

/-- Bit i set when fi is not zero (`$flagz`). -/
def Thread.flagz (t : Thread) : Word :=
  BitVec.ofNat 32 ((List.finRange 12).foldl (fun n i => if t.flag i = 0 then n else n + 2 ^ i.val) 0)

/-! ## The checking scoreboard (R400) -/

/-- What the check finds: STALL (0x07) or UNCOVERED (0x08) with its DETAIL. -/
def checkFault (t : Thread) (row : Row) (o : Ops) (exec : Bool) : Option (Nat × Nat) :=
  let guards := if Guard.always o.guard then [] else [(false, o.guard.reg)]
  let regs := (if exec then (operandRegs row o).map (fun r => (r.1, r.2.1)) else []) ++ guards
  let entry := fun (r : Bool × BitVec 7) => t.check.find? (fun c => c.crew == r.1 && c.reg == r.2)
  let detail := fun (r : Bool × BitVec 7) (hi : Nat) => r.2.toNat + (if r.1 then 128 else 0) + 256 * hi
  let stall := regs.findSome? (fun r => (entry r).bind (fun c => if 0 < c.due then some (7, detail r (min c.due 7)) else none))
  let uncov := regs.findSome? (fun r => (entry r).bind (fun c =>
    c.pend.bind (fun p => if c.cov then none else some (8, detail r p))))
  stall.or uncov

/-- The scoreboard after the instruction issues: `latency` none is variable (R400). -/
def checkStep (cs : List Check) (row : Row) (o : Ops) (exec : Bool) (sets : Bool) : List Check :=
  let gap := 1 + o.stall.toNat
  let aged := cs.map (fun c =>
    { c with due := c.due - gap,
             cov := c.cov || (match c.pend with | some p => p < 12 && o.wait.getLsbD p | none => false) })
  if !exec || !sets then aged
  else
    ((operandRegs row o).filter (fun r => r.2.2)).foldl (fun l r =>
      let rest := l.filter (fun c => !(c.crew == r.1 && c.reg == r.2.1))
      match row.lat with
      | some n => ⟨r.1, r.2.1, n - gap, none, false⟩ :: rest
      | none => ⟨r.1, r.2.1, 0, some (match o.flag with | some f => f.val | none => 15), false⟩ :: rest) aged

/-- A pending register returns to none when its write completes (R400). -/
def checkDone (cs : List Check) (crew : Bool) (r : BitVec 7) : List Check :=
  cs.map (fun c => if c.crew = crew && c.reg = r then { c with pend := none, cov := false } else c)

/-! ## Completion -/

/-- The writes of an operation to the thread's registers, its flag's fall, and its end (R52, R54). -/
def Thread.complete (t : Thread) (cyc : Nat) (p : Pend) : Thread :=
  let t1 := p.lasting.foldl (fun (u : Thread) (w : BitVec 7 × Word) =>
    { u.writeReg cyc cyc w.1 w.2 p.poisons with check := checkDone u.check false w.1 }) { t with pend := t.pend.filter (fun q => q.id != p.id) }
  let t2 := { t1 with pend := t.pend.filterMap (fun (q : Pend) =>
    if q.id = p.id then none
    else some { q with gone := if q.id < p.id then p.writes.map (fun (w : BitVec 7 × Word) => w.1) ++ q.gone else q.gone }) }
  (t2.dropFlag p.flag).tidyPoison

/-- Completes operation `id` of a thread: registers, crew registers and flag. -/
def State.completePend (s : State) (t : TRef) (id : Nat) : State :=
  match (s.thread? t).bind (fun x => x.pend.find? (fun p => p.id == id)) with
  | none => s
  | some p =>
    (s.modThread t (fun x => { x.complete s.cycle p with
        check := p.kwrites.foldl (fun cs w => checkDone cs true w.1) (x.complete s.cycle p).check })).modCrew t.crew
      (fun c => p.kwrites.foldl (fun u w => u.writeLate s.cycle w.1 w.2 (writeOrder p.pass p.lane)) c)

/-- Drops operation `id` of a thread without its writes: the flag of a faulted access falls when the fault is detected (R376). -/
def State.dropPend (s : State) (t : TRef) (id : Nat) : State :=
  s.modThread t (fun x =>
    match x.pend.find? (fun p => p.id == id) with
    | some p => ({ x with pend := x.pend.filter (fun q => q.id != id) }).dropFlag p.flag
    | none => x)

def Pend.plain (id pass seq lane : Nat) (f : Option (Fin 12)) : Pend :=
  { id := id, pass := pass, seq := seq, lane := lane, flag := f, writes := [], kwrites := [], poisons := false, todo := none, access := false,
    acquire := false, rpc := 0, rcount := 0, peer := none, held := [], lift := none, sreg := none, cctl := none }

end Sys2Proof.Machine
end

