-- ==== Sys2Proof/Machine/Trace.lean ====
section
/-!
DEFINITION. Branch-and-mask trace packets and frames (R351, R352, R454) and split sampling (R349, R350).
-/
namespace Sys2Proof.Machine

/-! ## Packets -/

/-- Bytes a natural number needs. -/
def byteLen (fuel n : Nat) : Nat :=
  match fuel with
  | 0 => 0
  | k + 1 => if n = 0 then 0 else 1 + byteLen k (n / 256)

/-- Bytes a signed 64-bit number needs in two's complement, 0 for zero. DL goes up to 4, and the spec gives no case for a delta that needs more: the model keeps
its low 4 bytes (DESIGN CHOICE, log entry 49). -/
def signedLen (v : DWord) : Nat :=
  if v = 0 then 0
  else if (v.truncate 8).signExtend 64 = v then 1
  else if (v.truncate 16).signExtend 64 = v then 2
  else if (v.truncate 24).signExtend 64 = v then 3
  else 4

/-- The 32-bit mask of group `g` of a set of threads. -/
def groupMask (ts : List Nat) (g : Nat) : Nat := (ts.filter (fun t => t / 32 == g)).foldl (fun m t => m + 2 ^ (t % 32)) 0

/-- Bits of a list, the first lowest, padded to bytes. -/
def packBits (bs : List Bool) : List Byte :=
  leBytes ((bs.length + 7) / 8) ((bs.mapIdx (fun i b => if b then 2 ^ i else 0)).foldl (· + ·) 0)

/-- A PASS, TGT or MARK packet (Table 5 of 16_debug_trace_profiling.md). -/
def passPacket (ty : Nat) (ts : List Nat) (stamp : Nat) (delta : DWord) (branch : List Bool) (tail : List Byte) : List Byte :=
  let masks := (List.range 4).map (groupMask ts)
  let present := masks.mapIdx (fun i m => if m = 0 then 0 else 2 ^ i)
  let full := masks.mapIdx (fun i m => if m = 2 ^ 32 - 1 then 2 ^ i else 0)
  let tl := byteLen 4 stamp
  let dl := signedLen delta
  leBytes 1 (ty * 16 + present.foldl (· + ·) 0)
    ++ leBytes 1 (full.foldl (· + ·) 0 + (if branch.isEmpty then 0 else 16) + tl * 32)
    ++ leBytes 1 dl ++ leBytes tl stamp ++ leBytes dl delta.toNat
    ++ (masks.filter (fun m => m != 0 && m != 2 ^ 32 - 1)).flatMap (fun m => leBytes 4 m)
    ++ packBits branch ++ tail

/-- Bits 3:0 of the phase counters of block barriers 0 to 15. -/
def phaseNibbles (b : Block) : Nat := (b.bars.mapIdx (fun i x => x.phase.toNat % 16 * 16 ^ i)).foldl (· + ·) 0

def syncPacket (s : State) (c : CRef) (b : Block) (pc : DWord) : List Byte :=
  leBytes 1 0x40 ++ leBytes 8 s.time.toNat ++ leBytes 8 s.cycle ++ leBytes 8 pc.toNat ++ leBytes 7 (s.blockIndex c.block) ++ leBytes 1 c.c
    ++ leBytes 8 (phaseNibbles b)

/-! ## Frames -/

/-- Frames and records that a section's 512 KiB trace buffer holds (R352). -/
def traceCapacity : Nat := 8192

def traceFrame (id : Word) (payload : List Byte) : List Byte :=
  leBytes 1 1 ++ leBytes 1 payload.length ++ leBytes 2 0 ++ leBytes 4 (id.toNat / 128 * 128) ++ payload ++ leBytes (56 - payload.length) 0

/-- Appends bytes to a crew's open frame, moving filled frames to the buffer. -/
def fillFrames (id : Word) : List Byte → List Byte → List (List Byte) × List Byte
  | opened, [] => if opened.length = 56 then ([traceFrame id opened], []) else ([], opened)
  | opened, b :: bs =>
    if opened.length = 56 then
      let r := fillFrames id [b] bs
      (traceFrame id opened :: r.1, r.2)
    else fillFrames id (opened ++ [b]) bs

/-- Discards `n` frames or records (R454, R455); the black box keeps it (R456). -/
def State.traceLost (s : State) (h n : Nat) : State :=
  let v := BitVec.ofNat 64 (min (2 ^ 64 - 1) ((s.sect h).trlost.toNat + n))
  (s.modSect h (fun y => { y with trlost := v })).bbox (hubDie h) 0xD 0 0 (BitVec.ofNat 32 n) v 0

/-- Puts frames and records into a section's trace buffer, which drains from then on. -/
def State.traceAdd (s : State) (h : Nat) (fs : List (List Byte)) : State :=
  if fs.isEmpty then s else (s.modSect h (fun y => { y with buffer := y.buffer ++ fs })).soon (.traceDrain h)

/-- One frame or record, discarded where the buffer has no room. -/
def State.tracePut (s : State) (h : Nat) (f : List Byte) : State :=
  if (s.sect h).buffer.length < traceCapacity then s.traceAdd h [f] else s.traceLost h 1

/-- Frames of a section's trace buffer that its crews' unfinished frames take, those of crew `c` apart (R454). -/
def State.openFrames (s : State) (h : Nat) (c : CRef) : Nat :=
  ((s.allBlocks.filter (fun b => coreSection b.2.core == h)).flatMap (fun b =>
    (b.2.allCrews b.1).filter (fun x => x.1 != c && !x.2.trace.open_.isEmpty))).length

/-- Puts a packet into the stream of a crew, with SYNC and LOSS as R351 and R454 state. `stamped` gives the packet from its timestamp and
PC delta. -/
def State.tracePacket (s : State) (c : CRef) (pc : DWord) (timed moves : Bool) (build : Nat → DWord → List Byte) : State :=
  match s.crew? c, s.block? c.block with
  | some x, some b =>
    let h := coreSection b.core
    let id := identity s.chip h (b.core % 96) x.slot 0
    let t := x.trace
    let ts := s.cycle - t.lastCycle
    let sync := !t.started || 256 ≤ t.packets || 72000 ≤ s.now - t.syncTime || 2 ^ 24 ≤ ts || 0 < t.loss
    let lossBytes := if 0 < t.loss then leBytes 1 0x50 ++ leBytes 2 t.loss else []
    let bytes := if sync then lossBytes ++ syncPacket s c b pc ++ build 0 0
      else build ts (BitVec.ofInt 64 ((pc - t.lastPc).toInt / 4))
    let f := fillFrames id t.open_ bytes
    if traceCapacity < (s.sect h).buffer.length + s.openFrames h c + f.1.length + 1 then
      s.modCrew c (fun y => { y with trace := { y.trace with loss := min 0xFFFF (y.trace.loss + 1) } })
    else
      (s.traceAdd h f.1).modCrew c (fun y =>
        { y with trace := { started := true, lastCycle := if timed || sync then s.cycle else t.lastCycle,
                            lastPc := if moves || sync then pc else t.lastPc,
                            packets := if sync then 1 else t.packets + 1, syncTime := if sync then s.now else t.syncTime,
                            loss := 0, open_ := f.2 } })
  | _, _ => s

/-- The SYNC packet of a crew's first issue after placement or restore (R351). -/
def State.traceFirst (s : State) (c : CRef) (pc : DWord) : State :=
  if traceOn (s.modesOf c.g) && ((s.crew? c).map (fun x => !x.trace.started)).getD false then
    (s.tracePacket c pc true true (fun _ _ => [])).modCrew c (fun y => { y with trace := { y.trace with started := true, packets := 0 } })
  else s

/-- Moves a crew's unfinished frame to the buffer, in the room that it has held. -/
def State.traceFlush (s : State) (c : CRef) : State :=
  match s.crew? c, s.block? c.block with
  | some x, some b =>
    if x.trace.open_.isEmpty then s
    else
      let h := coreSection b.core
      let fr := traceFrame (identity s.chip h (b.core % 96) x.slot 0) x.trace.open_
      (s.traceAdd h [fr]).modCrew c (fun y => { y with trace := { y.trace with open_ := [] } })
  | _, _ => s

/-- The PASS packet of a control transfer, and the TGT packets of a register form (R351): threads of the pass in ascending order with
whether each took the transfer, and its target. -/
def State.traceBranch (s : State) (c : CRef) (pc : DWord) (always indirect : Bool) (ls : List (Nat × Bool × DWord)) : State :=
  if !traceOn (s.modesOf c.g) || ls.isEmpty then s
  else
    let ts := ls.map (fun l => l.1)
    let s1 := s.tracePacket c pc true true (fun st d => passPacket 1 ts st d (if always then [] else ls.map (fun l => l.2.1)) [])
    if !indirect then s1
    else
      let taken := ls.filter (fun l => l.2.1)
      let targets := (taken.map (fun l => l.2.2.toNat)).eraseDups.mergeSort (fun a b => a ≤ b)
      targets.foldl (fun u g =>
        u.tracePacket c pc false false (fun _ _ =>
          passPacket 2 ((taken.filter (fun l => l.2.2.toNat == g)).map (fun l => l.1)) 0 0 [] (leBytes 8 g))) s1

/-! ## Sampling -/

/-- The next state of the quarter's Galois LFSR (R349). -/
def lfsrNext (l : Word) : Word :=
  let n := if l.getLsbD 0 then (l >>> 1) ^^^ 0x80200003 else l >>> 1
  if n = 0 then 1 else n

/-- The record of a tagged pass, its latency fields free (Table 4 of 16_debug_trace_profiling.md, log entry 3); TIME lies FETCH and ISSUE before the issue. -/
def splitRecord (s : State) (c : CRef) (b : Block) (q level code lanemask low : Nat) (launch : DWord) (pc : DWord) : List Byte :=
  let f := fun i bits => Config.splitLatency (s.fresh + i) % 2 ^ bits
  let fetched := s.time - BitVec.ofNat 64 ((f 0 16 + f 1 16) * 5 / 9)
  leBytes 1 2 ++ leBytes 1 (level + 16 * q) ++ leBytes 2 code ++ leBytes 4 (s.identOf (c.thread low)).toNat ++ leBytes 8 launch.toNat
    ++ leBytes 8 (s.blockIndex c.block + c.c * 2 ^ 56) ++ leBytes 8 pc.toNat ++ leBytes 8 fetched.toNat
    ++ leBytes 2 (f 0 16) ++ leBytes 2 (f 1 16) ++ leBytes 2 (f 2 16) ++ leBytes 2 (f 3 16) ++ leBytes 4 (f 4 32)
    ++ leBytes 4 lanemask ++ leBytes 8 (phaseNibbles b)

/-- Counts a pass of a sampled launch and tags it when the count reaches zero (R349); `mask` holds its active lanes (R350). -/
def State.samplePass (s : State) (p : Pass) (code mask : Nat) : State :=
  if !sampleOn (s.modesOf p.crew.g) then s
  else match s.block? p.crew.block, s.crew? p.crew, s.launchOf p.crew.g with
    | some b, some x, some l =>
      let q := x.slot / 16
      let qs := ((s.core b.core).quarters[q]?).getD (Quarter.reset b.core q)
      if 0 < qs.sample then
        s.modCore b.core (fun y => { y with quarters := y.quarters.modify q (fun z => { z with sample := z.sample - 1 }) })
      else
        let k := (s.sect (coreSection b.core)).sampk.toNat
        let n := lfsrNext qs.lfsr
        let rec_ := splitRecord s p.crew b q 0 code mask (p.lanes.headD 0) l.seq p.pc
        { s.modCore b.core (fun y => { y with quarters := y.quarters.modify q (fun z =>
            { z with sample := 2 ^ (k - 1) + n.toNat % 2 ^ (k - 1), lfsr := n, tagged := z.tagged ++ [(p.crew, p.num, rec_)] }) }) with fresh := s.fresh + 8 }
    | _, _, _ => s

/-- The record of a tagged pass with its LEVEL raised. -/
def raiseLevel (level : Nat) (r : List Byte) : List Byte :=
  let old := ((r[1]?).getD 0).toNat
  r.set 1 (BitVec.ofNat 8 (old / 16 * 16 + max (old % 16) level))

/-- Changes the records of the tagged passes that `which` picks; a tag stays with the quarter that has set it, wherever its crew is restored. -/
def State.modTags (s : State) (which : CRef × Nat × List Byte → Bool) (f : List Byte → List Byte) : State :=
  { s with cores := s.cores.map (fun (k : Core) => { k with quarters := k.quarters.map (fun z =>
      { z with tagged := z.tagged.map (fun (x : CRef × Nat × List Byte) => if which x then (x.1, x.2.1, f x.2.2) else x) }) }) }

/-- Raises the LEVEL of a tagged pass to the farthest level its accesses reached (R350). -/
def State.noteLevel (s : State) (pass level : Nat) : State := s.modTags (fun x => x.2.1 == pass) (raiseLevel level)

/-- The same for the pass that has issued an engine operation: the one of its crew at its PC. -/
def State.noteEngineLevel (s : State) (c : CRef) (pc : DWord) (level : Nat) : State :=
  s.modTags (fun x => x.1 == c && fieldOf x.2.2 24 8 == pc.toNat) (raiseLevel level)

/-- Takes tagged passes away. -/
def State.dropTags (s : State) (which : CRef × Nat × List Byte → Bool) : State :=
  { s with cores := s.cores.map (fun (k : Core) => { k with quarters := k.quarters.map (fun z => { z with tagged := z.tagged.filter (fun x => !which x) }) }) }

/-- Writes the split records of tagged passes (R349, R454). -/
def State.writeTags (s : State) (which : CRef × Nat × List Byte → Bool) : State :=
  let ended := s.cores.flatMap (fun k => k.quarters.flatMap (fun z => (z.tagged.filter which).map (fun y => (coreSection k.num, y.2.2))))
  if ended.isEmpty then s else (ended.foldl (fun (u : State) y => u.tracePut y.1 y.2) s).dropTags which

/-- Writes the split records of the tagged passes of a crew whose last completion has fallen (R349). -/
def State.sampleDone (s : State) (c : CRef) : State :=
  match s.crew? c with
  | some x => s.writeTags (fun y => y.1 == c && !x.threads.any (fun t => t.pend.any (fun p => p.pass == y.2.1)))
  | none => s

end Sys2Proof.Machine
end

