-- ==== Sys2Proof/Machine/Issue.lean ====
section
/-!
DEFINITION. The issue of a pass: which of its threads execute, trap or pass over the instruction (R31, R382, R393 to R395, R400), what
every issued instruction does to its thread (R29, R33, R42, R52, R327), and where register results go (R50, R67).
-/
namespace Sys2Proof.Machine

/-- A thread of the pass, as its instruction finds it. -/
structure Lane where
  ref : TRef
  /-- Position in the pass (R30). -/
  lane : Nat
  t : Thread
  /-- The guard is true. -/
  exec : Bool
  src : Src
  deriving DecidableEq, Repr

/-- A fault met at issue: its rank (class 1 codes in order, then class 6), cause and address (R392, R393). -/
structure IssueFault where
  rank : Nat
  cause : Word
  addr : DWord
  deriving DecidableEq, Repr

def class1 (code detail : Nat) (addr : DWord) : IssueFault := ⟨code, mkCause 1 code detail false false, addr⟩

def lowestFault : List IssueFault → Option IssueFault
  | [] => none
  | f :: fs => match lowestFault fs with
    | some g => some (if f.rank ≤ g.rank then f else g)
    | none => some f

/-- What the pass needs to know of where it issues. -/
structure Env where
  pass : Pass
  code : Nat
  row : Row
  cyc : Nat
  base : Nat
  crew : Crew
  core : Nat
  modes : BitVec 8
  deriving DecidableEq, Repr

def Env.quarter (e : Env) : Nat := e.crew.slot / 16

def State.env? (s : State) (p : Pass) (code : Nat) (o : Ops) : Option Env :=
  match s.crew? p.crew, rowOf code o with
  | some c, some r =>
    some { pass := p, code := code, row := r, cyc := s.cycle, base := s.fresh, crew := c, core := s.coreOf p.crew.block,
           modes := s.modesOf p.crew.g }
  | _, _ => none

/-- The threads of the pass in lane order. -/
def Env.lanes (e : Env) (o : Ops) : List Lane :=
  (e.pass.lanes.mapIdx (fun i n => (i, n))).filterMap (fun q =>
    (e.crew.threads[q.2]?).map (fun t =>
      { ref := e.pass.crew.thread q.2, lane := q.1, t := t, exec := guardTrue o.guard t e.cyc q.2 e.base,
        src := readSrc e.row o e.crew t e.cyc q.2 e.base }))

/-- REGION and the implicitly ending instructions close the current region (R41). -/
def Env.endsRegion (e : Env) : Bool := e.row.ends || e.code == 0x0C7

/-- The instruction consumes poison in this thread (R382). -/
def Env.consumes (e : Env) (o : Ops) (l : Lane) : Bool :=
  (!Guard.always o.guard && l.t.poison.contains o.guard.reg)
  || ((e.endsRegion || e.code == 0x0C5) && !l.t.poison.isEmpty)
  || (l.exec && 0x0C0 ≤ e.code && l.src.poisoned)
  || (l.exec && e.code < 0x0C0 && o.vd.crew && l.src.poisoned)

/-- Instructions that a thread in handler state does not issue (R396), TRAP apart. -/
def Env.handlerBars (e : Env) : Bool :=
  e.row.collective || e.code == 0x144 || e.code == 0x145 || e.code == 0x146 || e.code == 0x1CC || e.code == 0x1CA

/-- The faults of R393 that one thread meets; `extra` gives those of the instruction's entry in a thread whose guard is true. -/
def Env.faults (e : Env) (o : Ops) (l : Lane) (extra : Lane → List IssueFault) : List IssueFault :=
  (match regRange e.row o l.t.regs.length with
   | some d => [class1 2 d 0]
   | none => [])
  ++ (if stallChk e.modes then
        match checkFault l.t e.row o l.exec with
        | some f => [class1 f.1 f.2 0]
        | none => []
      else [])
  ++ (if l.exec then (if l.t.handler && e.handlerBars then [class1 3 e.code 0] else []) ++ extra l else [])

/-- The standing fault a thread of the pass gets, none when it goes on. -/
def Env.standing (e : Env) (o : Ops) (l : Lane) (extra : Lane → List IssueFault) : Option PFault :=
  if e.consumes o l then
    let r := l.t.poisonRec.getD ⟨0, 0, 0⟩
    some { how := .poison, order := 0, cause := r.cause ||| 0xC000, addr := r.addr, pc := r.pc, rpc := l.t.regionPc, rcount := l.t.regionCount,
           queue := none }
  else
    (lowestFault (e.faults o l extra)).map (fun f =>
      { how := .issue, order := f.rank, cause := f.cause, addr := f.addr, pc := e.pass.pc, rpc := l.t.regionPc, rcount := l.t.regionCount,
        queue := none })

/-- The checkpoint of the region that an instruction at `pc` belongs to (R41, R42): an implicitly ending one forms a region of its own, which is
the present one where that begins there and no instruction has issued in it (log entry 65). Handler state keeps the checkpoint (R380). -/
def Thread.regionAt (t : Thread) (pc : DWord) (ends : Bool) : DWord × Word :=
  if t.handler || !ends || (t.regionNew && t.regionPc == pc) then (t.regionPc, t.regionCount) else (pc, t.regionCount + 1)

/-- An issue at `pc` (R41, R42): REGION and an implicitly ending instruction enter the next region, at `next`; not in handler state (R380). -/
def Thread.enterRegion (t : Thread) (pc next : DWord) (ends region : Bool) : Thread :=
  if t.handler then t
  else if ends || region then { t with regionPc := next, regionCount := (t.regionAt pc ends).2 + 1, regionNew := true }
  else { t with regionNew := false }

/-- The cycle in which a lane issues: a collective pass takes 32 threads in each of its four cycles (R32). -/
def Env.issueCycle (e : Env) (lane : Nat) : Nat := e.cyc + (if e.pass.collective then lane / 32 else 0)

/-- What issuing does to a thread of the pass, apart from the instruction's effect (R29, R31 to R33, R42, R52, R67, R327, R334). -/
def Thread.advance (t : Thread) (e : Env) (o : Ops) (lane : Nat) (exec : Bool) (sets : Bool) : Thread :=
  let pc := e.pass.pc
  let next := pc + BitVec.ofNat 64 (lenBytes o.len)
  let t1 := t.enterRegion pc next e.row.ends (e.code == 0x0C7)
  let t2 := if exec then t1.raiseFlag o.flag else t1
  { t2 with pc := next,
            readyAt := e.issueCycle lane + 1 + o.stall.toNat,
            issuedAt := e.issueCycle lane,
            issued := t.issued + 1,
            meet := if t.meet = some pc then none else t.meet,
            meetAt := if t.meet = some pc then none else t.meetAt,
            passBkpt := none, passWatch := [],
            check := if stallChk e.modes then checkStep t.check e.row o exec sets else t.check,
            grant := t.grant.map (fun g => { g with left := g.left - 1 }) }

/-- Applies `f` to the threads of the listed lanes. -/
def State.onLanes (s : State) (ls : List Lane) (f : Lane → Thread → Thread) : State :=
  ls.foldl (fun u l => u.modThread l.ref (f l)) s

/-- Gives each listed lane whose flag rose an operation that ends `lat` cycles after issue, when the flag falls (R52, R117): a thread that waits on it is
first ready in the cycle after that (R54). -/
def State.flagPends (s : State) (e : Env) (o : Ops) (ls : List Lane) (lat : Nat) : State :=
  if o.flag.isNone then s
  else ls.foldl (fun u l =>
    let n := u.serial
    ({ u with serial := n + 1 }.modThread l.ref (fun t =>
      { t with pend := t.pend ++ [Pend.plain n e.pass.num l.t.issued l.lane o.flag] })).inCycle (e.cyc + lat) (.resultWritten l.ref n)) s

/-- In replay a thread that has issued its chunk's COUNT is held (R334): it goes to an instruction only to find whether it traps there. -/
def Thread.mayIssue (t : Thread) : Bool := (t.grant.map (fun (g : Grant) => decide (0 < g.left))).getD true

/-- The threads of the pass that issue the instruction, whatever their guards. -/
def Env.issuing (e : Env) (o : Ops) (extra : Lane → List IssueFault) : List Lane :=
  (e.lanes o).filter (fun l => (e.standing o l extra).isNone && l.t.mayIssue)

/-- The lanes of a pass whose guard is true, as a mask (R350). -/
def activeMask (ls : List Lane) : Nat := ((ls.filter (fun l => l.exec)).map (fun l => l.lane % 32)).eraseDups.foldl (fun m n => m + 2 ^ n) 0

/-- The common part of an issue: faults stand and are delivered, every other thread advances. Answers the State and the lanes whose
guard is true. -/
def State.issue (s : State) (e : Env) (o : Ops) (extra : Lane → List IssueFault) (sets : Bool) : State × List Lane :=
  let ls := e.lanes o
  let bad := ls.filterMap (fun l => (e.standing o l extra).map (fun f => (l, f)))
  let good := ls.filter (fun l => (e.standing o l extra).isNone && l.t.mayIssue)
  let s1 := ({ s with focus := .none, fresh := s.fresh + 2 ^ 18 }).onLanes good (fun l t => t.advance e o l.lane l.exec sets)
  let s2 := (s1.samplePass e.pass e.code (activeMask good)).traceFirst e.pass.crew e.pass.pc
  (bad.foldl (fun u b => u.addFault b.1.ref b.2) s2,
   good.filter (fun l => l.exec))

/-- Runs a pass: the common part, then the instruction's own effect on the lanes that execute it. -/
def runPass (code : Nat) (o : Ops) (extra : Env → Lane → List IssueFault) (body : Env → List Lane → State → State) (s : State) :
    Host.Outcome State Fault Refusal :=
  match s.focus with
  | .pass p =>
    match s.env? p code o with
    | some e =>
      let r := s.issue e o (extra e) (code != 0x0CB)
      .next ((body e r.2 r.1).sampleDone p.crew)
    | none => .next { s with focus := .none }
  | _ => .next s

def noFaults (_ : Env) (_ : Lane) : List IssueFault := []

/-! ## Results -/

/-- Words of a group of registers. -/
def resultWords (r : Reg) (w v : Nat) : List (BitVec 7 × Word) := (List.range w).map (fun i => (r.num + BitVec.ofNat 7 i, wordAtIdx v i))

/-- Width of a register operand. -/
def Operand.width : Operand → Nat
  | .reg _ _ w _ => w
  | _ => 0

/-- Writes one lane's result, readable for sure from cycle `due` on. -/
def State.writeResult (s : State) (e : Env) (l : Lane) (r : Reg) (w v due : Nat) (poisoned : Bool) : State :=
  if r.crew then s.modCrew l.ref.crew (fun c => (resultWords r w v).foldl (fun u x => u.writeReg e.cyc due x.1 x.2 (writeOrder e.pass.num l.lane)) c)
  else s.modThread l.ref (fun t => ((resultWords r w v).foldl (fun u x => u.writeReg e.cyc due x.1 x.2 poisoned) t).tidyPoison)

/-- One result: register, width, value. -/
structure Result where
  reg : Reg
  width : Nat
  val : Nat
  deriving DecidableEq, Repr

/-- Whether a result is poisoned (R382): by a source, or, where only some bits are written, as its destination was. -/
def resultPoison (e : Env) (l : Lane) (r : Reg) : Bool :=
  l.src.poisoned || (e.row.vd == dBit && l.t.poison.contains r.num)

/-- An operation under way that writes `rs` when it completes. -/
def latePend (n : Nat) (e : Env) (o : Ops) (l : Lane) (rs : List Result) (poisoned : Bool) : Pend :=
  { Pend.plain n e.pass.num l.t.issued l.lane o.flag with
    writes := rs.flatMap (fun r => if r.reg.crew then [] else resultWords r.reg r.width r.val)
    kwrites := rs.flatMap (fun r => if r.reg.crew then resultWords r.reg r.width r.val else [])
    poisons := poisoned }

/-- Adds a variable-latency operation and schedules its completion. -/
def State.addLate (s : State) (e : Env) (o : Ops) (l : Lane) (rs : List Result) (poisoned : Bool) : State :=
  let n := s.serial
  (({ s with serial := n + 1 }.modThread l.ref (fun t => { t with pend := t.pend ++ [latePend n e o l rs poisoned] })).soon (.resultWritten l.ref n))

/-- Writes the results of a pass, lanes ascending: at issue for a fixed latency (R67), by RESULT_WRITTEN for a variable one (R138). -/
def State.results (s : State) (e : Env) (o : Ops) (ls : List Lane) (f : Lane → List Result) : State :=
  match e.row.lat with
  | some n =>
    (ls.foldl (fun u l => (f l).foldl (fun v r => v.writeResult e l r.reg r.width r.val (e.cyc + n) (resultPoison e l r.reg)) u) s).flagPends e o ls n
  | none =>
    ls.foldl (fun u l => u.addLate e o l (f l) ((f l).any (fun r => resultPoison e l r.reg))) s

/-- An instruction that computes one destination per thread from the thread's own sources (R113). -/
def aluOp (code : Nat) (o : Ops) (f : Row → Src → Nat) (s : State) : Host.Outcome State Fault Refusal :=
  runPass code o noFaults (fun e ls s1 =>
    s1.results e o ls (fun l => [⟨o.vd, e.row.vd.width, f e.row l.src⟩])) s

end Sys2Proof.Machine
end

