-- ==== Sys2Proof/Machine/Place.lean ====
section
/-!
DEFINITION. Blocks, crews and threads as a launch makes them (R46 to R60, R185, R247, R248, R423), and where a section group fits
(R281 to R284).
-/
namespace Sys2Proof.Machine

/-! ## New work -/

/-- A thread before its first instruction: clocks at the floor of its section (R57), then above LB (R423). Its first region, which begins at launch, is not new:
an implicitly ending instruction that stands first in the kernel closes it and forms the next, so that $regioncount is 1 there (R41, R42; log entry 65). -/
def Thread.launched (p : LaunchP) (floor lb : Word) : Thread :=
  { pc := p.entry, regs := List.replicate p.regs 0, flags := List.replicate 12 0, meet := none, meetAt := none, exited := false,
    regionPc := p.entry, regionCount := 0, regionNew := false, o := floor, s := smax floor (lb + 1), pa := 0, fs := none, syncscope := 0,
    trapvec := p.trapvec, trapcause := 0, trapaddr := 0, trappc := 0, handler := false, poison := [], poisonRec := none, faults := [], later := [],
    readyAt := 0, issuedAt := 0, skip := 0, yielded := none, wait := .none, arrivals := [], pend := [], issued := 0, chunkStart := 0, check := [],
    late := [], hints := [], passBkpt := none, passWatch := [], grant := none, haltFault := none }

def TraceStream.reset : TraceStream :=
  { started := false, lastCycle := 0, lastPc := 0, packets := 0, syncTime := 0, loss := 0, open_ := [] }

/-- Crew registers from the argument words (R49, R301). -/
def argRegs (args : List DWord) : List Word :=
  (List.range 64).map (fun k => ((args[k / 2]?).map (fun w => if k % 2 = 0 then w.extractLsb' 0 32 else w.extractLsb' 32 32)).getD 0)

def Crew.launched (p : LaunchP) (slot : Nat) (floor lb : Word) : Crew :=
  { slot := slot, kregs := argRegs p.args, klate := [], threads := List.replicate 128 (Thread.launched p floor lb), gangSeq := 0, wait := 0,
    digest := 0, xcopies := 0, engineOps := 0, released := false, trace := TraceStream.reset }

def Barrier.reset : Barrier := { phase := 0, fixed := none, arr := [], done := [], came := [] }

def Ring.reset (floor : Word) : Ring :=
  { stroke := 0, rot := 0, stamp := settledStamp floor, rels := [] }

/-- Where a block stands: core, first granule, crew slots. -/
structure Spot where
  core : Nat
  base : Nat
  slots : List Nat
  deriving DecidableEq, Repr

def Block.launched (p : LaunchP) (at_ : Spot) (placeNo : Nat) (floor lb : Word) : Block :=
  { core := at_.core, base := at_.base, placeNo := placeNo, crews := at_.slots.map (fun n => Crew.launched p n floor lb),
    scratch := Memory.empty, stamps := [], settle := floor, bars := List.replicate 16 Barrier.reset,
    rings := List.replicate 8 (Ring.reset floor), cmds := [], broken := [], xreds := 0, ended := false, kills := 0, gridArrived := false,
    stop := .run }

/-! ## Room on a core (R283) -/

/-- The number that names a head in its reservation (R289). -/
def WEntry.key : WEntry → Nat
  | .launch i => 2 * i
  | .saved g => 2 * g + 1

/-- Registers of a thread and granules of a block of a group. -/
def State.regsOf (s : State) (g : Group) : Nat := ((s.launch? g.launch).map (fun l => l.p.regs)).getD 0
def State.granOf (s : State) (g : Group) : Nat := ((s.launch? g.launch).map (fun l => l.p.gran)).getD 0

/-- What the groups listed hold, block by block (R289). -/
def State.holdings (s : State) (gids : List Nat) : List HeldCore :=
  (s.groups.filter (fun g => gids.contains g.gid)).flatMap (fun g =>
    (g.blocks.mapIdx (fun k (b : Block) => (k, b))).filterMap (fun kb =>
      if kb.2.ended then none
      else
        let c := s.core kb.2.core
        let mine := fun (o : CRef) => o.g == g.gid && o.k == kb.1
        some { core := kb.2.core, base := kb.2.base, gran := s.granOf g,
               slots := (kb.2.crews.filter (fun c => !c.released)).map (fun c => (c.slot, s.regsOf g)),
               oslots := (c.slots.filter (fun y => mine y.owner)).map (fun y => y.num),
               accs := (c.accs.filter (fun y => mine y.owner)).map (fun y => y.num) }))

/-- The blocks that stand on core `n`. -/
def State.occupants (s : State) (n : Nat) : List (Group × Block) :=
  s.groups.flatMap (fun g => (g.blocks.filter (fun b => b.core == n && g.placed && !b.ended)).map (fun b => (g, b)))

/-- What is reserved on core `n` for a head other than `own` (R289). -/
def State.barredOn (s : State) (n own : Nat) : List HeldCore :=
  (s.reserved.filter (fun r => r.head.key != own)).flatMap (fun r => r.held.filter (fun y => y.core == n))

/-- The crew slots in use or barred on core `n`, with the registers of a thread of the crew. -/
def State.usedSlots (s : State) (n : Nat) (own : Nat) : List (Nat × Nat) :=
  ((s.occupants n).flatMap (fun gb => (gb.2.crews.filter (fun c => !c.released)).map (fun c => (c.slot, s.regsOf gb.1)))
    ++ (s.barredOn n own).flatMap (fun y => y.slots)).eraseDups

/-- The granules in use or barred on core `n`: runs of first granule and number. -/
def State.usedRuns (s : State) (n : Nat) (own : Nat) : List (Nat × Nat) :=
  (s.occupants n).map (fun gb => (gb.2.base, s.granOf gb.1)) ++ (s.barredOn n own).map (fun y => (y.base, y.gran))

/-- Section-barrier sets of section `h` that are reserved for a head other than `own`, and that their victim holds no more. -/
def State.barredSets (s : State) (h own : Nat) : Nat :=
  ((s.reserved.filter (fun r => r.sect == h && r.head.key != own)).map (fun r =>
    (r.victims.filter (fun v => !s.groups.any (fun g => g.gid == v && g.placed && g.victimOf == some r.head.key))).length)).sum

/-- Free register bytes of quarter `q`: 512 KiB less 512 bytes for each register of a crew (R20). -/
def quarterFree (used : List (Nat × Nat)) (q : Nat) : Nat :=
  524288 - 512 * ((used.filter (fun u => u.1 / 16 == q)).map (fun u => u.2)).sum

def freeSlot (used : List (Nat × Nat)) (q : Nat) : Option Nat :=
  ((List.range 16).map (fun i => 16 * q + i)).find? (fun n => !used.any (fun u => u.1 == n))

/-- The slot that a crew of `r` registers takes: the quarter with the most free bytes among those with room, ties to the lower. -/
def slotFor (used : List (Nat × Nat)) (r : Nat) : Option Nat :=
  let ok := (List.range 4).filter (fun q => (freeSlot used q).isSome && 512 * r ≤ quarterFree used q)
  match ok with
  | [] => none
  | q :: qs => freeSlot used (qs.foldl (fun best x => if quarterFree used best < quarterFree used x then x else best) q)

def assignSlots (used : List (Nat × Nat)) (r : Nat) : Nat → Option (List Nat)
  | 0 => some []
  | n + 1 => match slotFor used r with
    | none => none
    | some k => (assignSlots ((k, r) :: used) r n).map (fun ks => k :: ks)

/-- The lowest run of `n` free granules. -/
def freeRun (used : List (Nat × Nat)) (n : Nat) : Option Nat :=
  (List.range (257 - n)).find? (fun b => used.all (fun u => u.1 + u.2 ≤ b || b + n ≤ u.1))

/-- Slots and accumulators that a saved block still owns are free on the core and named by no waiting claim (R283, R294). -/
def Core.canHold (c : Core) (barred : List HeldCore) (accs slots : List Nat) : Bool :=
  slots.all (fun n => !c.slots.any (fun x => x.num == n) && !barred.any (fun y => y.oslots.contains n))
  && accs.all (fun n => !c.accs.any (fun x => x.num == n) && !barred.any (fun y => y.accs.contains n))
  && !c.ops.any (fun x => match x.kind with
    | .claim acc n k => (if acc then accs else slots).any (fun i => n ≤ i && i < n + k)
    | _ => false)

/-- The place core `n` has for a block of a group of launch `l` with `crews` crews; `g` is the group when it is being restored, and `k` the
block's index in it. -/
def State.spot (s : State) (l : Launch) (g : Option Group) (own n k : Nat) : Option Spot :=
  let crews := ((g.bind (fun x => x.blocks[k]?)).map (fun b => b.crews.length)).getD l.p.crews
  let slotsOwned := ((g.map (fun x => (x.savedSlots.filter (fun y => y.owner.k == k)).map (fun y => y.num)))).getD []
  let accsOwned := ((g.map (fun x => (x.savedAccs.filter (fun y => y.owner.k == k)).map (fun y => y.num)))).getD []
  if !(s.core n).canHold (s.barredOn n own) accsOwned slotsOwned then none
  else match assignSlots (s.usedSlots n own) l.p.regs crews, freeRun (s.usedRuns n own) l.p.gran with
    | some ks, some b => some ⟨n, b, ks⟩
    | _, _ => none

/-- Places the blocks listed, each on the lowest core eligible for it that no earlier one has taken (R282; where the blocks of a restored group have
different eligible cores, log entry 67). -/
def State.fitBlocks (s : State) (l : Launch) (g : Option Group) (own : Nat) : List Nat → List Nat → Option (List (Nat × Spot))
  | [], _ => some []
  | k :: ks, cores =>
    match cores.findSome? (s.spot l g own · k) with
    | none => none
    | some at_ => (State.fitBlocks s l g own ks (cores.filter (· != at_.core))).map (fun r => (k, at_) :: r)

/-- The blocks of a group that need a core: all of a new one, and those of a saved one that have not ended. -/
def blocksToPlace (l : Launch) (g : Option Group) : List Nat :=
  match g with
  | some x => (List.range x.blocks.length).filter (fun k => ((x.blocks[k]?).map (fun b => !b.ended)).getD false)
  | none => List.range l.p.groupSize

/-- Whether section `h` can hold a group, and where each block stands (R282, R284). A gated section holds nothing (R455). -/
def State.fitIn (s : State) (l : Launch) (g : Option Group) (own h : Nat) : Option (List (Nat × Spot)) :=
  if (s.sect h).gated || 512 ≤ (s.groups.filter (fun x => x.sect == h && x.placed)).length + s.barredSets h own then none
  else s.fitBlocks l g own (blocksToPlace l g) ((List.range 96).map (fun i => 96 * h + i))

/-! ## Taking the place -/

/-- Occupant tags of the crews of a block (R172). -/
def State.tagBlock (s : State) (l : Launch) (walk index : Nat) (at_ : Spot) : State :=
  let new := at_.slots.mapIdx (fun i n => ({ core := at_.core, slot := n, launch := l.seq, walk := walk, block := index, crew := i } : Tag))
  { s with tags := new ++ s.tags.filter (fun t => !(t.core == at_.core && at_.slots.contains t.slot)) }

/-- Places a new group of launch `l` in section `h` (R281 to R284, R57, R423). -/
def State.placeNew (s : State) (l : Launch) (h : Nat) (spots : List Spot) : State :=
  let gid := 1 + s.groups.foldl (fun m g => max m g.gid) s.serial
  let floor := s.floorOf h
  let u := l.p.walkCoords l.next
  let blocks := spots.map (fun p => Block.launched l.p p (s.core p.core).places floor l.lb)
  let g : Group := { gid := gid, launch := l.idx, walk := l.next, st := .resident, sect := h, since := s.time, deadline := none,
                     victimOf := none, stopPkt := none, storing := false, blocks := blocks, bars := List.replicate 8 Barrier.reset, savedHwx := 0, saveFrom := 0,
                     saveTook := 0, restoreTook := 0, slice := l.p.slice, savedOps := [], savedSlots := [], savedAccs := [], swapped := false }
  let s1 := { s with groups := s.groups ++ [g], serial := gid }
  let s2 := spots.foldl (fun (v : State) p => v.modCore p.core (fun c => { c with places := c.places + 1 })) s1
  ((List.range spots.length).zip spots).foldl (fun (v : State) kp =>
    v.tagBlock l l.next (l.p.index (l.p.coords u.1 u.2.1 u.2.2 kp.1)) kp.2) s2

end Sys2Proof.Machine
end

