-- ==== Sys2Proof/Machine/Turn.lean ====
section
/-!
DEFINITION. Fetching the word of a pass and of a cox context, words that are not instructions (R394), and which happening comes next
(log entry 1).
-/
namespace Sys2Proof.Machine

/-! ## Fetch (R29, R64, R394) -/

/-- The bytes from `pc` to the end of its 32-byte fetch block, where the core's instruction cache holds the block. -/
def State.fetchBytes (s : State) (core : Nat) (asid : BitVec 16) (pc : DWord) : Option (List Byte) :=
  let off := (pc.toNat % 32)
  ((s.core core).icache.find? (fun l => l.asid == asid && l.va == pc - BitVec.ofNat 64 off)).map (fun l => l.bytes.drop off)

/-- What stands at the PC of a pass: a NOTINSTR subcode with the bytes, or an instruction. -/
def State.passWord (s : State) (p : Pass) : Option (List Byte × (Nat ⊕ Instr)) :=
  match s.crew? p.crew with
  | none => none
  | some _ => (s.fetchBytes (s.coreOf p.crew.block) (s.asidOf p.crew.g) p.pc).map (fun b => (b, decodeThread b))

/-- NOTINSTR in every thread of the pass, whatever its guard (R394). -/
def State.notInstr (s : State) (p : Pass) (bytes : List Byte) (sub : Nat) : State :=
  let cause := mkCause 1 1 sub false false
  p.lanes.foldl (fun (u : State) n =>
    let t := p.crew.thread n
    u.addFault t
      { how := .issue, order := 1, cause := cause, addr := BitVec.ofNat 64 (leNat (bytes.take 8)), pc := p.pc,
        rpc := ((u.thread? t).map Thread.regionPc).getD 0, rcount := ((u.thread? t).map Thread.regionCount).getD 0, queue := none })
    { s with focus := .none }

/-- The instruction at the pc of a cox context (R304, R307). -/
def State.coxWordAt (s : State) (x : CoxId) : Option Instr := ((s.cox x).code[(s.cox x).pc]?).bind decodeCox

/-! ## What comes next -/

/-- The cores on which a placed block stands, ascending. -/
def State.busyCores (s : State) : List Nat :=
  sortBy id (s.groups.flatMap (fun g => if g.placed then (g.blocks.filter (fun b => !b.ended)).map (fun b => b.core) else [])).eraseDups

/-- The cox contexts of a hub that are ready to execute now, with `x` (R302). -/
def State.coxReady (s : State) (x : CoxId) : List Nat :=
  let due := s.agenda.takeWhile (fun (t : Turn) => t.dt == 0)
  (List.range 16).filter (fun c => c == x.ctx || due.any (fun (t : Turn) => t.act == .cox ⟨x.hub, c⟩))

/-- A ready context has its turn (R302): a hub's cox executes up to four instructions in a hub cycle and gives them to ready contexts in ascending number,
round robin from the last context served. -/
def State.coxTurn (s : State) (x : CoxId) : State :=
  let h := s.hub x.hub
  let n := if h.coxCycle = s.hubCycle then h.coxCount else 0
  if 4 ≤ n then s.schedule (9 - s.now % 9) (.cox x)
  else if ((List.range 16).map (fun i => (h.coxLast + 1 + i) % 16)).find? (fun c => (s.coxReady x).contains c) != some x.ctx then s.schedule 0 (.cox x)
  else { s.modHub x.hub (fun u => { u with coxLast := x.ctx, coxCycle := s.hubCycle, coxCount := n + 1 }) with focus := .cox x }

/-- What the step after this one does: an event, or a State that it only advances to. In each arithmetic cycle every quarter of a core with blocks has one turn, in
ascending order; a core that takes its first block in the cycle behind the turn of a higher one begins in the next. -/
def State.nextTurn (s : State) : Option (Instr ⊕ Tick) × State :=
  match s.agenda with
  | ⟨0, .event i⟩ :: rest => (some (.inl i), { s with agenda := rest })
  | ⟨0, .cox x⟩ :: rest => (none, { s with agenda := rest }.coxTurn x)
  | ⟨0, .tick k⟩ :: rest => (some (.inr k), { s with agenda := rest })
  | agenda =>
    let cores := s.busyCores
    if s.rotor = 0 && !cores.isEmpty then (some (.inr .cycle), { s with rotor := 1 })
    else match cores.find? (fun n => s.rotor ≤ 4 * n + 4) with
    | some n =>
      let q := s.rotor - 1 - 4 * n
      (some (.inl (.quarterIssue n q (Config.deferred s.fresh))), { s with rotor := 4 * n + q + 2, fresh := s.fresh + 1 })
    | none =>
      let edge := 10 - s.now % 10
      match agenda with
      | [] => (none, { s with now := s.now + edge, rotor := 0 })
      | t :: rest =>
        if t.dt < edge then (none, { s with now := s.now + t.dt, agenda := ⟨0, t.act⟩ :: rest })
        else (none, { s with now := s.now + edge, rotor := 0, agenda := ⟨t.dt - edge, t.act⟩ :: rest })

end Sys2Proof.Machine
end

