-- ==== Sys2Proof/Machine/Address.lean ====
section
/-!
DEFINITION. From an effective address to the bytes it names: apertures (R245), bounds and alignment (R410 to R412), translation (R261 to
R264, R413), and instruction fetch.
-/
namespace Sys2Proof.Machine

/-! ## Apertures (R245) -/

/-- The apertures of R245. -/
inductive Ap where
  | global | peerGlobal | stack | own | peerPad | ring
  deriving DecidableEq, Repr

/-- Where an address points once its aperture is known. -/
inductive Spot2 where
  | va (chip : Option (BitVec 8)) (va : Nat)
  | pad (k : Nat) (off : Nat)
  deriving DecidableEq, Repr

/-- A class 2 fault: CODE and DETAIL without the access kind. -/
structure AFault where
  code : Nat
  detail : Nat
  deriving DecidableEq, Repr

def apertureFault (sub : Nat) : AFault := ⟨1, 16 * sub⟩

/-- The party whose address is resolved: its block and logical slot (R245). -/
structure Asker where
  b : BRef
  tid : Nat
  core : Nat
  asid : BitVec 16
  deriving DecidableEq, Repr

def State.asker (s : State) (t : TRef) : Asker :=
  { b := t.block, tid := 128 * t.c + t.t, core := s.coreOf t.block, asid := s.asidOf t.g }

def field (v : DWord) (hi lo : Nat) : Nat := (v.extractLsb' lo (hi + 1 - lo)).toNat

/-- The stage of a ring-view address (R245, R248). -/
def ringStage (r : RingDecl) (stroke : Nat) (ea : DWord) : Nat :=
  (if ea.getLsbD 23 then field ea 22 19 else stroke + field ea 22 19) % r.stages

def resolveRing (p : LaunchP) (b : Block) (k : Nat) (ea : DWord) : AFault ⊕ (Ap × Spot2) :=
  let g := field ea 26 24
  match (p.rings[g]?).getD none with
  | none => .inl (apertureFault 5)
  | some r =>
    if r.stage ≤ field ea 18 0 then .inl (apertureFault 6)
    else if !ea.getLsbD 23 && r.stages ≤ field ea 22 19 then .inl (apertureFault 7)
    else
      let stroke := ((b.rings[g]?).map (fun x => x.stroke.toNat)).getD 0
      .inr (.ring, .pad k (r.base + ringStage r stroke ea * r.stage + field ea 18 0))

/-- R245, with the subcodes of R410. -/
def State.resolve (s : State) (a : Asker) (ea : DWord) : AFault ⊕ (Ap × Spot2) :=
  match s.launchOf a.b.g, s.block? a.b with
  | some l, some b =>
    let hi := field ea 63 48
    if field ea 63 56 = 0 then .inr (.global, .va none (field ea 55 0))
    else if field ea 63 56 = 0xE0 then .inr (.peerGlobal, .va (some (ea.extractLsb' 48 8)) (field ea 47 0))
    else if hi = 0xFD00 then
      if field ea 47 24 ≠ 0 then .inl (apertureFault 2)
      else if l.p.stride ≤ field ea 23 0 then .inl (apertureFault 3)
      else
        let slot := s.blockIndex a.b * 128 * l.p.crews + a.tid
        .inr (.stack, .va none ((l.p.stackbase.toNat + slot * l.p.stride + field ea 23 0) % 2 ^ 56))
    else if hi = 0xFF00 then
      if field ea 47 20 ≠ 0 then .inl (apertureFault 2) else .inr (.own, .pad a.b.k (field ea 19 0))
    else if hi = 0xFF10 then
      if field ea 47 27 ≠ 0 then .inl (apertureFault 2)
      else if l.p.groupSize ≤ field ea 26 20 then .inl (apertureFault 4)
      else .inr (.peerPad, .pad (field ea 26 20) (field ea 19 0))
    else if hi = 0xFF20 then
      if field ea 47 27 ≠ 0 then .inl (apertureFault 2) else resolveRing l.p b a.b.k ea
    else .inl (apertureFault 1)
  | _, _ => .inl (apertureFault 1)

/-! ## Translation (R261 to R263) -/

def pageBits (z : Nat) : Nat := if z = 0 then 16 else if z = 1 then 21 else 30

/-- The cuckoo hash of way `w` to `n` bits. -/
def wayHash (key : DWord) (w n : Nat) : Nat :=
  let c : DWord := if w = 0 then 0 else if w = 1 then 0x5555555555555555 else 0xAAAAAAAAAAAAAAAA
  ((key ^^^ c) * 0x9E3779B97F4A7C15).toNat / 2 ^ (64 - n)

/-- The unit of the error, where the line of a physical address is memory-poisoned (R414). -/
def State.badLine (s : State) (pa : Nat) : Option Nat :=
  (lineOf pa).bind (fun x => (s.l3.find? (fun h => h.line == x.1 && h.bad.isSome)).map (fun h => h.badUnit))

/-- The entry of a 16-byte value, its valid bit, SIZE, ASID and VPN (Table 5). -/
def pteOf (v : Nat) : Pte :=
  { size := v / 2 ^ 4 % 4, ppn := BitVec.ofNat 32 (v / 2 ^ 64), homev := (v / 2 ^ 11) % 2 = 1, home := v / 2 ^ 8 % 8, cache := v / 2 ^ 6 % 4,
    x := v / 2 ^ 3 % 2 = 1, w := v / 2 ^ 2 % 2 = 1, r := v / 2 % 2 = 1 }

/-- An entry is a hit for page size `z` of a VA (R263). -/
def pteHits (v z : Nat) (asid : BitVec 16) (va : Nat) : Bool :=
  let e := pteOf v
  v % 2 = 1 && e.size == z && v / 2 ^ 96 % 2 ^ 16 == asid.toNat && v / 2 ^ 16 % 2 ^ 40 == va / 2 ^ pageBits z * 2 ^ (pageBits z - 16)
  && e.cache < 2 && !(e.homev && 6 ≤ e.home)

/-- The buckets that one page size probes, none when its root yields no hit. -/
def State.probes (s : State) (root z : Nat) (asid : BitVec 16) (va : Nat) : List Nat :=
  let oldN := s.physNat (root + 16) 1
  let newN := s.physNat (root + 17) 1
  let gen := s.physNat (root + 18) 1
  if 2 ≤ gen || oldN < 4 || 24 < oldN || (gen = 1 && (newN < 4 || 24 < newN)) then []
  else
    let key : DWord := BitVec.ofNat 64 (va / 2 ^ pageBits z + asid.toNat * 2 ^ 40)
    (List.range 3).map (fun w =>
      let b := wayHash key w oldN
      if gen = 1 && b < s.physNat (root + 24 + 4 * w) 4 then s.physNat (root + 8) 8 + w * 2 ^ (newN + 7) + 128 * wayHash key w newN
      else s.physNat root 8 + w * 2 ^ (oldN + 7) + 128 * b)

/-- The hits in a bucket. -/
def State.bucketHits (s : State) (pa z : Nat) (asid : BitVec 16) (va : Nat) : List Pte :=
  ((List.range 8).map (fun i => s.physNat (pa + 16 * i) 16)).filterMap (fun v => if pteHits v z asid va then some (pteOf v) else none)

/-- The table walk from a context record: a fault of the walk, or every hit. -/
def State.walk (s : State) (record : Nat) (asid : BitVec 16) (va : Nat) : AFault ⊕ List Pte :=
  let roots := (List.range 3).map (fun z => (z, record + 64 + 64 * z))
  if roots.any (fun r => (lineOf r.2).isNone) then .inl ⟨7, 0x100⟩
  else
    let probes := roots.flatMap (fun r => (s.probes r.2 r.1 asid va).map (fun b => (r.1, b)))
    if probes.any (fun p => (lineOf p.2).isNone) then .inl ⟨7, 0x100⟩
    else match (roots ++ probes).findSome? (fun p => s.badLine p.2) with
    | some u => .inl ⟨8, 0x100 + 16 * u⟩
    | none => .inr (probes.flatMap (fun p => s.bucketHits p.2 p.1 asid va))

/-- The physical address that an entry gives. -/
def Pte.pa (e : Pte) (va : Nat) : Nat := e.ppn.toNat * 65536 + va % 2 ^ pageBits e.size

/-- A page with HOMEV set lies in the hub-local window of its HOME (R252, R413). -/
def Pte.homeGood (e : Pte) : Bool :=
  !e.homev || (match lineOf (e.ppn.toNat * 65536) with
    | some (l, _) => 0x800000000000 ≤ e.ppn.toNat * 65536 && l.hub == e.home
    | none => false)

/-- Permissions missing, as DETAIL bits 6:4; `need` holds 1 for R, 2 for W, 4 for X. -/
def Pte.missing (e : Pte) (need : Nat) : Nat :=
  (if need % 2 = 1 && !e.r then 16 else 0) + (if need / 2 % 2 = 1 && !e.w then 32 else 0) + (if 4 ≤ need && !e.x then 64 else 0)

/-- What a hit gives: PERM, NOBACK, or the physical address with its entry. -/
def Pte.use (e : Pte) (va need : Nat) : AFault ⊕ (Nat × Pte) :=
  if e.missing need ≠ 0 then .inl ⟨6, e.missing need⟩
  else if (lineOf (e.pa va)).isNone || !e.homeGood then .inl ⟨7, 0⟩
  else .inr (e.pa va, e)

/-- Translates a VA of an ASID; a core uses what its translation cache holds (R263). -/
def State.translate (s : State) (core : Option Nat) (asid : BitVec 16) (va need : Nat) : AFault ⊕ (Nat × Pte) :=
  let cached := core.bind (fun n => (s.core n).tlb.find? (fun t =>
    t.asid == asid && t.vpn.toNat == va / 2 ^ pageBits t.pte.size * 2 ^ (pageBits t.pte.size - 16)))
  match cached with
  | some t => t.pte.use va need
  | none =>
    match s.recordOf asid with
    | none => .inl ⟨4, 0⟩
    | some r =>
      match s.walk r asid va with
      | .inl f => .inl f
      | .inr [] => .inl ⟨4, 0⟩
      | .inr [e] => e.use va need
      | .inr (e :: _) => .inl ⟨5, 16 * e.size⟩

/-- Keeps a hit in the core's translation cache. -/
def State.keepTlb (s : State) (core : Nat) (asid : BitVec 16) (va : Nat) (e : Pte) : State :=
  let vpn := BitVec.ofNat 40 (va / 2 ^ pageBits e.size * 2 ^ (pageBits e.size - 16))
  s.modCore core (fun c =>
    if c.tlb.any (fun t => t.asid == asid && t.vpn == vpn && t.pte.size == e.size) then c
    else { c with tlb := { asid := asid, vpn := vpn, pte := e } :: c.tlb })

/-! ## One access checked (R410) -/

/-- Where an access is to be performed: a physical address (with whether L1 may hold its line), a scratchpad offset of a block, or a peer
package. -/
inductive Place where
  | phys (pa : Nat) (l1 : Bool)
  | pad (b : BRef) (off : Nat)
  | peer (chip : BitVec 8) (va : Nat)
  deriving DecidableEq, Repr

/-- The permissions that an access kind needs: 0 read, 1 write, 2 read-modify-write. -/
def needOf (kind : Nat) : Nat := if kind = 0 then 1 else if kind = 1 then 2 else 3

/-- Bytes of a block's scratchpad allocation. -/
def State.padBytes (s : State) (g : Nat) : Nat := 4096 * ((s.launchOf g).map (fun l => l.p.gran)).getD 0

/-- SPBOUND (R412): DETAIL names the granule of the first byte outside. -/
def padBound (alloc off size : Nat) : Option AFault :=
  if alloc < off + size then some ⟨3, 16 * ((if alloc ≤ off then off else alloc) / 4096)⟩ else none

/-- The checks of R410 in their order: aperture, alignment to `align`, bound or SPRED, translation, backing. -/
def State.locate (s : State) (a : Asker) (ea : DWord) (size align kind : Nat) (accepts : Ap → Bool) (fadd : Bool) : AFault ⊕ Place :=
  match s.resolve a ea with
  | .inl f => .inl f
  | .inr (ap, spot) =>
    if !accepts ap then .inl (apertureFault 8)
    else match spot with
      | .va chip va =>
        if va % align ≠ 0 then .inl ⟨2, 16 * Nat.log2 align⟩
        else match chip with
          | some c =>
            if c = s.chip then
              match s.translate (some a.core) a.asid va (needOf kind) with
              | .inl f => .inl f
              | .inr (pa, _) => .inr (.phys pa false)
            else .inr (.peer c va)
          | none =>
            match s.translate (some a.core) a.asid va (needOf kind) with
            | .inl f => .inl f
            | .inr (pa, e) => .inr (.phys pa (e.cache == 0))
      | .pad k off =>
        if off % align ≠ 0 then .inl ⟨2, 16 * Nat.log2 align⟩
        else match padBound (s.padBytes a.b.g) off size with
          | some f => .inl f
          | none => if fadd then .inl ⟨11, 0⟩ else .inr (.pad ⟨a.b.g, k⟩ off)

/-- The VA that an address translates, for the translation cache. -/
def State.vaOf (s : State) (a : Asker) (ea : DWord) : Option Nat :=
  match s.resolve a ea with
  | .inr (_, .va none va) => some va
  | _ => none

/-! ## Instruction fetch (R409, R410) -/

def fetchAperture (pc : DWord) : Option AFault :=
  if field pc 63 56 = 0 then none
  else if field pc 63 56 = 0xE0 || [0xFD00, 0xFF00, 0xFF10, 0xFF20].contains (field pc 63 48) then some (apertureFault 8)
  else some (apertureFault 1)

/-- A fetched block enters the instruction cache; a full one, 128 KiB, gives up a block for it (R19; log entry 69). -/
def State.fillIcache (s : State) (core : Nat) (line : ILine) : State :=
  let full := 4096 ≤ (s.core core).icache.length
  { s with fresh := if full then s.fresh + 1 else s.fresh }.modCore core (fun c =>
    { c with icache := line :: (if full then c.icache.eraseIdx (Config.victimPick s.fresh % 4096) else c.icache) })

/-- Fetches the 32-byte block of a PC into the core's instruction cache. -/
def State.fetch (s : State) (core : Nat) (asid : BitVec 16) (pc : DWord) : AFault ⊕ (List Byte × State) :=
  let base := pc.toNat / 32 * 32
  match s.fetchBytes core asid pc with
  | some bs => .inr (bs, s)
  | none =>
    match fetchAperture pc with
    | some f => .inl f
    | none =>
      match s.translate (some core) asid base 4 with
      | .inl f => .inl f
      | .inr (pa, e) =>
        match s.badLine pa with
        | some u => .inl ⟨8, 16 * u⟩
        | none =>
          let bytes := s.physRead pa 32
          let line : ILine := { asid := asid, va := BitVec.ofNat 64 base, bytes := bytes }
          .inr (bytes.drop (pc.toNat % 32), (s.keepTlb core asid base e).fillIcache core line)

/-- The issue fault of a failed fetch (R409). -/
def fetchFault (f : AFault) (pc : DWord) (t : Thread) : PFault :=
  { how := .issue, order := 0, cause := mkCause 2 f.code (f.detail + 3) false false, addr := pc, pc := pc, rpc := t.regionPc, rcount := t.regionCount,
    queue := none }

end Sys2Proof.Machine
end

