-- ==== Sys2Proof/Machine/Integer.lean ====
section
/-!
DEFINITION. Class 0: integer arithmetic, logic, shifts, bit fields, compares, selects and moves (R113 to R129).
-/
namespace Sys2Proof.Machine

/-! ## Arithmetic (R118, R119) -/

/-- The type of an instruction whose default type heads its entry's list. -/
def opType (row : Row) (o : Ops) : Nat := effType (modField o.mod 4 0) row.ty

/-- A 32-bit operand as an integer of the type: .s32 signed, else natural. -/
def ext32 (ty : Nat) (v : Nat) : Int := if ty = 3 then (BitVec.ofNat 32 v).toInt else (v % 2 ^ 32 : Nat)

/-- The low 32 bits of an exact result, clamped first under .sat (R118). -/
def narrow32 (ty : Nat) (sat : Bool) (r : Int) : Nat :=
  let lo : Int := if ty = 3 then -2 ^ 31 else 0
  let hi : Int := if ty = 3 then 2 ^ 31 - 1 else 2 ^ 32 - 1
  (BitVec.ofInt 32 (if sat then min (max r lo) hi else r)).toNat

def satMod (o : Ops) : Bool := o.mod.getLsbD 13

/-- A 32-bit instruction of R118: `f` gives the exact result. The last source is the immediate in an I form. -/
def arith32 (code : Nat) (o : Ops) (f : Int → Int → Int → Int) (s : State) : Host.Outcome State Fault Refusal :=
  aluOp code o (fun row x =>
    let ty := opType row o
    let b := if row.form = .i && code ≠ 0x033 then o.imm.toNat else x.b
    let c := if row.form = .i then o.imm.toNat else x.c
    narrow32 ty (satMod o) (f (ext32 ty x.a) (ext32 ty b) (ext32 ty c))) s

def execIadd (o : Ops) (s : State) := arith32 0x001 o (fun a b _ => a + b) s
def execIaddI (o : Ops) (s : State) := arith32 0x030 o (fun a b _ => a + b) s
def execIsub (o : Ops) (s : State) := arith32 0x002 o (fun a b _ => a - b) s
def execIsubI (o : Ops) (s : State) := arith32 0x031 o (fun a b _ => a - b) s
def execIneg (o : Ops) (s : State) := arith32 0x003 o (fun a _ _ => -a) s
def execIadd3 (o : Ops) (s : State) := arith32 0x004 o (fun a b c => a + b + c) s
def execImul (o : Ops) (s : State) := arith32 0x005 o (fun a b _ => a * b) s
def execImulI (o : Ops) (s : State) := arith32 0x032 o (fun a b _ => a * b) s
def execImulh (o : Ops) (s : State) := arith32 0x006 o (fun a b _ => (a * b) / 2 ^ 32) s
def execImad (o : Ops) (s : State) := arith32 0x007 o (fun a b c => a * b + c) s
def execImadI (o : Ops) (s : State) := arith32 0x033 o (fun a b c => a * b + c) s
def execImin (o : Ops) (s : State) := arith32 0x00C o (fun a b _ => min a b) s
def execIminI (o : Ops) (s : State) := arith32 0x034 o (fun a b _ => min a b) s
def execImax (o : Ops) (s : State) := arith32 0x00D o (fun a b _ => max a b) s
def execImaxI (o : Ops) (s : State) := arith32 0x035 o (fun a b _ => max a b) s
def execIabs (o : Ops) (s : State) := arith32 0x00E o (fun a _ _ => (a.natAbs : Int)) s

/-- Byte `j` of a word. -/
def byteAt (v j : Nat) : Nat := v / 256 ^ j % 256

/-- ISAD (R118, Table 2): |a − b| plus c, or the byte-wise sum under .n8. -/
def execIsad (o : Ops) (s : State) : Host.Outcome State Fault Refusal :=
  aluOp 0x00F o (fun row x =>
    let ty := opType row o
    if ty = 5 then
      narrow32 7 (satMod o) (((List.range 4).foldl (fun n j =>
        n + ((byteAt x.a j : Int) - (byteAt x.b j : Int)).natAbs) x.c : Nat) : Int)
    else narrow32 ty (satMod o) (ext32 ty x.c + ((ext32 ty x.a - ext32 ty x.b).natAbs : Int))) s

/-- A 64-bit instruction of R119, modulo 2^64. -/
def arith64 (code : Nat) (o : Ops) (f : Nat → Src → Int) (s : State) : Host.Outcome State Fault Refusal :=
  aluOp code o (fun row x => (BitVec.ofInt 64 (f (opType row o) x)).toNat) s

def execIadd64 (o : Ops) (s : State) := arith64 0x009 o (fun _ x => (x.a : Int) + x.b) s
def execIsub64 (o : Ops) (s : State) := arith64 0x00A o (fun _ x => (x.a : Int) - x.b) s
def execImad64 (o : Ops) (s : State) := arith64 0x00B o (fun _ x => (x.a : Int) * x.b + x.c) s
def execImadw (o : Ops) (s : State) := arith64 0x008 o (fun ty x => ext32 ty x.a * ext32 ty x.b + x.c) s

/-! ## Logic and bit counts (R120, R121) -/

/-- A 32-bit bitwise instruction. -/
def logic32 (code : Nat) (o : Ops) (f : Word → Word → Word) (s : State) : Host.Outcome State Fault Refusal :=
  aluOp code o (fun row x => (f (BitVec.ofNat 32 x.a) (BitVec.ofNat 32 (immOr o row x.b))).toNat) s

def execAnd (o : Ops) (s : State) := logic32 0x010 o (fun a b => a &&& b) s
def execAndI (o : Ops) (s : State) := logic32 0x038 o (fun a b => a &&& b) s
def execOr (o : Ops) (s : State) := logic32 0x011 o (fun a b => a ||| b) s
def execOrI (o : Ops) (s : State) := logic32 0x039 o (fun a b => a ||| b) s
def execXor (o : Ops) (s : State) := logic32 0x012 o (fun a b => a ^^^ b) s
def execXorI (o : Ops) (s : State) := logic32 0x03A o (fun a b => a ^^^ b) s
def execNot (o : Ops) (s : State) := logic32 0x013 o (fun a _ => ~~~a) s
def execAndn (o : Ops) (s : State) := logic32 0x014 o (fun a b => a &&& ~~~b) s
def execAndnI (o : Ops) (s : State) := logic32 0x03B o (fun a b => a &&& ~~~b) s

/-- A word from its bits. -/
def ofBits32 (f : Nat → Bool) : Word := BitVec.ofNat 32 ((List.range 32).foldl (fun n i => if f i then n + 2 ^ i else n) 0)

def popCount (a : Word) : Nat := ((List.range 32).filter (fun i => a.getLsbD i)).length

/-- Zeros above the highest set bit of a 32-bit word. -/
def leadingZeros (a : Word) : Nat := (((List.range 32).reverse).takeWhile (fun i => !a.getLsbD i)).length

def trailingZeros (a : Word) : Nat := ((List.range 32).takeWhile (fun i => !a.getLsbD i)).length

def execBrev (o : Ops) (s : State) := logic32 0x01F o (fun a _ => ofBits32 (fun i => a.getLsbD (31 - i))) s
def execPopc (o : Ops) (s : State) := logic32 0x020 o (fun a _ => BitVec.ofNat 32 (popCount a)) s
def execClz (o : Ops) (s : State) := logic32 0x021 o (fun a _ => BitVec.ofNat 32 (leadingZeros a)) s
def execCtz (o : Ops) (s : State) := logic32 0x022 o (fun a _ => BitVec.ofNat 32 (trailingZeros a)) s

/-- LOP3 (R121): each bit from the table in mod<19:12>. -/
def lop3 (tab : Nat) (a b c : Word) : Word :=
  ofBits32 (fun i => tab.testBit ((a.getLsbD i).toNat + 2 * (b.getLsbD i).toNat + 4 * (c.getLsbD i).toNat))

def execLop3 (o : Ops) (s : State) : Host.Outcome State Fault Refusal :=
  aluOp 0x015 o (fun _ x =>
    (lop3 (modField o.mod 19 12) (BitVec.ofNat 32 x.a) (BitVec.ofNat 32 x.b) (BitVec.ofNat 32 x.c)).toNat) s

/-! ## Shifts (R122) -/

/-- The count of SHL, SHR and SAR, reduced under .wrap. -/
def shiftCount (o : Ops) (n : Nat) : Nat := if satMod o then n % 32 else n

def shift32 (code : Nat) (o : Ops) (f : Word → Nat → Word) (s : State) : Host.Outcome State Fault Refusal :=
  aluOp code o (fun row x => (f (BitVec.ofNat 32 x.a) (shiftCount o (immOr o row x.b))).toNat) s

def shl32 (a : Word) (n : Nat) : Word := if 32 ≤ n then 0 else a <<< n
def shr32 (a : Word) (n : Nat) : Word := if 32 ≤ n then 0 else a >>> n
def sar32 (a : Word) (n : Nat) : Word := a.sshiftRight (min n 32)

def execShl (o : Ops) (s : State) := shift32 0x018 o shl32 s
def execShlI (o : Ops) (s : State) := shift32 0x03C o shl32 s
def execShr (o : Ops) (s : State) := shift32 0x019 o shr32 s
def execShrI (o : Ops) (s : State) := shift32 0x03D o shr32 s
def execSar (o : Ops) (s : State) := shift32 0x01A o sar32 s
def execSarI (o : Ops) (s : State) := shift32 0x03E o sar32 s

/-- The funnel shift of w = b × 2^32 + a (Table 5). -/
def funnel (right zero : Bool) (a b c : Nat) : Nat :=
  let w : DWord := BitVec.ofNat 64 (b * 2 ^ 32 + a)
  if zero then
    let n := min c 64
    if right then (w.toNat / 2 ^ n) % 2 ^ 32 else (w.toNat * 2 ^ n) % 2 ^ 64 / 2 ^ 32
  else
    let n := c % 64
    if right then (w.rotateRight n).toNat % 2 ^ 32 else (w.rotateLeft n).toNat / 2 ^ 32

def execShf (o : Ops) (s : State) : Host.Outcome State Fault Refusal :=
  aluOp 0x01B o (fun _ x => funnel (o.mod.getLsbD 13) (o.mod.getLsbD 14) x.a x.b x.c) s

def execRot (o : Ops) (s : State) : Host.Outcome State Fault Refusal :=
  aluOp 0x01C o (fun _ x =>
    let a : Word := BitVec.ofNat 32 x.a
    (if o.mod.getLsbD 13 then a.rotateRight (x.b % 32) else a.rotateLeft (x.b % 32)).toNat) s

/-! ## Bit fields and byte permutes (R123, R124) -/

/-- Position and length of a field, from vs2 (R123). -/
def fieldPos (v : Nat) : Nat := min (v % 256) 32
def fieldLen (v : Nat) : Nat := min (v / 256 % 256) 32

def bitExtract (signed : Bool) (a v : Nat) : Nat :=
  let p := fieldPos v
  let l := fieldLen v
  let x : Int := if signed then (BitVec.ofNat 32 a).toInt else a
  let f : Int := (x / 2 ^ p) % 2 ^ l
  (BitVec.ofInt 32 (if signed && 0 < l && 2 ^ (l - 1) ≤ f then f - 2 ^ l else f)).toNat

def execBfe (o : Ops) (s : State) : Host.Outcome State Fault Refusal :=
  aluOp 0x01D o (fun row x => bitExtract (opType row o = 3) x.a x.b) s

def bitInsert (a v c : Nat) : Nat :=
  let m : Word := BitVec.ofNat 32 ((2 ^ fieldLen v - 1) * 2 ^ fieldPos v)
  ((BitVec.ofNat 32 c &&& ~~~m) ||| (BitVec.ofNat 32 (a * 2 ^ fieldPos v) &&& m)).toNat

def execBfi (o : Ops) (s : State) : Host.Outcome State Fault Refusal := aluOp 0x01E o (fun _ x => bitInsert x.a x.b x.c) s

/-- PRMT (R124): byte `j` of the result for selector nibble `n`. -/
def permByte (a b n : Nat) : Nat :=
  let v := byteAt (if n.testBit 3 then b else a) (n % 4)
  if n.testBit 2 then (if 128 ≤ v then 255 else 0) else v

def permute (a b c : Nat) : Nat := (List.range 4).foldl (fun r j => r + permByte a b (c / 16 ^ j % 16) * 256 ^ j) 0

def execPrmt (o : Ops) (s : State) : Host.Outcome State Fault Refusal := aluOp 0x023 o (fun _ x => permute x.a x.b x.c) s

/-! ## Compare-to-bit, select, guard bits (R125 to R127) -/

/-- `d` with bit `b` set to `v`. -/
def putBit (d b : Nat) (v : Bool) : Nat :=
  let w : Word := BitVec.ofNat 32 d
  let m : Word := BitVec.ofNat 32 (2 ^ (b % 32))
  (if v then w ||| m else w &&& ~~~m).toNat

/-- The comparison codes of ISETB (R125). -/
def cmpInt (c : Nat) (a b : Int) : Bool :=
  match c with
  | 0 => a == b
  | 1 => a != b
  | 2 => a < b
  | 3 => a ≤ b
  | 4 => b < a
  | _ => b ≤ a

/-- A value as an integer of type `ty`: .s32, .n32, .s64 or .n64. -/
def intOf (ty v : Nat) : Int :=
  if ty = 3 then (BitVec.ofNat 32 v).toInt else if ty = 4 then (BitVec.ofNat 64 v).toInt else v

def isetb (code : Nat) (o : Ops) (s : State) : Host.Outcome State Fault Refusal :=
  aluOp code o (fun row x =>
    let ty := opType row o
    let b := if row.form = .i then (if wideType ty then (immSext o).toNat else o.imm.toNat) else x.b
    putBit x.d (modField o.mod 18 14) (cmpInt (modField o.mod 12 10) (intOf ty x.a) (intOf ty b))) s

def execIsetb (o : Ops) (s : State) := isetb 0x024 o s
def execIsetbI (o : Ops) (s : State) := isetb 0x036 o s

/-- SEL (R126): vc in vs1, va in vs2, vb in vs3 or the immediate. -/
def selOp (code : Nat) (o : Ops) (s : State) : Host.Outcome State Fault Refusal :=
  aluOp code o (fun row x => if x.a.testBit (modField o.mod 18 14) then x.b else immOr o row x.c) s

def execSel (o : Ops) (s : State) := selOp 0x025 o s
def execSelI (o : Ops) (s : State) := selOp 0x037 o s

/-- SETBIT and CLRBIT (R127, Table 6). -/
def guardBitOp (code : Nat) (v : Bool) (o : Ops) (s : State) : Host.Outcome State Fault Refusal :=
  aluOp code o (fun _ x => putBit x.d (if o.mod.getLsbD 19 then x.a % 32 else modField o.mod 18 14) v) s

def execSetbit (o : Ops) (s : State) := guardBitOp 0x02C true o s
def execClrbit (o : Ops) (s : State) := guardBitOp 0x02D false o s

/-- The operations of BITOP (R127). -/
def bitFn (op : Nat) (x y : Bool) : Bool :=
  match op with
  | 0 => x && y
  | 1 => x || y
  | 2 => x != y
  | 3 => x && !y
  | 4 => x || !y
  | _ => x == y

def execBitop (o : Ops) (s : State) : Host.Outcome State Fault Refusal :=
  aluOp 0x02E o (fun _ x =>
    putBit x.d (modField o.mod 18 14) (bitFn (modField o.mod 12 10) (x.a.testBit (o.mod2.extractLsb' 0 5).toNat)
      (x.b.testBit (o.mod2.extractLsb' 5 5).toNat))) s

/-! ## Moves and addresses (R129) -/

def execMov (o : Ops) (s : State) : Host.Outcome State Fault Refusal := aluOp 0x028 o (fun _ x => x.a) s
def execMovi (o : Ops) (s : State) : Host.Outcome State Fault Refusal := aluOp 0x029 o (fun _ _ => o.imm.toNat) s
def execMov64 (o : Ops) (s : State) : Host.Outcome State Fault Refusal := aluOp 0x02A o (fun _ x => x.a) s
def execMov64I (o : Ops) (s : State) : Host.Outcome State Fault Refusal := aluOp 0x02F o (fun _ _ => o.imm.toNat) s

/-- LEA (R129): P + (index << sh) modulo 2^64; the index is zero-extended under .n32. -/
def execLea (o : Ops) (s : State) : Host.Outcome State Fault Refusal :=
  aluOp 0x02B o (fun _ x =>
    let i : DWord := if o.mod.getLsbD 13 then BitVec.ofNat 64 x.b else (BitVec.ofNat 32 x.b).signExtend 64
    (BitVec.ofNat 64 x.a + (i <<< modField o.mod 18 14)).toNat) s

def execLeaI (o : Ops) (s : State) : Host.Outcome State Fault Refusal :=
  aluOp 0x03F o (fun _ x => (BitVec.ofNat 64 x.a + (immSext o <<< modField o.mod 18 14)).toNat) s

end Sys2Proof.Machine
end

