-- ==== Sys2Proof/Machine/Float.lean ====
section
/-!
DEFINITION. Floating formats (R95 to R98), exact values, the rounding functions round, round_sat and srnd (R103 to R106), and the exact
accumulators of reductions (R108 to R110).
-/
namespace Sys2Proof.Machine

/-! ## Formats -/

/-- A format of Table 1: fraction width, bias, code of the largest finite magnitude, whether it has infinities, canonical NaN. -/
structure Fmt where
  frac : Nat
  bias : Nat
  maxCode : Nat
  signBit : Nat
  inf : Option Nat
  nan : Option Nat
  deriving DecidableEq, Repr

def f64Fmt : Fmt := ⟨52, 1023, 0x7FEFFFFFFFFFFFFF, 63, some 0x7FF0000000000000, some 0x7FF8000000000000⟩
def f32Fmt : Fmt := ⟨23, 127, 0x7F7FFFFF, 31, some 0x7F800000, some 0x7FC00000⟩
def f16Fmt : Fmt := ⟨10, 15, 0x7BFF, 15, some 0x7C00, some 0x7E00⟩
def bf16Fmt : Fmt := ⟨7, 127, 0x7F7F, 15, some 0x7F80, some 0x7FC0⟩
def e4m3Fmt : Fmt := ⟨3, 7, 0x7E, 7, none, some 0x7F⟩
def e5m2Fmt : Fmt := ⟨2, 15, 0x7B, 7, some 0x7C, some 0x7E⟩
def e2m1Fmt : Fmt := ⟨1, 1, 0x7, 3, none, none⟩

/-- The format of a floating type code (R75). -/
def fmtOf (ty : Nat) : Fmt :=
  match ty with
  | 14 => f64Fmt
  | 16 => f16Fmt
  | 17 => bf16Fmt
  | 18 => e4m3Fmt
  | 19 => e5m2Fmt
  | 20 => e2m1Fmt
  | _ => f32Fmt

/-- The exponent of the smallest subnormal. -/
def Fmt.minExp (f : Fmt) : Int := 1 - (f.bias : Int) - f.frac

/-! ## Values -/

/-- What an encoding stands for: NaN, an infinity, or (−1)^neg × m × 2^e. -/
inductive Val where
  | nan
  | inf (neg : Bool)
  | fin (neg : Bool) (m : Nat) (e : Int)
  deriving DecidableEq, Repr

/-- The value of an encoding (R95, R96). -/
def Fmt.val (f : Fmt) (c : Nat) : Val :=
  let neg := c.testBit f.signBit
  let mag := c % 2 ^ f.signBit
  if mag ≤ f.maxCode then
    let e := mag / 2 ^ f.frac
    if e = 0 then .fin neg mag f.minExp else .fin neg (mag % 2 ^ f.frac + 2 ^ f.frac) (f.minExp + (e - 1 : Int))
  else if f.inf = some mag then .inf neg
  else .nan

def Fmt.nanCode (f : Fmt) : Nat := f.nan.getD 0

def Fmt.withSign (f : Fmt) (neg : Bool) (c : Nat) : Nat := c + (if neg then 2 ^ f.signBit else 0)

/-- Infinity; NaN in a format with NaNs alone, the largest magnitude in one with neither (R104). -/
def Fmt.infCode (f : Fmt) (neg : Bool) : Nat :=
  match f.inf, f.nan with
  | some c, _ => f.withSign neg c
  | none, some c => c
  | none, none => f.withSign neg f.maxCode

/-- Table 2: the result of a rounding beyond the largest finite value. Modes 0 RNE, 1 RZ, 2 RU, 3 RD. -/
def Fmt.overflow (f : Fmt) (mode : Nat) (neg sat : Bool) : Nat :=
  if sat || mode = 1 || (mode = 2 && neg) || (mode = 3 && !neg) then f.withSign neg f.maxCode else f.infCode neg

/-! ## Rounding (R103, R104) -/

/-- Whether the magnitude m (with `rem` of `2^d` lost, and more below when `sticky`) goes up under a mode. -/
def roundsUp (mode : Nat) (neg : Bool) (m rem d : Nat) (sticky : Bool) : Bool :=
  let inexact := rem != 0 || sticky
  match mode with
  | 0 => if d = 0 then false else
         if rem = 2 ^ (d - 1) then sticky || m % 2 = 1 else 2 ^ (d - 1) < rem
  | 2 => !neg && inexact
  | 3 => neg && inexact
  | _ => false

/-- n × 2^e as a multiple of 2^q: the integer part, what is lost of 2^d, and d. -/
def atQuantum (n : Nat) (e q : Int) : Nat × Nat × Nat :=
  if q ≤ e then (n * 2 ^ (e - q).toNat, 0, 0)
  else
    let d := (q - e).toNat
    (n / 2 ^ d, n % 2 ^ d, d)

/-- The quantum of the value n × 2^e in a format: the least for zero. -/
def Fmt.quantum (f : Fmt) (n : Nat) (e : Int) : Int := if n = 0 then f.minExp else max ((Nat.log2 n : Int) + e - f.frac) f.minExp

/-- Magnitude code of m × 2^q, q a quantum of the format. -/
def Fmt.magCode (f : Fmt) (m : Nat) (q : Int) : Nat := m + (q - f.minExp).toNat * 2 ^ f.frac

/-- round and round_sat of a value whose magnitude lies in [n × 2^e, (n + 1) × 2^e), at the lower end unless `sticky`. A sticky value
is required to be given with more bits than the format holds. -/
def Fmt.roundReal (f : Fmt) (mode : Nat) (sat neg : Bool) (n : Nat) (e : Int) (sticky : Bool) : Nat :=
  let q := f.quantum n e
  let p := atQuantum n e q
  let m := p.1 + (if roundsUp mode neg p.1 p.2.1 p.2.2 sticky then 1 else 0)
  let c := f.magCode m q
  if f.maxCode < c then f.overflow mode neg sat else f.withSign neg c

/-- round(x, F, m) and round_sat of an exact value. -/
def Fmt.round (f : Fmt) (mode : Nat) (sat : Bool) (v : Val) : Nat :=
  match v with
  | .nan => f.nanCode
  | .inf neg => if sat then f.withSign neg f.maxCode else f.infCode neg
  | .fin neg m e => f.roundReal mode sat neg m e false

/-- round(x, integers, m): the magnitude of the integral value. -/
def roundIntegral (mode : Nat) (neg : Bool) (m : Nat) (e : Int) : Nat :=
  let p := atQuantum m e 0
  p.1 + (if roundsUp mode neg p.1 p.2.1 p.2.2 false then 1 else 0)

/-! ## Exact arithmetic -/

def Val.neg : Val → Val
  | .nan => .nan
  | .inf s => .inf !s
  | .fin s m e => .fin (!s) m e

def Val.isZero : Val → Bool
  | .fin _ 0 _ => true
  | _ => false

def Val.mul (a b : Val) : Val :=
  match a, b with
  | .nan, _ => .nan
  | _, .nan => .nan
  | .inf s, .inf t => .inf (s != t)
  | .inf s, .fin t m _ => if m = 0 then .nan else .inf (s != t)
  | .fin s m _, .inf t => if m = 0 then .nan else .inf (s != t)
  | .fin s m e, .fin t n d => .fin (s != t) (m * n) (e + d)

/-- The signed multiple of 2^e that a finite value is, for e at most its exponent. -/
def intAt (neg : Bool) (m : Nat) (d e : Int) : Int :=
  let v : Int := m * 2 ^ (d - e).toNat
  if neg then -v else v

/-- A signed multiple of 2^e as a value; zero is positive. -/
def valOfInt (v : Int) (e : Int) : Val := .fin (v < 0) v.natAbs e

/-- x + y under the rules of R144: the sign of an exact zero depends on the mode. -/
def Val.add (mode : Nat) (a b : Val) : Val :=
  match a, b with
  | .nan, _ => .nan
  | _, .nan => .nan
  | .inf s, .inf t => if s = t then .inf s else .nan
  | .inf s, _ => .inf s
  | _, .inf t => .inf t
  | .fin s m e, .fin t n d =>
    let lo := min e d
    let v := intAt s m e lo + intAt t n d lo
    if v = 0 then .fin (if m = 0 && n = 0 && s = t then s else mode = 3) 0 lo else valOfInt v lo

/-- `.clamp` (R144): +0 for NaN and for values at or below 0, 1.0 above 1. -/
def Fmt.clampCode (f : Fmt) (c : Nat) : Nat :=
  let one := f.bias * 2 ^ f.frac
  match f.val c with
  | .nan => 0
  | .inf neg => if neg then 0 else one
  | .fin neg m _ => if neg || m = 0 then 0 else if one < c then one else c

/-! ## Stochastic rounding (R106) -/

/-- One step of the xorshift generator. -/
def xorshift (x : Word) : Word :=
  let a := x ^^^ (x <<< 13)
  let b := a ^^^ (a >>> 17)
  b ^^^ (b <<< 5)

/-- srnd: the encoding and the advanced state. -/
def Fmt.srnd (f : Fmt) (sat : Bool) (v : Val) (state : Word) : Nat × Word :=
  let u := xorshift (if state = 0 then 0x9E3779B9 else state)
  match v with
  | .nan => (f.round 0 sat v, u)
  | .inf _ => (f.round 0 sat v, u)
  | .fin neg m e =>
    let q := f.quantum m e
    let p := atQuantum m e q
    let lo := f.magCode p.1 q
    if f.maxCode < lo || (lo = f.maxCode && p.2.1 ≠ 0) then (f.round 0 sat v, u)
    else
      let c := if u.toNat < p.2.1 * 2 ^ 32 / 2 ^ p.2.2 then lo + 1 else lo
      (if f.maxCode < c then f.overflow 0 neg sat else f.withSign neg c, u)

/-! ## Order and class -/

/-- A key that orders encodings that are not NaN, −0 below +0. -/
def Fmt.key (f : Fmt) (c : Nat) : Int := if c.testBit f.signBit then -(c % 2 ^ f.signBit : Nat) - 1 else (c % 2 ^ f.signBit : Nat)

/-- The same with −0 equal to +0. -/
def Fmt.flatKey (f : Fmt) (c : Nat) : Int := if c.testBit f.signBit then -(c % 2 ^ f.signBit : Nat) else (c % 2 ^ f.signBit : Nat)

def Fmt.isNan (f : Fmt) (c : Nat) : Bool := f.val c == .nan

/-! ## Exact reduction at memory (R108 to R110) -/

def Accum.zero : Accum := { a := 0, nan := false, pinf := false, ninf := false, ovf := false, u := 0 }

/-- bound: saturating addition of magnitude bounds. -/
def Accum.bound (x : Accum) (u : Nat) : Accum :=
  if 2 ^ 64 - 1 < x.u.toNat + u then { x with u := BitVec.ofNat 64 (2 ^ 64 - 1), ovf := true } else { x with u := BitVec.ofNat 64 (x.u.toNat + u) }

/-- ⌈m × 2^e × 2^-106⌉. -/
def ceilBound (m : Nat) (e : Int) : Nat :=
  let p := atQuantum m e 106
  if p.2.1 = 0 then p.1 else p.1 + 1

/-- add: one contribution. -/
def Accum.add (x : Accum) (v : Val) : Accum :=
  match v with
  | .nan => { x with nan := true }
  | .inf false => { x with pinf := true }
  | .inf true => { x with ninf := true }
  | .fin neg m e => { x with a := x.a + BitVec.ofInt 320 (intAt neg m e (-149)) }.bound (ceilBound m e)

def Accum.merge (x y : Accum) : Accum :=
  { a := x.a + y.a, nan := x.nan || y.nan, pinf := x.pinf || y.pinf, ninf := x.ninf || y.ninf, ovf := x.ovf || y.ovf, u := x.u : Accum }.bound y.u.toNat

/-- The element that a merged accumulator with its memory value added converts to (R109). -/
def Accum.convert (x : Accum) (f : Fmt) : Nat :=
  if x.ovf || x.nan || (x.pinf && x.ninf) then f.nanCode
  else if x.pinf then f.infCode false
  else if x.ninf then f.infCode true
  else if x.a = 0 then 0
  else f.round 0 false (valOfInt x.a.toInt (-149))

end Sys2Proof.Machine
end

