-- ==== Sys2Proof/Machine/Special.lean ====
section
/-!
DEFINITION. The special functions of R149, correctly rounded. Transcendental values are computed in fixed point with 640 fraction bits, whose
relative error lies below 2^-160, and rounded from their first 512 fraction bits (log entry 10).
-/
namespace Sys2Proof.Machine

/-- Fraction bits of a fixed-point value, and of the value that is rounded. -/
def fxBits : Nat := 640
def fxKeep : Nat := 512

def fxOne : Nat := 2 ^ fxBits

/-! ## Series -/

/-- Σ z^(2k+1) / (2k+1) from the term with power `t` on; alternating when `alt`. -/
def atanSeries (fuel : Nat) (one z2 t k : Nat) (alt : Bool) : Int :=
  match fuel with
  | 0 => 0
  | n + 1 =>
    if t = 0 then 0
    else
      let term : Int := (t / (2 * k + 1) : Nat)
      (if alt && k % 2 = 1 then -term else term) + atanSeries n one z2 (t * z2 / one) (k + 1) alt

/-- Σ x^k / k! over every second k, alternating: sine (from t = x, k = 1) and cosine (from t = 1, k = 0). -/
def trigSeries (fuel one x2 t k : Nat) (neg : Bool) : Int :=
  match fuel with
  | 0 => 0
  | n + 1 =>
    if t = 0 then 0
    else (if neg then -(t : Int) else t) + trigSeries n one x2 (t * x2 / one / ((k + 1) * (k + 2))) (k + 2) (!neg)

/-- Σ x^k / k! from the term `t` of index k on. -/
def expSeries (fuel one x t k : Nat) : Nat :=
  match fuel with
  | 0 => 0
  | n + 1 => if t = 0 then 0 else t + expSeries n one x (t * x / one / (k + 1)) (k + 1)

/-- ln 2 = 2 artanh (1/3). -/
def fxLn2 : Nat := (2 * atanSeries 300 fxOne (fxOne / 9) (fxOne / 3) 0 false).toNat

/-- π in fixed point with 1,024 fraction bits (Machin's formula). -/
def piBits : Nat := 1024

def fxPi : Nat :=
  let one := 2 ^ piBits
  (16 * atanSeries 600 one (one / 25) (one / 5) 0 true - 4 * atanSeries 600 one (one / 239 ^ 2) (one / 239) 0 true).toNat

/-- e^x for a fixed-point x below 1. -/
def fxExp (x : Nat) : Nat := expSeries 300 fxOne x fxOne 0

/-- m × 2^e in fixed point with `b` fraction bits, rounded down. -/
def toFx (b m : Nat) (e : Int) : Nat := (atQuantum m e (-(b : Int))).1

/-! ## Values rounded from an enclosure -/

/-- Rounds a positive irrational value given in fixed point. -/
def roundFx (mode : Nat) (neg : Bool) (y : Nat) : Nat :=
  f32Fmt.roundReal mode false neg (y / 2 ^ (fxBits - fxKeep)) (-(fxKeep : Int)) true

/-- Integer square root, by bits from 2^(k-1) down. -/
def isqrtFrom (n : Nat) : Nat → Nat → Nat
  | 0, r => r
  | k + 1, r => isqrtFrom n k (if (r + 2 ^ k) * (r + 2 ^ k) ≤ n then r + 2 ^ k else r)

def isqrt (n : Nat) : Nat := isqrtFrom n (Nat.log2 n / 2 + 1) 0

/-- 1/a: the quotient to 64 bits beyond the mantissa. -/
def rcpRound (mode : Nat) (neg : Bool) (m : Nat) (e : Int) : Nat :=
  f32Fmt.roundReal mode false neg (2 ^ 96 / m) (-e - 96) (2 ^ 96 % m != 0)

/-- √(m × 2^e), the exponent made even. -/
def sqrtRound (mode m : Nat) (e : Int) : Nat :=
  let odd := e % 2 = 1
  let n := (if odd then 2 * m else m) * 2 ^ 128
  let h := ((if odd then e - 1 else e) - 128) / 2
  let r := isqrt n
  f32Fmt.roundReal mode false false r h (r * r != n)

/-- 1/√(m × 2^e) = √(1 / (m × 2^e)). -/
def rsqRound (mode m : Nat) (e : Int) : Nat :=
  let odd := e % 2 = 1
  let d := if odd then 2 * m else m
  let n := 2 ^ 192 / d
  let r := isqrt n
  f32Fmt.roundReal mode false false r (-((if odd then e - 1 else e) / 2) - 96) (2 ^ 192 % d != 0 || r * r != n)

/-- 2^a for a = ±m × 2^e, a ≠ 0. -/
def ex2Round (mode : Nat) (neg : Bool) (m : Nat) (e : Int) : Nat :=
  let big := atQuantum m e 0
  if 300 ≤ big.1 then f32Fmt.roundReal mode false false 1 (if neg then -300 else 300) true
  else
    let v := intAt neg m e (min e 0)
    let one : Int := 2 ^ (-(min e 0)).toNat
    let i := v / one
    let f := (v % one).toNat
    if f = 0 then f32Fmt.roundReal mode false false 1 i false
    else
      let x := f * fxOne / one.toNat
      let y := fxExp (x * fxLn2 / fxOne)
      f32Fmt.roundReal mode false false (y / 2 ^ (fxBits - fxKeep)) (i - (fxKeep : Int)) true

/-- log2 of a positive value that is not 1. -/
def lg2Round (mode m : Nat) (e : Int) : Nat :=
  let k := Nat.log2 m
  let i := e + (k : Int)
  if m = 2 ^ k then f32Fmt.roundReal mode false (i < 0) i.natAbs 0 false
  else
    let z := (m - 2 ^ k) * fxOne / (m + 2 ^ k)
    let ln := (2 * atanSeries 700 fxOne (z * z / fxOne) z 0 false).toNat
    let y : Int := i * fxOne + (ln * fxOne / fxLn2 : Nat)
    roundFx mode (y < 0) y.natAbs

/-- sin and cos of ±m × 2^e, not zero: quadrant and reduced argument over the exact value. -/
def trigRound (mode : Nat) (cos neg : Bool) (m : Nat) (e : Int) : Nat :=
  let x := toFx piBits m e
  let k := x / (fxPi / 2)
  let r := (x % (fxPi / 2)) / 2 ^ (piBits - fxBits)
  let q := (k + (if cos then 1 else 0)) % 4
  let r2 := r * r / fxOne
  let y := if q % 2 = 0 then trigSeries 400 fxOne r2 r 1 false else trigSeries 400 fxOne r2 fxOne 0 false
  roundFx mode ((neg && !cos) != (2 ≤ q)) y.toNat

/-- tanh of ±m × 2^e, not zero. -/
def tanhRound (mode : Nat) (neg : Bool) (m : Nat) (e : Int) : Nat :=
  if 64 ≤ (atQuantum m e 0).1 then f32Fmt.roundReal mode false neg (2 ^ 64 - 1) (-64) true
  else
    let x2 := 2 * toFx fxBits m e
    let i := x2 / fxLn2
    let y := fxExp (x2 % fxLn2) * 2 ^ i
    if i = 0 && x2 < fxOne / 2 ^ 20 then
      -- x − x³/3 + 2x⁵/15 − 17x⁷/315 + …: the quotient would lose the low bits
      let x := x2 / 2
      let s := x * x / fxOne
      let c3 := x * s / fxOne
      let c5 := c3 * s / fxOne
      roundFx mode neg (x + 2 * c5 / 15 - c3 / 3 - 17 * (c5 * s / fxOne) / 315)
    else roundFx mode neg ((y - fxOne) * fxOne / (y + fxOne))

/-! ## Special inputs (Table 4) -/

inductive SfuFn where
  | rcp | rsq | sqrt | ex2 | lg2 | sin | cos | tanh
  deriving DecidableEq, Repr

def f32Inf : Nat := 0x7F800000
def f32One : Nat := 0x3F800000
def f32Sign (neg : Bool) : Nat := if neg then 0x80000000 else 0

def SfuFn.apply (f : SfuFn) (mode : Nat) (v : Val) : Nat :=
  let nan := f32Fmt.nanCode
  match v with
  | .nan => nan
  | .inf neg =>
    match f with
    | .rcp => f32Sign neg
    | .rsq => if neg then nan else 0
    | .sqrt => if neg then nan else f32Inf
    | .ex2 => if neg then 0 else f32Inf
    | .lg2 => if neg then nan else f32Inf
    | .sin => nan
    | .cos => nan
    | .tanh => f32Sign neg + f32One
  | .fin neg 0 _ =>
    match f with
    | .rcp => f32Sign neg + f32Inf
    | .rsq => f32Sign neg + f32Inf
    | .sqrt => f32Sign neg
    | .ex2 => f32One
    | .lg2 => f32Sign true + f32Inf
    | .sin => f32Sign neg
    | .cos => f32One
    | .tanh => f32Sign neg
  | .fin neg m e =>
    match f with
    | .rcp => rcpRound mode neg m e
    | .rsq => if neg then nan else rsqRound mode m e
    | .sqrt => if neg then nan else sqrtRound mode m e
    | .ex2 => ex2Round mode neg m e
    | .lg2 => if neg then nan else if m = 2 ^ Nat.log2 m && e + (Nat.log2 m : Int) = 0 then 0 else lg2Round mode m e
    | .sin => trigRound mode false neg m e
    | .cos => trigRound mode true neg m e
    | .tanh => tanhRound mode neg m e

end Sys2Proof.Machine
end

