-- ==== Sys2Proof/Machine/Fp.lean ====
section
/-!
DEFINITION. Class 1: floating arithmetic, compares, special functions, packed 16-bit and FP64 instructions, IDP4 (R138 to R153).
-/
namespace Sys2Proof.Machine

/-! ## Fields and source modifiers (R140, R143) -/

def roundCode (o : Ops) : Nat := modField o.mod 12 10

/-- Source `n` after abs, then neg. -/
def srcMod (o : Ops) (f : Fmt) (n v : Nat) : Nat :=
  let mag := v % 2 ^ f.signBit
  let neg := (v.testBit f.signBit && !o.mod.getLsbD (16 + n)) != o.mod.getLsbD (13 + n)
  f.withSign neg mag

/-- Source `n` of a compare: abs alone. -/
def srcAbs (o : Ops) (f : Fmt) (n v : Nat) : Nat := if o.mod.getLsbD (16 + n) then v % 2 ^ f.signBit else v

/-! ## One element (R144 to R146) -/

/-- The arithmetic of FADD, FMUL and FFMA and their packed and FP64 forms. -/
inductive FpOp where
  | add | mul | fma
  deriving DecidableEq, Repr

def FpOp.exact (op : FpOp) (mode : Nat) (a b c : Val) : Val :=
  match op with
  | .add => Val.add mode a b
  | .mul => a.mul b
  | .fma => Val.add mode (a.mul b) c

/-- R144 with `.clamp`. -/
def FpOp.apply (op : FpOp) (f : Fmt) (mode : Nat) (clamp : Bool) (a b c : Nat) : Nat :=
  let r := f.round mode false (op.exact mode (f.val a) (f.val b) (f.val c))
  if clamp then f.clampCode r else r

/-- FMIN and FMAX (R145). -/
def fpMinMax (f : Fmt) (max_ : Bool) (a b : Nat) : Nat :=
  match f.isNan a, f.isNan b with
  | true, true => f.nanCode
  | true, false => b
  | false, true => a
  | false, false => if (f.key a < f.key b) != max_ then a else b

/-- The comparison codes of R146. -/
def fpCmp (f : Fmt) (code a b : Nat) : Bool :=
  let nan := f.isNan a || f.isNan b
  let x := f.flatKey a
  let y := f.flatKey b
  match code with
  | 0 => !nan && x == y
  | 1 => nan || x != y
  | 2 => !nan && decide (x < y)
  | 3 => !nan && decide (x ≤ y)
  | 4 => !nan && decide (y < x)
  | 5 => !nan && decide (y ≤ x)
  | 6 => !nan
  | _ => nan

/-- FCLASS (R147): the one-hot class. -/
def fpClass (f : Fmt) (c : Nat) : Nat :=
  match f.val c with
  | .nan => if c.testBit (f.frac - 1) then 2 ^ 9 else 2 ^ 8
  | .inf neg => if neg then 2 ^ 0 else 2 ^ 7
  | .fin neg m _ =>
    if m = 0 then (if neg then 2 ^ 3 else 2 ^ 4)
    else if m < 2 ^ f.frac then (if neg then 2 ^ 2 else 2 ^ 5)
    else (if neg then 2 ^ 1 else 2 ^ 6)

/-- FRND (R148). -/
def fpRound (f : Fmt) (mode c : Nat) : Nat :=
  match f.val c with
  | .nan => f.nanCode
  | .inf _ => c
  | .fin neg m e => f.round 0 false (.fin neg (roundIntegral mode neg m e) 0)

/-- FSCALE (R148). -/
def fpScale (f : Fmt) (mode c : Nat) (n : Int) : Nat :=
  match f.val c with
  | .nan => f.nanCode
  | .inf _ => c
  | .fin neg m e => if m = 0 then c else f.round mode false (.fin neg m (e + n))

/-! ## FP32 (R144 to R148) -/

/-- An instruction of Table 3's arithmetic; the immediate of an I form replaces the last source. -/
def fp32 (code : Nat) (op : FpOp) (o : Ops) (s : State) : Host.Outcome State Fault Refusal :=
  aluOp code o (fun row x =>
    let f := f32Fmt
    let b := if op = .fma then x.b else immOr o row x.b
    op.apply f (roundCode o) (satMod o) (srcMod o f 1 x.a) (srcMod o f 2 b) (srcMod o f 3 (immOr o row x.c))) s

def execFadd (o : Ops) (s : State) := fp32 0x040 .add o s
def execFaddI (o : Ops) (s : State) := fp32 0x070 .add o s
def execFmul (o : Ops) (s : State) := fp32 0x041 .mul o s
def execFmulI (o : Ops) (s : State) := fp32 0x071 .mul o s
def execFfma (o : Ops) (s : State) := fp32 0x042 .fma o s
def execFfmaI (o : Ops) (s : State) := fp32 0x072 .fma o s

def fp32MinMax (code : Nat) (max_ : Bool) (o : Ops) (s : State) : Host.Outcome State Fault Refusal :=
  aluOp code o (fun row x => fpMinMax f32Fmt max_ (srcMod o f32Fmt 1 x.a) (srcMod o f32Fmt 2 (immOr o row x.b))) s

def execFmin (o : Ops) (s : State) := fp32MinMax 0x043 false o s
def execFminI (o : Ops) (s : State) := fp32MinMax 0x073 false o s
def execFmax (o : Ops) (s : State) := fp32MinMax 0x044 true o s
def execFmaxI (o : Ops) (s : State) := fp32MinMax 0x074 true o s

def fpSetb (code : Nat) (f : Fmt) (o : Ops) (s : State) : Host.Outcome State Fault Refusal :=
  aluOp code o (fun row x =>
    putBit x.d (modField o.mod 9 5) (fpCmp f (modField o.mod 16 14) (srcAbs o f 1 x.a) (srcAbs o f 2 (immOr o row x.b)))) s

def execFsetb (o : Ops) (s : State) := fpSetb 0x045 f32Fmt o s
def execFsetbI (o : Ops) (s : State) := fpSetb 0x075 f32Fmt o s

def execFclass (o : Ops) (s : State) : Host.Outcome State Fault Refusal :=
  aluOp 0x046 o (fun row x =>
    let f := fmtOf (opType row o)
    fpClass f (x.a % 2 ^ (f.signBit + 1))) s

def execFrnd (o : Ops) (s : State) : Host.Outcome State Fault Refusal :=
  aluOp 0x047 o (fun row x =>
    let f := fmtOf (opType row o)
    fpRound f (roundCode o) (srcMod o f 1 x.a)) s

def execFscale (o : Ops) (s : State) : Host.Outcome State Fault Refusal :=
  aluOp 0x048 o (fun row x =>
    let f := fmtOf (opType row o)
    fpScale f (roundCode o) (srcMod o f 1 x.a) (BitVec.ofNat 32 x.b).toInt) s

/-! ## Special functions and their unit (R149) -/

/-- Occupies the quarter's special-function unit (8 results a cycle) or FP64 pipe (2 a cycle) for the lanes that execute (log entry 13). -/
def State.occupy (s : State) (e : Env) (fp64 : Bool) (lanes : Nat) : State :=
  s.modCore e.core (fun c => { c with quarters := c.quarters.modify e.quarter (fun q =>
    if fp64 then { q with fpFree := e.cyc + (lanes + 1) / 2 } else { q with sfuFree := e.cyc + (lanes + 7) / 8 }) })

def sfuOp (code : Nat) (f : SfuFn) (o : Ops) (s : State) : Host.Outcome State Fault Refusal :=
  runPass code o noFaults (fun e ls s1 =>
    (s1.occupy e false ls.length).results e o ls (fun l =>
      [⟨o.vd, 1, f.apply (roundCode o) (f32Fmt.val (srcMod o f32Fmt 1 l.src.a))⟩])) s

def execRcp (o : Ops) (s : State) := sfuOp 0x049 .rcp o s
def execRsq (o : Ops) (s : State) := sfuOp 0x04A .rsq o s
def execSqrt (o : Ops) (s : State) := sfuOp 0x04B .sqrt o s
def execEx2 (o : Ops) (s : State) := sfuOp 0x04C .ex2 o s
def execLg2 (o : Ops) (s : State) := sfuOp 0x04D .lg2 o s
def execSin (o : Ops) (s : State) := sfuOp 0x04E .sin o s
def execCos (o : Ops) (s : State) := sfuOp 0x04F .cos o s
def execTanh (o : Ops) (s : State) := sfuOp 0x050 .tanh o s

/-! ## Packed 16-bit (R150, R151) -/

/-- Element `h` of a packed register. -/
def half (v h : Nat) : Nat := v / 65536 ^ h % 65536

/-- Applies `f` to the elements of three packed sources; source 2 is crossed under `.cross`. -/
def packed (cross : Bool) (f : Nat → Nat → Nat → Nat) (a b c : Nat) : Nat :=
  let at_ := fun h => f (half a h) (half b (if cross then 1 - h else h)) (half c h)
  at_ 0 + at_ 1 * 65536

def fp16 (code : Nat) (fmt : Fmt) (op : FpOp) (o : Ops) (s : State) : Host.Outcome State Fault Refusal :=
  aluOp code o (fun row x =>
    let b := if op = .fma then x.b else immOr o row x.b
    packed (o.mod.getLsbD 5) (fun p q r =>
      op.apply fmt (roundCode o) (satMod o) (srcMod o fmt 1 p) (srcMod o fmt 2 q) (srcMod o fmt 3 r)) x.a b (immOr o row x.c)) s

def execHadd2 (o : Ops) (s : State) := fp16 0x058 f16Fmt .add o s
def execHadd2I (o : Ops) (s : State) := fp16 0x078 f16Fmt .add o s
def execHmul2 (o : Ops) (s : State) := fp16 0x059 f16Fmt .mul o s
def execHmul2I (o : Ops) (s : State) := fp16 0x079 f16Fmt .mul o s
def execHfma2 (o : Ops) (s : State) := fp16 0x05A f16Fmt .fma o s
def execHfma2I (o : Ops) (s : State) := fp16 0x07A f16Fmt .fma o s
def execBadd2 (o : Ops) (s : State) := fp16 0x060 bf16Fmt .add o s
def execBadd2I (o : Ops) (s : State) := fp16 0x07B bf16Fmt .add o s
def execBmul2 (o : Ops) (s : State) := fp16 0x061 bf16Fmt .mul o s
def execBmul2I (o : Ops) (s : State) := fp16 0x07C bf16Fmt .mul o s
def execBfma2 (o : Ops) (s : State) := fp16 0x062 bf16Fmt .fma o s
def execBfma2I (o : Ops) (s : State) := fp16 0x07D bf16Fmt .fma o s

def fp16MinMax (code : Nat) (max_ : Bool) (o : Ops) (s : State) : Host.Outcome State Fault Refusal :=
  aluOp code o (fun row x =>
    let fmt := fmtOf (opType row o)
    packed (o.mod.getLsbD 5) (fun p q _ => fpMinMax fmt max_ (srcMod o fmt 1 p) (srcMod o fmt 2 q)) x.a x.b 0) s

def execHmin2 (o : Ops) (s : State) := fp16MinMax 0x05B false o s
def execHmax2 (o : Ops) (s : State) := fp16MinMax 0x05C true o s

def execHsetb2 (o : Ops) (s : State) : Host.Outcome State Fault Refusal :=
  aluOp 0x05D o (fun row x =>
    let fmt := fmtOf (opType row o)
    let b := modField o.mod 9 5
    let cmp := fun h => fpCmp fmt (modField o.mod 16 14) (srcAbs o fmt 1 (half x.a h)) (srcAbs o fmt 2 (half x.b h))
    putBit (putBit x.d b (cmp 0)) (b + 1) (cmp 1)) s

/-! ## FP64 (R152) -/

def fp64Op (code : Nat) (w : Nat) (f : Src → Nat) (o : Ops) (s : State) : Host.Outcome State Fault Refusal :=
  runPass code o noFaults (fun e ls s1 =>
    (s1.occupy e true ls.length).results e o ls (fun l => [⟨o.vd, w, f l.src⟩])) s

def fp64Arith (code : Nat) (op : FpOp) (o : Ops) (s : State) : Host.Outcome State Fault Refusal :=
  fp64Op code 2 (fun x =>
    op.apply f64Fmt (roundCode o) (satMod o) (srcMod o f64Fmt 1 x.a) (srcMod o f64Fmt 2 x.b) (srcMod o f64Fmt 3 x.c)) o s

def execDadd (o : Ops) (s : State) := fp64Arith 0x068 .add o s
def execDmul (o : Ops) (s : State) := fp64Arith 0x069 .mul o s
def execDfma (o : Ops) (s : State) := fp64Arith 0x06A .fma o s

def execDmin (o : Ops) (s : State) : Host.Outcome State Fault Refusal :=
  fp64Op 0x06B 2 (fun x => fpMinMax f64Fmt false (srcMod o f64Fmt 1 x.a) (srcMod o f64Fmt 2 x.b)) o s

def execDmax (o : Ops) (s : State) : Host.Outcome State Fault Refusal :=
  fp64Op 0x06C 2 (fun x => fpMinMax f64Fmt true (srcMod o f64Fmt 1 x.a) (srcMod o f64Fmt 2 x.b)) o s

/-- DSETB: R146 on pairs; its destination is one register whose other bits stand. -/
def execDsetb (o : Ops) (s : State) : Host.Outcome State Fault Refusal :=
  fp64Op 0x06D 1 (fun x =>
    putBit x.d (modField o.mod 9 5) (fpCmp f64Fmt (modField o.mod 16 14) (srcAbs o f64Fmt 1 x.a) (srcAbs o f64Fmt 2 x.b))) o s

/-! ## IDP4 (R153) -/

def idp4 (ta tb : Nat) (sat : Bool) (a b c : Nat) : Nat :=
  let signed := ta = 1 || tb = 1
  let byte := fun (t v j : Nat) => if t = 1 then (BitVec.ofNat 8 (byteAt v j)).toInt else (byteAt v j : Int)
  narrow32 (if signed then 3 else 7) sat
    ((List.range 4).foldl (fun n j => n + byte ta a j * byte tb b j) (ext32 (if signed then 3 else 7) c))

def execIdp4 (o : Ops) (s : State) : Host.Outcome State Fault Refusal :=
  aluOp 0x054 o (fun row x => idp4 (opType row o) (effType (modField o.mod 9 5) row.ty2) (satMod o) x.a x.b x.c) s

end Sys2Proof.Machine
end

