-- ==== Sys2Proof/Machine/Convert.lean ====
section
/-!
DEFINITION. Conversions (R154 to R158).
-/
namespace Sys2Proof.Machine

/-! ## One value -/

/-- Width in bits of an integer type code: 1 to 4 signed, 5 to 8 natural. -/
def intBits (ty : Nat) : Nat := 8 * 2 ^ ((ty - 1) % 4)

def signedType (ty : Nat) : Bool := 1 ≤ ty && ty ≤ 4

def intLo (ty : Nat) : Int := if signedType ty then -2 ^ (intBits ty - 1) else 0
def intHi (ty : Nat) : Int := if signedType ty then 2 ^ (intBits ty - 1) - 1 else 2 ^ intBits ty - 1

/-- An integer source, read from the low bits (R154). -/
def readInt (ty v : Nat) : Int :=
  let x := v % 2 ^ intBits ty
  if signedType ty && x.testBit (intBits ty - 1) then (x : Int) - 2 ^ intBits ty else x

/-- An integer as a destination of its type holds it: 64 bits, or 32 with sign copies above a narrow signed value and zeros above any
other (R154). -/
def writeInt (ty : Nat) (v : Int) : Nat :=
  let low := (v % 2 ^ intBits ty).toNat
  let w := if 64 ≤ intBits ty then 64 else 32
  if signedType ty then ((readInt ty low) % 2 ^ w).toNat else low

def clampInt (ty : Nat) (v : Int) : Int := min (max v (intLo ty)) (intHi ty)

/-- A source as an exact value. -/
def sourceVal (ts v : Nat) : Val :=
  if floatType ts then
    let f := fmtOf ts
    f.val (v % 2 ^ (f.signBit + 1))
  else valOfInt (readInt ts v) 0

/-- Rounds a value to a type under the mode (4: srnd), with the advanced seed (Table 6, R156). -/
def toType (td mode : Nat) (sat : Bool) (v : Val) (seed : Word) : Nat × Word :=
  if floatType td then
    if mode = 4 then (fmtOf td).srnd sat v seed else ((fmtOf td).round mode sat v, seed)
  else
    match v with
    | .nan => (0, seed)
    | .inf neg => (writeInt td (if neg then intLo td else intHi td), seed)
    | .fin neg m e =>
      let n : Int := roundIntegral mode neg m e
      (writeInt td (clampInt td (if neg then -n else n)), seed)

/-- CVT by kind of pair (R155, Table 6). -/
def convert (td ts mode : Nat) (sat : Bool) (v : Nat) (seed : Word) : Nat × Word :=
  if !floatType td && !floatType ts then
    let x := readInt ts v
    (writeInt td (if sat then clampInt td x else x), seed)
  else toType td mode sat (sourceVal ts v) seed

/-! ## The instructions -/

/-- The result of the seed register stands first, so that a converted result in the same register replaces it (R156). -/
def withSeed (rs : Bool) (seedField : Reg) (r : Nat × Word) (vd : Result) : List Result :=
  (if rs then [⟨seedField, 1, r.2.toNat⟩] else []) ++ [vd]

def cvtOp (code : Nat) (o : Ops) (seedField : Ops → Reg) (seed : Src → Nat) (f : Row → Src → Word → Nat × Word) (s : State) :
    Host.Outcome State Fault Refusal :=
  runPass code o noFaults (fun e ls s1 =>
    s1.results e o ls (fun l =>
      let r := f e.row l.src (BitVec.ofNat 32 (seed l.src))
      withSeed (roundCode o = 4) (seedField o) r ⟨o.vd, e.row.vd.width, r.1⟩)) s

def cvtTypesOf (row : Row) (o : Ops) : Nat × Nat := (opType row o, effType (modField o.mod 9 5) row.ty2)

def execCvt (o : Ops) (s : State) : Host.Outcome State Fault Refusal :=
  cvtOp 0x080 o (fun p => p.vs2) (fun x => x.b) (fun row x seed =>
    convert (cvtTypesOf row o).1 (cvtTypesOf row o).2 (roundCode o) (satMod o) x.a seed) s

/-- Width in bits of an element of CVTPK. -/
def elemBits (ty : Nat) : Nat := if ty = 20 then 4 else if ty = 18 || ty = 19 || ty = 1 || ty = 5 then 8 else 16

/-- `v` with the `w` bits at element `i` replaced (R157). -/
def putElem (v w i x : Nat) : Nat :=
  let m : Word := BitVec.ofNat 32 ((2 ^ w - 1) * 2 ^ (w * i))
  ((BitVec.ofNat 32 v &&& ~~~m) ||| BitVec.ofNat 32 (x % 2 ^ w * 2 ^ (w * i))).toNat

def execCvtpk (o : Ops) (s : State) : Host.Outcome State Fault Refusal :=
  cvtOp 0x081 o (fun p => p.vs4) (fun x => x.e) (fun row x seed =>
    let t := cvtTypesOf row o
    let w := elemBits t.1
    let h := modField o.mod 15 14
    let p := convert t.1 t.2 (roundCode o) (satMod o) x.a seed
    let q := convert t.1 t.2 (roundCode o) (satMod o) x.b p.2
    (putElem (putElem x.c w (2 * h) p.1) w (2 * h + 1) q.1, q.2)) s

def execCvts (o : Ops) (s : State) : Host.Outcome State Fault Refusal :=
  cvtOp 0x082 o (fun p => p.vs3) (fun x => x.c) (fun row x seed =>
    let t := cvtTypesOf row o
    toType t.1 (roundCode o) true ((sourceVal t.2 x.a).mul (sourceVal 15 x.b)) seed) s

end Sys2Proof.Machine
end

