-- ==== Sys2Proof/Machine/LaneEx.lean ====
section
/-!
DEFINITION. Lane exchange (R159 to R163) and the PASS records of passes whose composition matters (R159, R331).
-/
namespace Sys2Proof.Machine

/-! ## PASS records -/

def laneMask (ts : List Nat) : Nat := ts.foldl (fun m t => m + 2 ^ t) 0

/-- Writes the PASS record of a pass in record mode (R331, Table 3); in replay the pass consumes its record (R334, R452). -/
def State.recordPass (s : State) (p : Pass) : State :=
  let n := s.coreOf p.crew.block
  let t := p.crew.thread (p.lanes.headD 0)
  if s.replays p.crew.g then
    match s.chunkOwn t 4 with
    | some r =>
      if r.2.pch = pcHash p.pc then s.modRRec r.1 r.2.index (fun y => { y with complete := true })
      else s.divergeAt t 3 3 p.pc (r.2.mask.truncate 64) (BitVec.ofNat 64 (laneMask p.lanes)) (own := some r.2)
    | none => s.divergeAt t 3 3 p.pc 0 (BitVec.ofNat 64 (laneMask p.lanes))
  else s.putOne p.crew.g (n / 96) true
    [slotOfFields [(0, 4), (4, n % 96), (11, s.slotOf p.crew), (48, (pcHash p.pc).toNat)], BitVec.ofNat 128 (laneMask p.lanes)]

/-- The PASS record of the pass in focus, where `logs`, before anything of the pass: it stands in front of the records of the chunks that the pass ends by
traps (R159, R332). -/
def State.logPass (s : State) (logs : Pass → Bool) : State :=
  match s.focus with
  | .pass p => if logs p then s.recordPass p else s
  | _ => s

/-- The value that a lane puts into the exchange is poisoned (R382). -/
def poisonedValue (row : Row) (o : Ops) (l : Lane) : Bool := poisonedOperand row.vs1 o.vs1 l.t

/-- A lane that takes a poisoned value and holds no poison record takes that of the value's lane, the lowest where there are several: the load that set the poison
(R376, R381, R382; DEDUCED, log entry 72). -/
def State.lendRecord (s : State) (row : Row) (o : Ops) (from_ : List Lane) (l : Lane) : State :=
  match (from_.filter (poisonedValue row o)).findSome? (fun x => x.t.poisonRec) with
  | some r => s.modThread l.ref (fun t => { t with poisonRec := t.poisonRec.or (some r) })
  | none => s

/-- A lane-exchange instruction: each active lane's result from all active lanes (none leaves the destination unchanged), and the lanes
whose values it takes, from which poison travels (R382). -/
def laneOp (code : Nat) (o : Ops) (f : Row → List Lane → Lane → Option Nat) (takes : List Lane → Lane → List Lane) (s : State) :
    Host.Outcome State Fault Refusal :=
  runPass code o noFaults (fun e ls s1 =>
    let tainted := fun (l : Lane) => (takes ls l).any (poisonedValue e.row o) || poisonedOperand e.row.vs2 o.vs2 l.t
    (ls.foldl (fun (u : State) l => u.lendRecord e.row o (takes ls l) l) s1).results e o (ls.map (fun l => { l with src := { l.src with poisoned := tainted l } })) (fun l =>
      match f e.row ls l with
      | some v => [⟨o.vd, e.row.vd.width, v⟩]
      | none => [])) (s.logPass (fun _ => true))

/-! ## SHFL (R160) -/

/-- The source lane of a lane. -/
def shflSource (mode w lane n : Nat) : Nat :=
  let j := lane % w
  let base := lane - j
  let m := n % w
  match mode with
  | 0 => base + (j + w - m) % w
  | 1 => base + (j ^^^ m)
  | 2 => base + m
  | _ => base + (m + w - j) % w

/-- The active lane from which a lane reads. -/
def shflFrom (o : Ops) (ls : List Lane) (l : Lane) : Option Lane :=
  let src := shflSource (modField o.mod 14 13) (32 / 2 ^ modField o.mod 18 16) l.lane (l.src.b % 32)
  ls.find? (fun x => x.lane == src)

def execShfl (o : Ops) (s : State) : Host.Outcome State Fault Refusal :=
  laneOp 0x088 o (fun _ ls l => (shflFrom o ls l).map (fun x => x.src.a)) (fun ls l => (shflFrom o ls l).toList) s

/-! ## VOTE (R161) -/

def voteResult (mode : Nat) (lanes : List Nat) : Nat :=
  match mode with
  | 0 => laneMask lanes
  | 1 => lanes.length
  | 2 => lanes.foldl min 32
  | _ => if lanes.isEmpty then 32 else lanes.foldl max 0

def execVote (o : Ops) (s : State) : Host.Outcome State Fault Refusal :=
  laneOp 0x089 o (fun _ ls _ =>
    some (voteResult (modField o.mod 14 13) ((ls.filter (fun x => x.src.a.testBit (modField o.mod 19 15))).map (fun x => x.lane))))
    (fun ls _ => ls) s

/-! ## REDUX (R162) -/

def reduxId (op ty : Nat) : Nat :=
  match op with
  | 1 => if ty = 3 then 0x7FFFFFFF else 0xFFFFFFFF
  | 2 => if ty = 3 then 0x80000000 else 0
  | 3 => 0xFFFFFFFF
  | _ => 0

def reduxOp (op ty a b : Nat) : Nat :=
  match op with
  | 0 => (a + b) % 2 ^ 32
  | 1 => if ext32 ty a ≤ ext32 ty b then a else b
  | 2 => if ext32 ty a ≤ ext32 ty b then b else a
  | 3 => a &&& b
  | 4 => a ||| b
  | _ => a ^^^ b

/-- The lanes that the result of lane `l` covers: kinds 0 `.all`, 1 `.incl`, 2 `.excl`. -/
def reduxCovers (kind w l x : Nat) : Bool :=
  l / w == x / w && (match kind with
    | 0 => true
    | 1 => x ≤ l
    | _ => x < l)

def reduxLanes (o : Ops) (ls : List Lane) (l : Lane) : List Lane :=
  ls.filter (fun x => reduxCovers (modField o.mod 19 18) (32 / 2 ^ modField o.mod 17 16) l.lane x.lane)

def execRedux (o : Ops) (s : State) : Host.Outcome State Fault Refusal :=
  laneOp 0x08A o (fun row ls l =>
    let ty := opType row o
    let op := modField o.mod 15 13
    some ((reduxLanes o ls l).foldl (fun n x => reduxOp op ty n x.src.a) (reduxId op ty))) (reduxLanes o) s

/-! ## ELECT (R163) -/

def execElect (o : Ops) (s : State) : Host.Outcome State Fault Refusal :=
  laneOp 0x08B o (fun _ ls l =>
    some (putBit l.src.d (modField o.mod 19 15) (!ls.any (fun x => x.lane < l.lane && x.src.a == l.src.a))))
    (fun ls _ => ls) s

end Sys2Proof.Machine
end

