-- ==== Sys2Proof/Machine/Control.lean ====
section
/-!
DEFINITION. Control (R130 to R136) and the trap instructions (R383 to R386).
-/
namespace Sys2Proof.Machine

/-! ## Transfers (R130, R131) -/

/-- The target of a PC-relative form: signed 4-byte words from the instruction. -/
def relTarget (pc : DWord) (o : Ops) : DWord := pc + (immSext o <<< 2)

/-- The target that a register pair holds, bits 1:0 read as zero. -/
def regTarget (v : Nat) : DWord := BitVec.ofNat 64 (v / 4 * 4)

/-- Pushes a link on the return hint stack of 8 entries (R132). -/
def Thread.pushHint (t : Thread) (link : DWord) : Thread := { t with hints := (link :: t.hints).take 8 }

/-- A control transfer: the new PC and the thread's further change of each lane that executes it, and the trace of the pass (R351). -/
def transfer (code : Nat) (o : Ops) (indirect : Bool) (target : Env → Lane → DWord) (also : Env → Thread → Thread) (link : Bool) (s : State) :
    Host.Outcome State Fault Refusal :=
  runPass code o noFaults (fun e ls s1 =>
    let next := e.pass.pc + BitVec.ofNat 64 (lenBytes o.len)
    let s2 := s1.onLanes ls (fun l t => { also e t with pc := target e l })
    let s3 := if link then s2.results e o ls (fun _ => [⟨o.vd, 2, next.toNat⟩]) else s2.flagPends e o ls 1
    s3.traceBranch e.pass.crew e.pass.pc (Guard.always o.guard) indirect
      ((e.issuing o (fun _ => [])).map (fun l => (l.ref.t, l.exec, target e l)))) s

def linkOf (e : Env) (o : Ops) : DWord := e.pass.pc + BitVec.ofNat 64 (lenBytes o.len)

def execBra (o : Ops) (s : State) : Host.Outcome State Fault Refusal :=
  transfer 0x0C0 o false (fun e _ => relTarget e.pass.pc o) (fun _ t => t) false s

def execBrx (o : Ops) (s : State) : Host.Outcome State Fault Refusal :=
  transfer 0x0C1 o true (fun _ l => regTarget l.src.a) (fun _ t => t) false s

def execCall (o : Ops) (s : State) : Host.Outcome State Fault Refusal :=
  transfer 0x0C2 o false (fun e _ => relTarget e.pass.pc o) (fun e t => t.pushHint (linkOf e o)) true s

def execCallx (o : Ops) (s : State) : Host.Outcome State Fault Refusal :=
  transfer 0x0C3 o true (fun _ l => regTarget l.src.a) (fun e t => t.pushHint (linkOf e o)) true s

def execRet (o : Ops) (s : State) : Host.Outcome State Fault Refusal :=
  transfer 0x0C4 o true (fun _ l => regTarget l.src.a) (fun _ t => { t with hints := t.hints.drop 1 }) false s

/-! ## MEET, REGION, NOP -/

def execMeet (o : Ops) (s : State) : Host.Outcome State Fault Refusal :=
  runPass 0x0C6 o noFaults (fun e ls s1 =>
    (s1.onLanes ls (fun _ t => { t with meet := some (relTarget e.pass.pc o), meetAt := none })).flagPends e o ls 1) s

/-- REGION (R133): the close is the pass's condition to issue; entering the next region is part of every issue (R42). -/
def execRegion (o : Ops) (s : State) : Host.Outcome State Fault Refusal :=
  runPass 0x0C7 o noFaults (fun e ls s1 => s1.flagPends e o ls 1) s

def execNop (o : Ops) (s : State) : Host.Outcome State Fault Refusal :=
  runPass 0x0C8 o noFaults (fun e ls s1 => s1.flagPends e o ls 1) s

/-! ## EXIT (R134) -/

def Barrier.open_ (b : Barrier) : Bool := !b.arr.isEmpty

/-- Looks again, once this cycle is over, at every barrier of a block, its group and its grid that holds arrivals (R186, R404). -/
def State.pokeBars (s : State) (b : BRef) : State :=
  let blk := (((s.block? b).map (fun x => x.bars)).getD []).mapIdx (fun i x => (BarRef.blk b.g b.k i, x))
  let sec := (((s.group? b.g).map (fun x => x.bars)).getD []).mapIdx (fun i x => (BarRef.sec b.g i, x))
  let dev := match s.launchOf b.g with
    | some l => l.bars.mapIdx (fun i x => (BarRef.dev l.idx i, x))
    | none => []
  ((blk ++ sec ++ dev).filter (fun x => x.2.open_)).foldl (fun u x => u.atStart (.barrierPhaseComplete x.1)) s

/-- The DIGEST record of a crew that has ended; in replay its digest is compared with the record's (R336, R452). -/
def State.recordDigest (s : State) (c : CRef) : State :=
  let n := s.coreOf c.block
  let d := (s.crew? c).elim 0 Crew.digest
  if s.replays c.g then
    match (List.range 6).findSome? (fun h => ((s.hub h).recd.replay.find? (fun r =>
        r.kind == 0xA && r.block == s.blockIndex c.block && r.crew == c.c && !r.complete)).map (fun r => (h, r))) with
    | some r =>
      let s1 := s.modRRec r.1 r.2.index (fun y => { y with complete := true })
      let x := s.thread? (c.thread 0)
      if r.2.value = d then s1
      else s1.diverge r.1 (c.thread 0) 4 0 r.2.ident (r.2.index / 4) (x.elim 0 Thread.o) 0 0 0 (pcHash (x.elim 0 Thread.pc)) r.2.value d
    | none => s
  else s.putOne c.g (n / 96) true
    [slotOfFields [(0, 0xA), (4, n % 96), (11, s.slotOf c), (64, ((s.crew? c).elim 0 Crew.digest).toNat)]]

/-- A crew all of whose threads have exited gives up its slot and registers; the block is looked at for its end (R134). -/
def State.crewEnd (s : State) (c : CRef) : State :=
  match s.crew? c with
  | none => s
  | some x =>
    if x.released || !x.threads.all (fun t => t.exited) then s
    else ((s.recordDigest c).traceFlush c).modCrew c (fun y => { y with released := true }) |>.schedule 0 (.event (.blockEnd c.block))

/-- The thread leaves its crew; its chunk ends at the EXIT. -/
def Thread.leave (t : Thread) (pc : DWord) : Thread :=
  { t with exited := true, pc := pc, meet := none, meetAt := none, chunkStart := t.issued, wait := .none }

def execExit (o : Ops) (s : State) : Host.Outcome State Fault Refusal :=
  runPass 0x0C5 o noFaults (fun e ls s1 =>
    let ends := ls.filterMap (fun l => (s1.thread? l.ref).map (fun t =>
      ({ ref := l.ref, clock := t.o, count := t.chunkCount, pch := pcHash e.pass.pc, trap := false } : ChunkEnd)))
    let latest := ls.filterMap (fun l => (s1.thread? l.ref).map (fun t => t.s))
    let s1' := if s1.replays e.pass.crew.g then
        ls.foldl (fun (u : State) l =>
          if 0 < ((u.thread? l.ref).map Thread.left).getD 0 then u.divergeAt l.ref 2 0 e.pass.pc 0 0 else u.endChunk l.ref e.pass.pc) s1
      else s1
    let s2 := (s1'.onLanes ls (fun _ t => t.leave e.pass.pc)).putChunks true ends
    let s3 := match s2.group? e.pass.crew.g with
      | some g => s2.modLaunch g.launch (fun l => { l with endS := smaxList l.endS latest })
      | none => s2
    (s3.pokeBars e.pass.crew.block).crewEnd e.pass.crew) s

/-! ## TRAP, RESUME, CLRP (R383 to R386) -/

/-- TRAP (R384): a class 6 issue fault, after every class 1 code (R393). -/
def execTrap (o : Ops) (s : State) : Host.Outcome State Fault Refusal :=
  runPass 0x0C9 o (fun _ l =>
    [⟨256 + o.vd.num.toNat, mkCause 6 o.vd.num.toNat 0 false false, if satMod o then BitVec.ofNat 64 l.src.a else 0⟩])
    (fun _ _ s1 => s1) s

/-- What RESUME.next finds at `$trappc`: the length that bits 1:0 of the word give, or the fault of the fetch (R385). -/
def State.resumeLen (s : State) (e : Env) (t : Thread) : AFault ⊕ (Nat × State) :=
  match s.fetch e.core (s.asidOf e.pass.crew.g) (alignPc t.trappc) with
  | .inl f => .inl f
  | .inr (bs, s1) =>
    let code := ((bs[0]?).getD 0).toNat % 4
    .inr (if code = 0 then 8 else if code = 1 then 12 else if code = 2 then 16 else 4, s1)

def execResume (o : Ops) (s : State) : Host.Outcome State Fault Refusal :=
  let mode := modField o.mod 14 13
  runPass 0x0CA o (fun e l =>
    (if l.t.handler then [] else [class1 4 0 0])
    ++ (if mode = 1 && l.t.handler then
          match s.resumeLen e l.t with
          | .inl f => [⟨0, mkCause 2 f.code (f.detail + 3) false false, l.t.trappc⟩]
          | .inr _ => []
        else []))
    (fun e ls s1 =>
      (ls.foldl (fun (u : State) l =>
        match (if mode = 1 then u.resumeLen e l.t else .inr (0, u)) with
        | .inl _ => u
        | .inr (n, v) =>
          let w := v.modThread l.ref (fun t => t.resume mode n)
          if l.t.later.isEmpty then w else w.soon (.trapDelivery l.ref)) s1).flagPends e o ls 1) s

/-- CLRP clears all poison, CLRP.one that of one register (R386). -/
def execClrp (o : Ops) (s : State) : Host.Outcome State Fault Refusal :=
  runPass 0x0CB o noFaults (fun e ls s1 =>
    (s1.onLanes ls (fun _ t =>
      { t with poison := if satMod o then t.poison.filter (fun q => q != o.vd.num) else [] }.tidyPoison)).flagPends e o ls 1) s

end Sys2Proof.Machine
end

