-- ==== Sys2Proof/Machine/Line.lean ====
section
/-!
DEFINITION. The copies of a line (R265): L1, L3 home and scratchpad; their transfers (R249, R250, R266, R268, R269), update-only lines and
their conversion (R253, R254), and the marks of a checkpoint (R339).
-/
namespace Sys2Proof.Machine

/-- Where an access is performed (R167). -/
inductive Loc where
  | home (l : LineId)
  | l1 (core : Nat) (l : LineId)
  | pad (b : BRef) (line : Nat)
  deriving DecidableEq, Repr

/-! ## Home lines -/

def HomeLine.fresh (l : LineId) (sc : Word) : HomeLine :=
  { line := l, stamp := settledStamp sc, uo := none, holders := [], spilled := false, used := 0, staged := [], bad := none, badUnit := 0 }

/-- The home line; one that lies in HBM fills settled (R257). -/
def State.homeLine (s : State) (l : LineId) : HomeLine :=
  (s.l3.find? (fun h => h.line == l)).getD (HomeLine.fresh l (s.hub l.hub).sc)

/-- The settle clock that takes in a stamp's WO and RO. -/
def absorb (sc : Word) (l : Stamp) : Word := smax (smax sc l.wo) l.ro

/-- What L3 holds for a line beside its bytes and stamp keeps it there. -/
def HomeLine.pinned (h : HomeLine) : Bool := h.uo.isSome || !h.holders.isEmpty || h.spilled || !h.staged.isEmpty || h.bad.isSome

/-- The line goes to HBM and its stamp into the settle clock (R257). -/
def State.evictL3 (s : State) (l : LineId) : State :=
  match s.l3.find? (fun h => h.line == l) with
  | none => s
  | some h =>
    if h.pinned then s
    else { s with l3 := s.l3.filter (fun y => y.line != l) }.modHub l.hub (fun u => { u with sc := absorb u.sc h.stamp })

/-- Lines that the L3 slice of a hub holds, each with its stamp: 256 MiB of data, 64 MiB of stamps (R21). -/
def sliceLines : Nat := 2097152

/-- A full slice gives up a line that nothing keeps there (R21, R257; log entry 69). -/
def State.l3Room (s : State) (hub : Nat) : State :=
  if (s.l3.filter (fun h => h.line.hub == hub)).length < sliceLines then s
  else
    let free := s.l3.filter (fun h => h.line.hub == hub && !h.pinned)
    match free[Config.victimPick s.fresh % max 1 free.length]? with
    | some h => { s with fresh := s.fresh + 1 }.evictL3 h.line
    | none => s

/-- Changes a home line; one that lies in HBM is filled first (R257). -/
def State.modHome (s : State) (l : LineId) (f : HomeLine → HomeLine) : State :=
  if s.l3.any (fun h => h.line == l) then { s with l3 := s.l3.map (fun h => if h.line = l then f h else h) }
  else
    let u := s.l3Room l.hub
    { u with l3 := u.l3 ++ [f (HomeLine.fresh l (u.hub l.hub).sc)] }

/-- Bytes of a home line, without a write. -/
def State.homePut (s : State) (l : LineId) (off : Nat) (bs : List Byte) : State := { s with mem := s.mem.writeN (l.key + off) bs }

/-- Writes bytes of a home line; a memory-poisoned line counts them (R414). -/
def State.homeRaw (s : State) (l : LineId) (off : Nat) (bs : List Byte) : State :=
  let s2 := s.homePut l off bs
  if (s2.homeLine l).bad.isNone then s2
  else s2.modHome l (fun h =>
    let m := h.bad.map (fun b => b ||| BitVec.ofNat 128 ((2 ^ bs.length - 1) * 2 ^ off))
    { h with bad := if m = some (BitVec.allOnes 128) then none else m })

/-- A home stamps a line: its high-water clock takes in the clocks (R258). -/
def State.setHomeStamp (s : State) (l : LineId) (st : Stamp) : State :=
  ((s.modHome l (fun h => { h with stamp := st })).noteClock l.hub st.wo).noteClock l.hub (smax st.ws (smax st.ro st.rs))

/-! ## Partials (R108, R253) -/

/-- Bytes of a memory element of a type code. -/
def memBytes (ty : Nat) : Nat := if wideType ty then 8 else if ty = 16 || ty = 17 then 2 else 4

/-- An element as an integer of its type: signed for `.s32` and `.s64`. -/
def elemInt (ty v : Nat) : Int :=
  if ty = 3 then (BitVec.ofNat 32 v).toInt else if ty = 4 then (BitVec.ofNat 64 v).toInt else v

/-- The integer operations of Table 6 with codes 0 to 6. -/
def intOp (op ty a b : Nat) : Nat :=
  let n := 2 ^ (8 * memBytes ty)
  match op with
  | 0 => (a + b) % n
  | 1 => (a + (n - b % n)) % n
  | 2 => if elemInt ty a ≤ elemInt ty b then a else b
  | 3 => if elemInt ty a ≤ elemInt ty b then b else a
  | 4 => a &&& b
  | 5 => a ||| b
  | _ => a ^^^ b

/-- One contribution to an element (R108). -/
def Elem.contribute (op ty : Nat) (x : Option Elem) (v : Nat) : Elem :=
  match x with
  | none => if op = 11 then .fl (Accum.zero.add ((fmtOf ty).val v)) else .int (BitVec.ofNat 64 v)
  | some (.fl a) => .fl (a.add ((fmtOf ty).val v))
  | some (.int w) => .int (BitVec.ofNat 64 (intOp op ty w.toNat v))

def Elem.merge (op ty : Nat) (x y : Elem) : Elem :=
  match x, y with
  | .fl a, .fl b => .fl (a.merge b)
  | .int a, .int b => .int (BitVec.ofNat 64 (intOp op ty a.toNat b.toNat))
  | _, _ => x

def Partial.find (p : Partial) (i : Nat) : Option Elem := (p.elems.find? (fun e => e.1 == i)).map (fun e => e.2)

def Partial.put (p : Partial) (i : Nat) (x : Elem) : Partial := { p with elems := (i, x) :: p.elems.filter (fun e => e.1 != i) }

def Partial.contribute (p : Partial) (i v : Nat) : Partial := p.put i (Elem.contribute p.op p.ty (p.find i) v)

def Partial.merge (p q : Partial) : Partial :=
  q.elems.foldl (fun r e => r.put e.1 (match r.find e.1 with
    | some x => Elem.merge r.op r.ty x e.2
    | none => e.2)) p

def mergePartials (a b : Option Partial) : Option Partial :=
  match a, b with
  | some x, some y => some (x.merge y)
  | some x, none => some x
  | none, y => y

/-- What an element converts to with the value in memory, and whether its OVF flag is set (R109, R417). -/
def Elem.convert (op ty : Nat) (x : Elem) (old : Nat) : Nat × Bool :=
  match x with
  | .fl a => let b := a.add ((fmtOf ty).val old); (b.convert (fmtOf ty), b.ovf)
  | .int v => (intOp op ty old v.toNat, false)

/-! ## L1 -/

def State.l1Line (s : State) (c : Nat) (l : LineId) : Option L1Line := (s.core c).l1.find? (fun x => x.line == l)

def State.modL1 (s : State) (c : Nat) (l : LineId) (f : L1Line → L1Line) : State :=
  s.modCore c (fun k => { k with l1 := k.l1.map (fun x => if x.line = l then f x else x) })

/-- Marks the line most recently used. -/
def State.touchL1 (s : State) (c : Nat) (l : LineId) : State :=
  s.modCore c (fun k => { k with l1 := k.l1.filter (fun x => x.line == l) ++ k.l1.filter (fun x => x.line != l) })

def State.removeL1 (s : State) (c : Nat) (l : LineId) : State :=
  s.modCore c (fun k => { k with l1 := k.l1.filter (fun x => x.line != l) })

/-- The op and type of an update-only line, from its buffer or a holder's partial. -/
def State.uoKind (s : State) (l : LineId) : Option (Nat × Nat) :=
  let h := s.homeLine l
  match h.uo with
  | some p => some (p.op, p.ty)
  | none => h.holders.findSome? (fun c => ((s.l1Line c l).bind (fun x => x.part)).map (fun p => (p.op, p.ty)))

/-! ## Combine-unit buffers and the spill area (R253) -/

/-- Buffers that the partials of a line take: two for 16-bit elements (R108). -/
def bufferNeed (ty : Nat) : Nat := if memBytes ty = 2 then 2 else 1

def HomeLine.bufferNeed (x : HomeLine) (ty : Nat) : Nat := Machine.bufferNeed ((x.uo.map (fun p => p.ty)).getD ty)

/-- Buffers in use at a hub. -/
def State.buffers (s : State) (h : Nat) : Nat :=
  ((s.l3.filter (fun x => x.line.hub == h && x.uo.isSome && !x.spilled)).map (fun x => x.bufferNeed 3)).sum

/-- The least recently used line that holds a buffer of hub `h` (R253). -/
def State.lruBuffer (s : State) (h : Nat) : Option HomeLine :=
  match s.l3.filter (fun x => x.line.hub == h && x.uo.isSome && !x.spilled) with
  | [] => none
  | x :: xs => some (xs.foldl (fun a b => if b.used < a.used then b else a) x)

/-- Spill entries that a line with partials of type `ty` takes to have its buffers: none where they are free, else one or two lines are
spilled. -/
def State.spillNeed (s : State) (l : LineId) (ty : Nat) : Nat :=
  let h := s.homeLine l
  let need := s.buffers l.hub + h.bufferNeed ty
  if (h.uo.isSome && !h.spilled) || need ≤ 8192 then 0
  else if need ≤ 8192 + ((s.lruBuffer l.hub).map (fun x => x.bufferNeed 3)).getD 0 then 1 else 2

/-- Spill entries that are free for a line: a spilled line gives its own back. -/
def State.spillFree (s : State) (l : LineId) : Nat := (s.hub l.hub).spill + (if (s.homeLine l).spilled then 1 else 0)

/-- Whether a line with partials of type `ty` can have its buffers: the spill area has entries for the lines that must leave theirs. -/
def State.canBuffer (s : State) (l : LineId) (ty : Nat) : Bool := s.spillNeed l ty ≤ s.spillFree l

/-- The spill area of a hub is found full (ESTAT bit 3, Table 2 of 22_memory_faults.md; log entry 20). -/
def State.noteFull (s : State) (h : Nat) : State := s.modSect h (fun y => { y with estat := y.estat ||| 8 })

/-- Spills the least recently used line of a hub, exactly (R253). -/
def State.spillOne (s : State) (h : Nat) : State :=
  match s.lruBuffer h with
  | none => s
  | some v => (s.modHome v.line (fun y => { y with spilled := true })).modHub h (fun u => { u with spill := u.spill - 1 })

/-- Gives a line its buffers, spilling others where none are free; a spilled line that returns gives its entry back. -/
def State.takeBuffer (s : State) (l : LineId) (ty : Nat) : State :=
  let s1 := s.modHub l.hub (fun u => { u with spill := s.spillFree l })
  let s2 := (List.range (s.spillNeed l ty)).foldl (fun (u : State) _ => u.spillOne l.hub) s1
  { s2.modHome l (fun y => { y with spilled := false, used := s2.serial }) with serial := s2.serial + 1 }

/-- Operations that wait for a spill entry look again (R418). -/
def State.spillFreed (s : State) : State :=
  (s.allBlocks).foldl (fun (u : State) b =>
    (b.2.allCrews b.1).foldl (fun (v : State) c =>
      (c.2.allThreads c.1).foldl (fun (w : State) t =>
        t.2.pend.foldl (fun (x : State) p =>
          match p.todo with
          | some a => (match a.kind with
            | .red _ _ => x.schedule 0 (.event (.spillEntryFree t.1 p.id))
            | _ => x)
          | none => x) w) v) u) s

/-! ## Merging copies into the home -/

/-- The home stamp after a partial's stamp merges in (R174): mergeRed with an earlier reduction's stamp, else the copy's with no clock
lowered. -/
def mergeCopyStamp (home copy : Stamp) (uo : Bool) : Stamp :=
  if uo || home.wkind == 2 then mergeRed home copy
  else { copy with wo := smax home.wo copy.wo, ro := smax (smax home.ro copy.ro) (smax home.wo copy.wo) }

/-- Merges a core's Update-only copy into the home and drops it (R249, R253). A spilled line whose buffers would take more entries than the spill area has
keeps its own, which takes the contribution in place: a merge that an L1 makes cannot wait (log entry 20). -/
def State.mergeUo (s : State) (c : Nat) (l : LineId) : State :=
  match s.l1Line c l with
  | none => s
  | some x =>
    if x.st != .updateOnly then s
    else
      let ty := (x.part.map (fun p => p.ty)).getD 3
      let s1 := if s.canBuffer l ty then s.takeBuffer l ty else s
      let h := s1.homeLine l
      let s2 := s1.setHomeStamp l (mergeCopyStamp h.stamp x.stamp (h.uo.any (fun p => !p.elems.isEmpty)))
      (s2.modHome l (fun y => { y with uo := mergePartials y.uo x.part, holders := y.holders.filter (· != c) })).removeL1 c l

/-- Puts the converted elements of a partial over the bytes in memory; that is no write, so a memory-poisoned line stays so (R414, R419). -/
def State.convertElems (s : State) (l : LineId) (p : Partial) : List (Nat × Elem) → State × Bool
  | [] => (s, false)
  | e :: es =>
    let n := memBytes p.ty
    let r := Elem.convert p.op p.ty e.2 (leNat (s.mem.readN (l.key + n * e.1) n))
    let t := State.convertElems (s.homePut l (n * e.1) (leBytes n r.1)) l p es
    (t.1, r.2 || t.2)

/-- The conversion of an update-only line (R254): recall, merge, convert, free the buffer. Answers whether an element had OVF set, which
also sets ESTAT and EADDR (R417). -/
def State.convertLine (s : State) (l : LineId) : State × Bool :=
  let s1 := (s.homeLine l).holders.foldl (fun u c => u.mergeUo c l) s
  let h := s1.homeLine l
  match h.uo with
  | none => (s1, false)
  | some p =>
    let r := s1.convertElems l p p.elems
    let s2 := r.1.modHome l (fun y => { y with uo := none, spilled := false, holders := [] })
    let s3 := if h.spilled then (s2.modHub l.hub (fun u => { u with spill := u.spill + 1 })).spillFreed else s2
    (if r.2 then s3.modSect l.hub (fun y => { y with estat := y.estat ||| 4, eaddr := BitVec.ofNat 64 (3 * 2 ^ 48 + l.pa) }) else s3, r.2)

/-! ## Checkpoint marks (R339) -/

/-- A checkpoint has the line marked. -/
def State.marked (s : State) (l : LineId) : Bool := s.coxes.any (fun c => c.ckpts.any (fun k => k.marks.any (fun m => m.1 == l)))

/-- Before a write to a marked line its cut-time bytes, converted where it is update-only, go to DATA and its mark clears (R339). The bytes of a
memory-poisoned line cannot be read: the copy fails for its context (R414, R445). -/
def State.saveMark (s : State) (l : LineId) : State :=
  let s0 := if s.marked l && (s.uoKind l).isSome then (s.convertLine l).1 else s
  let bad := (s0.homeLine l).bad.isSome
  s0.coxes.foldl (fun (u : State) c =>
    c.ckpts.foldl (fun (v : State) k =>
      match k.marks.find? (fun m => m.1 == l) with
      | none => v
      | some m =>
        (if bad then v.schedule 0 (.event (.checkpointLineCopy c.id)) else v.physWrite m.2.toNat (v.lineBytes l)).modCox c.id (fun y =>
          { y with ckpts := y.ckpts.map (fun (q : Ckpt) =>
              if q.packet = k.packet then { q with marks := q.marks.filter (fun (x : LineId × DWord) => x.1 != l),
                                                   lost := if bad then q.lost.or (some l.pa) else q.lost } else q) })) u) s0

/-- Writes bytes of a home line. -/
def State.homeWrite (s : State) (l : LineId) (off : Nat) (bs : List Byte) : State := (s.saveMark l).homeRaw l off bs

/-! ## Races of a write-back (R422, R427, R429) -/

/-- The 64 bytes of a race record (Table 4 of 23_race_faults.md). -/
structure RaceRec where
  kind : Nat
  flags : Nat
  acc : Nat
  oth : Nat
  id : Word
  pc : DWord
  ea : DWord
  oid : Word
  opc : Word
  s : Word
  os : Word
  o : Word
  oo : Word
  launch : DWord
  block : Nat
  deriving DecidableEq, Repr

def RaceRec.bytes (r : RaceRec) : List Byte :=
  leBytes 1 r.kind ++ leBytes 1 r.flags ++ leBytes 1 r.acc ++ leBytes 1 r.oth ++ leBytes 4 r.id.toNat ++ leBytes 8 r.pc.toNat
    ++ leBytes 8 r.ea.toNat ++ leBytes 4 r.oid.toNat ++ leBytes 4 r.opc.toNat ++ leBytes 4 r.s.toNat ++ leBytes 4 r.os.toNat
    ++ leBytes 4 r.o.toNat ++ leBytes 4 r.oo.toNat ++ leBytes 8 r.launch.toNat ++ leBytes 8 r.block

/-- The ASIDs with an open launch that looks for races: RACE not zero (R427), or a replay (R340). -/
def State.racingAsids (s : State) : List (BitVec 16) :=
  ((s.launches.filter (fun l => l.isOpen && racesOn l.p.modes)).map (fun l => l.asid)).eraseDups

/-- Reports LOST when a write-back replaces home updates (R422). -/
def State.lostCheck (s : State) (l : LineId) (x : L1Line) : State :=
  let h := (s.homeLine l).stamp
  if (h.w != x.keptW || h.wo != x.keptWO) && !above x.stamp.ws h.ws then
    let tag := (s.party x.stamp.w).tag
    let r : RaceRec := { kind := 5, flags := 64, acc := 1, oth := h.wkind.toNat + 4 * h.wscope.toNat + (if h.rel then 32 else 0),
                         id := x.stamp.w, pc := x.stamp.wpc.zeroExtend 64, ea := BitVec.ofNat 64 l.pa, oid := h.w, opc := h.wpc,
                         s := x.stamp.ws, os := h.ws, o := x.stamp.wo, oo := h.wo, launch := (tag.map (fun t => t.launch)).getD 0,
                         block := (tag.map (fun t => t.block + t.crew * 2 ^ 56)).getD 0 }
    s.racingAsids.foldl (fun u a => u.raceLog a r.bytes none) s
  else s

/-! ## Write-back, drop, fill (R250) -/

/-- Writes the masked bytes of a copy to the home. -/
def State.writeMasked (s : State) (l : LineId) (mask : BitVec 128) (i : Nat) : List Byte → State
  | [] => s
  | b :: bs => State.writeMasked (if mask.getLsbD i then s.homeWrite l i [b] else s) l mask (i + 1) bs

/-- Writes back a Dirty-block copy, which is then Shared with the merged stamp; an update-only home is converted first (log entry 18). -/
def State.writeBack (s : State) (c : Nat) (l : LineId) : State :=
  match s.l1Line c l with
  | none => s
  | some x =>
    if x.st != .dirty then s
    else
      let s1 := if (s.uoKind l).isSome then (s.convertLine l).1 else s
      let s2 := (s1.lostCheck l x).writeMasked l x.mask 0 x.data
      let st := mergeWriteBack (s2.homeLine l).stamp x.stamp
      (s2.setHomeStamp l st).modL1 c l (fun y =>
        { y with st := .shared, mask := 0, stamp := st, readDirty := false, keptW := st.w, keptWO := st.wo })

/-- Drops a core's copy, sending what the home lacks: written bytes, partials, or the read fields of a Shared copy. -/
def State.dropL1 (s : State) (c : Nat) (l : LineId) : State :=
  match s.l1Line c l with
  | none => s
  | some x =>
    match x.st with
    | .updateOnly => s.mergeUo c l
    | .dirty => (s.writeBack c l).removeL1 c l
    | .shared =>
      let s1 := if x.readDirty then s.setHomeStamp l (mergeReads (s.homeLine l).stamp x.stamp) else s
      s1.removeL1 c l

/-- The set of a line (R249). -/
def LineIdSet (l : LineId) : Nat := (6 * l.q + l.hub) % 128

/-- Evicts: the tag goes to the victim array (R287). -/
def State.evictL1 (s : State) (c : Nat) (l : LineId) : State :=
  let filler := ((s.l1Line c l).map (fun x => x.filler)).getD 0
  (s.dropL1 c l).modCore c (fun k => { k with victims := ((l, filler) :: k.victims).take 512 })

/-- Makes room in the set of `l`: the least recently used of 16 lines leaves. -/
def State.makeRoom (s : State) (c : Nat) (l : LineId) : State :=
  let same := (s.core c).l1.filter (fun x => LineIdSet x.line == LineIdSet l)
  if same.length < 16 then s
  else match same.getLast? with
    | some x => s.evictL1 c x.line
    | none => s

/-- An L1 miss of a line evicted earlier for the same quarter counts one lost-locality event; the score halves at the multiples of 1,024 cycles since reset
(R287; the phase is the model's choice, log entry 11). -/
def State.countMiss (s : State) (c q : Nat) (l : LineId) : State :=
  if (s.core c).victims.contains (l, q) then
    let fresh := (((s.core c).quarters[q]?).map (fun z => z.score == 0)).getD true
    let s1 := s.modCore c (fun k => { k with victims := k.victims.erase (l, q),
                                             quarters := k.quarters.modify q (fun z => { z with score := min 1023 (z.score + 1) }) })
    if fresh then s1.atCycle ((s.cycle / 1024 + 1) * 1024) (.throttleScoreHalve c q) else s1
  else s

/-- Fills a line into L1 from its home. -/
def State.fillL1 (s : State) (c q : Nat) (l : LineId) : State :=
  if (s.l1Line c l).isSome then s.touchL1 c l
  else
    let s1 := ((s.countMiss c q l).makeRoom c l).modHome l (fun h => h)
    let h := s1.homeLine l
    let x : L1Line := { line := l, st := .shared, data := s1.lineBytes l, mask := 0, stamp := h.stamp, readDirty := false, keptW := h.stamp.w,
                        keptWO := h.stamp.wo, part := none, filler := q }
    s1.modCore c (fun k => { k with l1 := x :: k.l1 })

/-- After a core's access at the home, its copy takes the home's bytes and stamp (R250). -/
def State.refreshL1 (s : State) (c : Nat) (l : LineId) : State :=
  let h := s.homeLine l
  s.modL1 c l (fun x =>
    if x.st = .updateOnly then x
    else { x with st := .shared, data := s.lineBytes l, mask := 0, stamp := h.stamp, readDirty := false, keptW := h.stamp.w, keptWO := h.stamp.wo })

/-! ## Releases and acquires over a core's L1 (R181, R268) -/

def State.writeBackAll (s : State) (c : Nat) : State := ((s.core c).l1.map (fun x => x.line)).foldl (fun u l => u.writeBack c l) s

def State.mergeAllUo (s : State) (c : Nat) : State := ((s.core c).l1.map (fun x => x.line)).foldl (fun u l => u.mergeUo c l) s

/-- What a release at `.sec` or wider and a block end write to the homes (R181, R269). -/
def State.releaseL1 (s : State) (c : Nat) : State := (s.writeBackAll c).mergeAllUo c

/-- What an acquire at `.sec` or wider does (R268): write back, then invalidate Shared lines. -/
def State.acquireL1 (s : State) (c : Nat) : State :=
  let s1 := s.writeBackAll c
  (((s1.core c).l1.filter (fun x => x.st == .shared)).map (fun x => x.line)).foldl (fun u l => u.dropL1 c l) s1

/-! ## Copies by location -/

/-- The read fields of two stamps differ (R250). -/
def Stamp.readsDiffer (a b : Stamp) : Bool := a.ro != b.ro || a.rd != b.rd || a.rs != b.rs || a.rscope != b.rscope

def State.stampAt (s : State) (p : Loc) : Stamp :=
  match p with
  | .home l => (s.homeLine l).stamp
  | .l1 c l => ((s.l1Line c l).map (fun x => x.stamp)).getD (s.homeLine l).stamp
  | .pad b n => match s.block? b with
    | some x => ((x.stamps.find? (fun y => y.1 == n)).map (fun y => y.2)).getD (settledStamp x.settle)
    | none => settledStamp 0

def State.setStampAt (s : State) (p : Loc) (st : Stamp) : State :=
  match p with
  | .home l => s.setHomeStamp l st
  | .l1 c l => s.modL1 c l (fun x => { x with stamp := st, readDirty := x.readDirty || st.readsDiffer x.stamp })
  | .pad b n => s.modBlock b (fun x => { x with stamps := (n, st) :: x.stamps.filter (fun y => y.1 != n) })

/-- What a scratchpad byte reads as while its row is not mapped to the spare row of its bank (R470, R471): bits may be stuck. -/
def State.padCell (s : State) (x : Block) (addr : Nat) (v : Byte) : Byte :=
  let at_ := 4096 * x.base + addr
  let stuck := Config.stuckBits x.core at_
  if s.boot.repairs.any (fun r => r.1 == x.core && r.2.1 == at_ / 4 % 32 && (r.2.2.extractLsb' 0 16).toNat == at_ / 128) then v
  else (v ||| stuck.1) &&& ~~~stuck.2

/-- Bytes of a block's scratchpad. Cells may be stuck until the self-test has passed (R470): no other context runs before. -/
def State.padRead (s : State) (x : Block) (addr n : Nat) : List Byte :=
  let bs := x.scratch.readN addr n
  if s.boot.firmware && !s.boot.tested then bs.mapIdx (fun i v => s.padCell x (addr + i) v) else bs

def State.readAt (s : State) (p : Loc) (off n : Nat) : List Byte :=
  match p with
  | .home l => s.mem.readN (l.key + off) n
  | .l1 c l => match s.l1Line c l with
    | some x => (x.data.drop off).take n
    | none => s.mem.readN (l.key + off) n
  | .pad b k => match s.block? b with
    | some x => s.padRead x (128 * k + off) n
    | none => List.replicate n 0

/-- `old` with the bytes from `off` on replaced. -/
def patch (old : List Byte) (off : Nat) (bs : List Byte) : List Byte := old.take off ++ bs ++ old.drop (off + bs.length)

def State.writeAt (s : State) (p : Loc) (off : Nat) (bs : List Byte) : State :=
  match p with
  | .home l => s.homeWrite l off bs
  | .l1 c l => (s.saveMark l).modL1 c l (fun x =>
      { x with st := .dirty, data := patch x.data off bs, mask := x.mask ||| BitVec.ofNat 128 ((2 ^ bs.length - 1) * 2 ^ off) })
  | .pad b k => s.modBlock b (fun x => { x with scratch := x.scratch.writeN (128 * k + off) bs })

/-- Adds a contribution to the partial of an update-only line, in L1 or in the home's buffer. -/
def State.contributeAt (s : State) (p : Loc) (op ty i v : Nat) : State :=
  let add := fun (x : Option Partial) => some ((x.getD ⟨op, ty, []⟩).contribute i v)
  match p with
  | .home l => (s.takeBuffer l ty).modHome l (fun h => { h with uo := add h.uo })
  | .l1 c l => s.modL1 c l (fun x => { x with part := add x.part })
  | .pad _ _ => s

end Sys2Proof.Machine
end

