-- ==== Sys2Proof/Machine/Perform.lean ====
section
/-!
DEFINITION. Performing accesses on one copy of a line: the group rule (R168), the stamp procedures (R171 to R174), atomics and reductions
(R179, R180), races (R421, R427 to R431), store digests (R336), and the accesses of threads with their faults and clocks.
-/
namespace Sys2Proof.Machine

/-! ## Requests -/

/-- One access to one line, by any party. `engine`: an engine operation (R195); otherwise a thread, the cox, a copy engine or the host. -/
structure Req where
  id : Word
  kind : AccKind
  off : Nat
  size : Nat
  scope : Nat
  /-- Bytes of a store; value and swap value of ATOM and RED. -/
  bytes : List Byte
  v : Nat
  w : Nat
  pc : Word
  clk : Clk
  engine : Bool
  deriving DecidableEq, Repr

/-- What an access gives: new clocks, the bytes read or the old value, and the value an ATOM left. -/
structure Res where
  clk : Clk
  old : List Byte
  new : Option Nat
  deriving DecidableEq, Repr

def AccKind.reads : AccKind → Bool
  | .load .. => true
  | .atom .. => true
  | _ => false

def AccKind.writes : AccKind → Bool
  | .load .. => false
  | _ => true

def AccKind.isRed : AccKind → Bool
  | .red .. => true
  | _ => false

/-- Op and type of a reduction. -/
def AccKind.redKind : AccKind → Option (Nat × Nat)
  | .red op ty => some (op, ty)
  | _ => none

def AccKind.isAtom : AccKind → Bool
  | .atom .. => true
  | _ => false

def AccKind.acquires : AccKind → Bool
  | .load acq _ => acq
  | .atom _ _ acq _ => acq
  | _ => false

def AccKind.releases : AccKind → Bool
  | .store rel => rel
  | .atom _ _ _ rel => rel
  | _ => false

/-- A synchronisation access (R420). -/
def Req.sync (r : Req) : Bool :=
  r.kind.isAtom || r.kind.acquires || r.kind.releases || (r.kind.writes && r.clk.fs.isSome)

/-- The access kind of class 2 DETAIL (R409). -/
def AccKind.detail : AccKind → Nat
  | .load .. => 0
  | .store _ => 1
  | _ => 2

/-! ## Atomics (R179) -/

/-- The value that an ATOM leaves (Table 6). -/
def atomNew (op ty old v w : Nat) : Nat :=
  match op with
  | 7 => v
  | 8 => if old = v then w else old
  | 9 => if v ≤ old then 0 else old + 1
  | 10 => if old = 0 || v < old then v else old - 1
  | 11 => (fmtOf ty).round 0 false (Val.add 0 ((fmtOf ty).val old) ((fmtOf ty).val v))
  | _ => intOp op ty old v

/-! ## Before the group -/

/-- What stands before a group is performed: the copy it is performed on, whether the line was converted (R254), with an OVF element. -/
structure Ready where
  st : State
  converted : Bool
  ovf : Bool


/-- Converts an update-only line for a reader. -/
def State.convertIf (s : State) (l : LineId) (cond : Bool) : Ready :=
  if cond && (s.uoKind l).isSome then
    let r := s.convertLine l
    ⟨r.1, true, r.2⟩
  else ⟨s, false, false⟩

/-- Turns a core's copy of a line into an empty Update-only copy (R249); the home registers the holder in the line's combine-unit buffer (R253). -/
def State.enterUo (s : State) (c q : Nat) (l : LineId) (op ty : Nat) : State :=
  let uo := (s.core c).l1.filter (fun x => x.st == .updateOnly)
  let s1 := if uo.length < 32 then s else match uo.getLast? with
    | some x => s.mergeUo c x.line
    | none => s
  let s2 := ((s1.makeRoom c l).takeBuffer l ty).modHome l (fun h =>
    { h with holders := c :: h.holders.filter (· != c), uo := some (h.uo.getD ⟨op, ty, []⟩) })
  let x : L1Line := { line := l, st := .updateOnly, data := [], mask := 0, stamp := (s2.homeLine l).stamp, readDirty := false, keptW := 0,
                      keptWO := 0, part := some ⟨op, ty, []⟩, filler := q }
  s2.modCore c (fun k => { k with l1 := x :: k.l1 })

/-- Makes the copy ready for a group of accesses of one kind (R168, R249, R250, R254). `core` and `quarter`: where the party runs. -/
def State.prepare (s : State) (p : Loc) (core : Option Nat) (quarter : Nat) (kind : AccKind) : Ready :=
  let marked := fun (u : State) (l : LineId) => if kind.writes then u.saveMark l else u
  match p with
  | .pad _ _ => ⟨s, false, false⟩
  | .home l =>
    let s1 := match core with
      | some c => (marked s l).writeBack c l
      | none => marked s l
    (match kind with
     | .red op ty => s1.convertIf l (s1.uoKind l != some (op, ty))
     | _ => s1.convertIf l true)
  | .l1 c l =>
    let s0 := marked s l
    match kind with
    | .red op ty =>
      let own := (s0.l1Line c l).bind (fun x => x.part)
      if (own.map (fun q => (q.op, q.ty))) = some (op, ty) then ⟨s0.touchL1 c l, false, false⟩
      else
        let held := (s0.l1Line c l).isSome
        let r := (if own.isSome then s0 else s0.dropL1 c l).convertIf l (s0.uoKind l != some (op, ty))
        { r with st := (if held then r.st else r.st.countMiss c quarter l).enterUo c quarter l op ty }
    | _ =>
      let hit := ((s0.l1Line c l).map (fun x => x.st != .updateOnly)).getD false
      let r := s0.convertIf l (!hit)
      { r with st := r.st.fillL1 c quarter l }

/-- A group of accesses finds its copy in place: it is no L1 access, or the core holds the line for more than contributions. -/
def State.hitAt (s : State) (p : Loc) : Bool :=
  match p with
  | .l1 c l => ((s.l1Line c l).map (fun x => x.st != .updateOnly)).getD false
  | _ => true

/-- A reader or a contribution finds the line memory-poisoned (R414): at the home, or in L1 on a fill or past the bytes it has written; so does every access
that has brought about a conversion. -/
def Ready.poisonedAt (w : Ready) (p : Loc) (hit : Bool) (r : Req) : Bool :=
  let s := w.st
  let reads := r.kind.reads || r.kind.isRed || w.converted
  match p with
  | .pad _ _ => false
  | .home l => reads && (s.homeLine l).bad.isSome
  | .l1 c l =>
    reads && (s.homeLine l).bad.isSome &&
    (match s.l1Line c l with
     | some x => (match x.st with
       | .shared => !hit
       | .updateOnly => true
       | .dirty => !((List.range r.size).all (fun i => x.mask.getLsbD (r.off + i))))
     | none => true)

/-- MEMERR's unit at a copy (Table 3 of 22_memory_faults.md). -/
def State.badUnit (s : State) (p : Loc) : Nat :=
  match p with
  | .home l => (s.homeLine l).badUnit
  | .l1 _ l => (s.homeLine l).badUnit
  | .pad _ _ => 5

/-! ## The group (R168) -/

/-- The check, the raise and what an acquire or a relaxed read takes from the stamp before the group. -/
def checkReq (me writer : Party) (st : Stamp) (converted : Bool) (r : Req) : Clk :=
  let w := includesParty st.wscope.toNat writer me
  let t := includesParty r.scope me writer
  match r.kind with
  | .load acq _ =>
    let c := readCheck st r.id r.engine r.clk
    if acq then acquireStamp st r.scope w t c else pendingStamp st w c
  | .store _ => writeCheck st r.id r.clk
  | .atom _ _ acq _ =>
    let c := writeCheck st r.id r.clk
    if acq then acquireStamp st r.scope w t c else c
  | .red _ _ => redCheck st converted r.clk

/-- One lane of the group: its effect on the bytes, on the stamp as the lower lanes left it, and its result. -/
def State.applyReq (s : State) (p : Loc) (st : Stamp) (r : Req) (c : Clk) : State × Stamp × Res :=
  match r.kind with
  | .load _ _ => (s, stampRead st r.id r.scope c, ⟨c, s.readAt p r.off r.size, none⟩)
  | .store rel =>
    let x := stampWrite st r.id r.pc (if r.engine then 3 else 0) r.scope rel c
    (s.writeAt p r.off r.bytes, x.1, ⟨x.2, [], none⟩)
  | .atom op ty _ rel =>
    let old := s.readAt p r.off r.size
    let new := atomNew op ty (leNat old) r.v r.w
    let x := stampWrite st r.id r.pc (if r.engine then 3 else 1) r.scope rel c
    (s.writeAt p r.off (leBytes r.size new), x.1, ⟨x.2, old, some new⟩)
  | .red op ty =>
    let s1 := match p with
      | .pad _ _ => s.writeAt p r.off (leBytes r.size (intOp op ty (leNat (s.readAt p r.off r.size)) r.v))
      | _ => s.contributeAt p op ty (r.off / r.size) r.v
    (s1, stampRed st r.id r.pc r.scope c, ⟨c, [], none⟩)

def State.applyAll (s : State) (p : Loc) (st : Stamp) : List (Req × Clk) → State × Stamp × List Res
  | [] => (s, st, [])
  | x :: xs =>
    let r := s.applyReq p st x.1 x.2
    let t := State.applyAll r.1 p r.2.1 xs
    (t.1, t.2.1, r.2.2 :: t.2.2)

/-- A hub's high-water clock takes in the clocks of a request or response that it handles (R258); engines, copies and the host link carry no pending acquire
clock (`pa` false). -/
def State.noteClk (s : State) (h : Nat) (pa : Bool) (c : Clk) : State :=
  let u := (s.noteClock h c.o).noteClock h c.s
  if pa then u.noteClock h c.pa else u

/-- The party of a request has a pending acquire clock (R172, R195, R306). -/
def State.hasPa (s : State) (r : Req) : Bool := !r.engine && r.id != s.hostIdent

/-- The hubs that handle a group's requests and responses: the home's and, of the package's own parties, that of their section (R258). -/
def State.noteGroup (s : State) (p : Loc) (cs : List (Req × Clk)) : State :=
  match p with
  | .home l => cs.foldl (fun (u : State) c =>
      let v := u.noteClk l.hub (u.hasPa c.1) c.2
      if c.1.id.extractLsb' 23 8 = u.chip then v.noteClk (c.1.id.extractLsb' 20 3).toNat (v.hasPa c.1) c.2 else v) s
  | _ => s

/-- Performs a group on a copy that is ready: checks against the stamp before it, effects in lane order, WO and RO from all lanes. -/
def State.performGroup (s : State) (p : Loc) (core : Option Nat) (converted : Bool) (rs : List Req) : State × List Res :=
  if rs.isEmpty then (s, [])
  else
  let st := s.stampAt p
  let writer := s.party st.w
  let cs := rs.map (fun r => (r, checkReq (s.party r.id) writer st converted r))
  let t := s.applyAll p st cs
  let os := cs.map (fun c => c.2.o)
  let writing := rs.any (fun r => r.kind.writes)
  let reds := rs.all (fun r => r.kind.isRed)
  let top := match os with
    | [] => st.wo
    | o :: rest => smaxList o rest
  let last :=
    if reds then (let x := smax st.wo top; { t.2.1 with wo := x, ro := x })
    else if writing then { t.2.1 with wo := top, ro := top }
    else { t.2.1 with ro := smax st.ro top, wo := st.wo }
  let s1 := (t.1.setStampAt p last).noteGroup p (rs.map (fun r => (r, r.clk)) ++ rs.zip (t.2.2.map (fun r => r.clk)))
  (match p, core with
   | .home l, some c => s1.refreshL1 c l
   | _, _ => s1, t.2.2)

/-! ## Races of a group (R421) -/

def State.raceOf (s : State) (st : Stamp) (r : Req) : Option Race :=
  let me := s.party r.id
  let writer := s.party st.w
  raceCheck st { id := r.id, pc := r.pc, s := r.clk.s, reads := r.kind.reads, writes := r.kind.writes, isAtom := r.kind.isAtom,
                 isRed := r.kind.isRed, isSt := (match r.kind with | .store _ => !r.engine | _ => false), sync := r.sync,
                 mutual_ := includesParty st.wscope.toNat writer me && includesParty r.scope me writer }

/-- The race record of an access (R429). -/
def raceRecord (st : Stamp) (r : Req) (k : Race) (flags : Nat) (pc ea launch : DWord) (block : Nat) : RaceRec :=
  let wr := k == .wr
  { kind := k.code, flags := flags + (if r.engine then 2 else 0) + (if r.clk.sync.getLsbD 0 then 32 else 0),
    acc := (match r.kind with | .load .. => 0 | .store _ => 1 | .atom .. => 2 | .red .. => 3) + 4 * r.scope + (if r.sync then 32 else 0),
    oth := st.wkind.toNat + 4 * (if wr then st.rscope.toNat else st.wscope.toNat) + (if st.rel then 32 else 0),
    id := r.id, pc := pc, ea := ea, oid := if wr then st.rd else st.w, opc := if wr then 0 else st.wpc, s := r.clk.s,
    os := if wr then st.rs else st.ws, o := r.clk.o, oo := if wr then st.ro else st.wo, launch := launch, block := block }

/-- Reports the race of a party that is no thread: the host link, a cox or a copy engine report to `asids` (R427), with UNIT among `flags`. -/
def State.unitRaces (s : State) (st : Stamp) (rs : List (Req × DWord)) (asids : List (BitVec 16)) (flags : Nat) : State :=
  rs.foldl (fun u x =>
    match u.raceOf st x.1 with
    | none => u
    | some k => asids.foldl (fun v a => v.raceLog a (raceRecord st { x.1 with engine := false } k flags (x.1.pc.zeroExtend 64) x.2 0 0).bytes none) u) s

/-! ## Store digests (R336) -/

/-- CRC-64 of ECMA-182 over bytes, most significant bit first. -/
def crc64Byte (crc : DWord) (b : Byte) : DWord :=
  (List.range 8).foldl (fun c _ => if c.getLsbD 63 then (c <<< 1) ^^^ 0x42F0E1EBA9EA3693 else c <<< 1) (crc ^^^ (b.zeroExtend 64 <<< 56))

def crc64 (bs : List Byte) : DWord := bs.foldl crc64Byte 0

def State.addDigest (s : State) (t : TRef) (ea : DWord) (size : Nat) (data : List Byte) : State :=
  let x := crc64 (leBytes 2 (128 * t.c + t.t) ++ leBytes 8 ea.toNat ++ leBytes 1 size ++ data)
  s.modCrew t.crew (fun c => { c with digest := c.digest + x })

/-! ## Accesses of threads -/

/-- A thread's access that is to be performed: its operation under way and where it goes. -/
structure Lact where
  ref : TRef
  p : Pend
  a : Access
  place : Place
  deriving DecidableEq, Repr

/-- The copy on which an access is performed (R167); one to an update-only line that is no reduction of the line's op and type is performed at the
home (R274). -/
def State.locOf (s : State) (place : Place) (core scope : Nat) (kind : AccKind) : Option (Loc × Nat) :=
  match place with
  | .phys pa l1 => (lineOf pa).map (fun x =>
      if l1 && scope ≤ 1 && ((s.uoKind x.1).isNone || s.uoKind x.1 == kind.redKind) then (.l1 core x.1, x.2) else (.home x.1, x.2))
  | .pad b off => some (.pad b (off / 128), off % 128)
  | .peer _ _ => none

/-- The request of a thread's access, its clocks raised to the floor (R258). -/
def State.reqOf (s : State) (x : Lact) (t : Thread) (off : Nat) : Req :=
  let f := s.floorOf (coreSection (s.coreOf x.ref.block))
  { id := s.identOf x.ref, kind := x.a.kind, off := off, size := x.a.size, scope := x.a.scope,
    bytes := leBytes x.a.size x.a.data.toNat, v := x.a.data.toNat % 2 ^ (8 * x.a.size), w := x.a.data.toNat / 2 ^ 64 % 2 ^ (8 * x.a.size),
    pc := x.a.pc.extractLsb' 0 32, clk := { t.clk with s := smax t.s (x.p.lift.getD t.s) }.floor f, engine := false }

/-- Takes the access off its thread, flag and all, and raises a fault for it (R376): `how` region, or poison of an LD (R381). -/
def State.accessFault (s : State) (x : Lact) (f : AFault) : State :=
  match s.thread? x.ref with
  | none => s
  | some t =>
    let cause := mkCause 2 f.code (f.detail + x.a.kind.detail) false true
    let poisons := (match x.a.kind with | .load .. => true | _ => false) && (f.code == 4 || f.code == 6) && !t.handler
    if poisons then
      (s.modThread x.ref (fun y =>
        { y with poisonRec := some (y.poisonRec.getD ⟨x.a.pc, x.a.ea, mkCause 2 f.code (f.detail + x.a.kind.detail) false false⟩),
                 pend := y.pend.map (fun (q : Pend) =>
                   if q.id = x.p.id then { q with todo := none, writes := x.a.dest.map (fun r => (r, (0 : Word))), poisons := true } else q) })).completePend
        x.ref x.p.id
    else
      (s.dropPend x.ref x.p.id).standFault x.ref
        { how := .region, order := x.p.seq, cause := cause, addr := x.a.ea, pc := x.a.pc, rpc := x.p.rpc, rcount := x.p.rcount, queue := none }

/-- The registers that a load or an ATOM writes (Table 5 of 08_memory_and_sync_instructions.md). -/
def loadWrites (a : Access) (old : List Byte) : List (BitVec 7 × Word) :=
  let v := leNat old
  let bits := 8 * a.size
  let sx := match a.kind with
    | .load _ sx => sx
    | _ => false
  let x := if sx && v.testBit (bits - 1) && bits < 32 then v + (2 ^ 32 - 2 ^ bits) else v
  a.dest.mapIdx (fun i r => (r, wordAtIdx x i))

/-- The completion of an access that has been performed comes a free latency later; the stores of one pass take one latency (R357; log entry 3). -/
def State.completeSoon (s : State) (x : Lact) : State :=
  match x.a.kind with
  | .store _ => s.schedule (Config.latency x.p.pass) (.event (.accessComplete x.ref x.p.id))
  | _ => s.soon (.accessComplete x.ref x.p.id)

/-- The end of a thread's access that has been performed. -/
def State.accessDone (s : State) (x : Lact) (r : Res) : State :=
  let s1 := (s.modThread x.ref (fun t =>
    { t with pend := t.pend.map (fun (q : Pend) =>
        if q.id = x.p.id then { q with todo := none, writes := loadWrites x.a r.old } else q) })).completeSoon x
  match x.a.kind with
  | .load .. => s1
  | .store _ => s1.addDigest x.ref x.a.ea x.a.size (leBytes x.a.size x.a.data.toNat)
  | .atom op _ _ _ =>
    (match r.new with
     | some n => if op = 8 && n = leNat r.old then s1 else s1.addDigest x.ref x.a.ea x.a.size (leBytes x.a.size n)
     | none => s1)
  | .red _ _ => s1.addDigest x.ref x.a.ea x.a.size (leBytes x.a.size x.a.data.toNat)

/-- The record of a thread's race, and the trap of a trapping one, whose DETAIL is the record's index (R428, R430). -/
def State.raceTrap (s : State) (x : Lact) (a : BitVec 16) (bytes : List Byte) (code : Nat) (trapped : Bool) : State :=
  let u := s.raceLog a bytes (some x.ref.crew)
  if trapped then
    (u.dropPend x.ref x.p.id).modThread x.ref (fun t => { t with faults := t.faults ++
      [{ how := .region, order := x.p.seq, cause := mkCause 3 code 0 false true, addr := x.a.ea, pc := x.a.pc, rpc := x.p.rpc,
         rcount := x.p.rcount, queue := none, race := some s.serial }] })
  else u

/-- The RACE field under which a replayed launch was recorded, as the LAUNCH packet among its PKT records has it (R301, R331). -/
def State.recordedRace (s : State) (seq : DWord) : Option Nat :=
  s.hubs.findSome? (fun h => (h.recd.replay.find? (fun r => r.kind == 7 && r.launch == seq && r.words.head?.any (fun w => w.toNat % 256 == 1))).map (fun r =>
    field ((r.words[4]?).getD 0) 3 2))

/-- A race of the thread's traps (R427): under RACE 2, in replay where the recorded one trapped in this chunk (R340); never in handler state (R431). -/
def State.raceTraps (s : State) (t : TRef) (x : Thread) : Bool :=
  !x.handler && (match s.launchOf t.g with
    | some l => if s.replays t.g then x.trapDue && (s.recordedRace l.seq).getD 2 == 2 else raceMode l.p.modes == 2
    | none => false)

/-- Flags of a thread's race record: TRAPPED, or REPLAY where replay finds a race without a recorded trap (R427, R429). -/
def State.raceFlags (s : State) (g : Nat) (trapped : Bool) : Nat := if trapped then 1 else if recordMode (s.modesOf g) = 2 then 8 else 0

/-- A race of a thread's access: its record, and where it traps the trap instead of the access (R427, R428, R431). Answers whether the access is to be
performed. -/
def State.threadRace (s : State) (x : Lact) (st : Stamp) (r : Req) (k : Race) : State × Bool :=
  match s.thread? x.ref, s.launchOf x.ref.g with
  | some t, some l =>
    let trapped := s.raceTraps x.ref t
    let rec_ := raceRecord st r k (s.raceFlags x.ref.g trapped) x.a.pc x.a.ea l.seq (s.blockIndex x.ref.block + x.ref.c * 2 ^ 56)
    (s.raceTrap x l.asid rec_.bytes k.code trapped, !trapped)
  | _, _ => (s, true)

/-- Checks the races of a group and answers the requests that go on. -/
def State.threadRaces (s : State) (st : Stamp) : List (Lact × Req) → State × List (Lact × Req)
  | [] => (s, [])
  | x :: xs =>
    match (if racesOn (s.modesOf x.1.ref.g) then s.raceOf st x.2 else none) with
    | none =>
      let t := State.threadRaces s st xs
      (t.1, x :: t.2)
    | some k =>
      let w := s.threadRace x.1 st x.2 k
      let t := State.threadRaces w.1 st xs
      (t.1, if w.2 then x :: t.2 else t.2)

/-- The level that a group's access at the home of a line reaches (R350): 7 the combine unit for a reduction or an update-only line, else 5 HBM where L3 does not
hold the line, 3 the L3 of the core's own hub, 4 that of another. -/
def State.homeLevel (s : State) (l : LineId) (core : Nat) (kind : AccKind) : Nat :=
  if kind.isRed || (s.uoKind l).isSome then 7
  else if !s.l3.any (fun h => h.line == l) then 5
  else if l.hub = coreSection core then 3 else 4

/-- The level that a group's access to a copy reaches (R350): 1 scratchpad, 2 an L1 that holds the copy; a miss goes on to the home. -/
def State.levelOf (s : State) (p : Loc) (core : Nat) (kind : AccKind) : Nat :=
  match p with
  | .pad _ _ => 1
  | .home l => s.homeLevel l core kind
  | .l1 c l =>
    let hit : Bool := match kind.redKind with
      | some k => ((s.l1Line c l).bind (fun x => x.part)).map (fun q => (q.op, q.ty)) == some k
      | none => ((s.l1Line c l).map (fun x => x.st != .updateOnly)).getD false
    if hit then 2 else s.homeLevel l core kind

/-- Performs a group of accesses of one pass to one line (R168). -/
def State.performLanes (s : State) (p : Loc) (core quarter : Nat) (xs : List (Lact × Nat)) : State :=
  match xs with
  | [] => s
  | x0 :: _ =>
    let rs := xs.filterMap (fun x => (s.thread? x.1.ref).map (fun t => (x.1, s.reqOf x.1 t x.2)))
    let hit := s.hitAt p
    let rd := s.prepare p (some core) quarter x0.1.a.kind
    let poisoned := rs.filter (fun r => rd.poisonedAt p hit r.2)
    let s1 := poisoned.foldl (fun u r => u.accessFault r.1 ⟨8, 16 * s.badUnit p⟩) rd.st
    let rest := rs.filter (fun r => !rd.poisonedAt p hit r.2)
    if rd.ovf then rest.foldl (fun u r => u.accessFault r.1 ⟨9, 0⟩) s1
    else
      let st := s1.stampAt p
      let w := s1.threadRaces st rest
      let g := w.1.performGroup p (some core) rd.converted (w.2.map (fun r => r.2))
      let done := w.2.zip g.2
      let s2 := g.1.commitClks (done.filterMap (fun d => some ⟨d.1.1.ref, d.2.clk, d.1.1.p.seq, d.1.1.a.pc⟩))
      let s3 := done.foldl (fun u d => u.accessDone d.1.1 d.2) s2
      if done.any (fun d => d.1.1.a.kind.acquires && 2 ≤ d.1.1.a.scope) then s3.acquireL1 core else s3

end Sys2Proof.Machine
end

