-- ==== Sys2Proof/Machine/Scoreboard.lean ====
section
/-!
DEFINITION. The range scoreboard (R212, R213, R224): the entries that class 6 operations and transfer commands hold, which accesses they
hold, and the clock they hand on (R170, R195).
-/
namespace Sys2Proof.Machine

/-! ## Descriptor and box fields (R214 to R216) -/

def Slice.w (x : Slice) (i : Nat) : Nat := ((x.desc[i]?).getD 0).toNat
def Slice.bw (x : Slice) (i : Nat) : Nat := ((x.box[i]?).getD 0).toNat
def Slice.mtype (x : Slice) : Nat := x.w 2 % 32
/-- LTYPE, 0 meaning MTYPE. -/
def Slice.ltype (x : Slice) : Nat := if x.w 2 / 32 % 32 = 0 then x.mtype else x.w 2 / 32 % 32
def Slice.ndim (x : Slice) : Nat := x.w 2 / 2 ^ 13 % 8 + 1
def Slice.ctr (x : Slice) : DWord := BitVec.ofNat 64 (x.w 14 + 2 ^ 32 * x.w 15)
def Slice.base (x : Slice) : DWord := BitVec.ofNat 64 (x.w 0 + 2 ^ 32 * x.w 1)

/-- B0 to B4; XGATHER and XSCATTER take the index count for B1 (R225). -/
def Slice.dims (op : Nat) (x : Slice) : List Nat :=
  [x.w 12 % 65536 + 1, if op = 2 || op = 3 then x.bw 5 else x.w 12 / 65536 + 1, x.w 13 % 256 + 1, x.w 13 / 256 % 256 + 1,
   x.w 13 / 65536 % 256 + 1]

def Slice.count (op : Nat) (x : Slice) : Nat := (x.dims op).foldl (· * ·) 1

/-- Bits of an element. -/
def typeBits (ty : Nat) : Nat :=
  if [1, 5, 9, 18, 19, 21].contains ty then 8 else if [2, 6, 10, 16, 17].contains ty then 16
  else if [20, 22].contains ty then 4 else if [4, 8, 12, 14].contains ty then 64 else if ty = 13 then 128 else 32

/-- Bytes of the local side: the end of the last local element (R212). -/
def Slice.localBytes (op : Nat) (x : Slice) : Nat := (x.count op * typeBits x.ltype + 7) / 8

/-! ## Entries -/

/-- A scoreboard entry: a range of a block's scratchpad or an operand slot. `ring`: for an iteration that an XLOOP has yet to write, the
serial number of the rotation that released its stage; `past`: that of the rotation that has released the stage again since (log entry 63). -/
structure Sb where
  b : BRef
  /-- Index of the issuing crew. -/
  crew : Nat
  slot : Option Nat
  lo : Nat
  hi : Nat
  write : Bool
  order : Nat
  id : Nat
  sC : Word
  ring : Option Nat
  past : Option Nat
  deriving DecidableEq, Repr

/-- Row and column of a block in its gang, and the group index of the gang's first block (R38). -/
def gangPlace (p : LaunchP) (k : Nat) : Nat × Nat × Nat :=
  let n := max 1 (p.grows * p.gcols)
  let e := k % n
  (e / max 1 p.gcols, e % max 1 p.gcols, k - e)

/-- The entries of a class 6 operation (Table 8). -/
def MatOp.sbs (p : LaunchP) (x : MatOp) : List Sb :=
  let b := x.crew.block
  let pad := fun (wr : Bool) => (match x.range with
    | some r => [({ b := b, crew := x.crew.c, slot := none, lo := r.1, hi := r.2, write := wr, order := x.id, id := x.id, sC := x.sC, ring := none, past := none } : Sb)]
    | none => [])
  let slot := fun (n : Nat) (wr : Bool) =>
    ({ b := b, crew := x.crew.c, slot := some n, lo := 0, hi := 1, write := wr, order := x.id, id := x.id, sC := x.sC, ring := none, past := none } : Sb)
  match x.kind with
  | .ohdr n _ => [slot n true]
  | .old n _ => slot n true :: pad false
  | .ald .. => pad false
  | .ast .. => pad true
  | .mma _ gang _ a c _ =>
    let g := gangPlace p x.crew.k
    (if !gang || g.2.1 = 0 then [slot a false] else []) ++ (if !gang || g.1 = 0 then [slot c false] else [])
  | _ => []

def Ring.release? (r : Ring) (q : Word) : Option Release := r.rels.find? (fun x => x.seq == q)

/-- The rotation that released the stage of sequence `q`: 0 for those that were free at launch. -/
def Ring.rel (r : Ring) (q : Word) : Nat := ((r.release? q).map (fun x => x.turn)).getD 0

/-- How far a sequence stands ahead of the rotation count, negative once the rotations have passed it (log entry 63). -/
def Ring.ahead (r : Ring) (q : Word) : Int := (q - r.rot).toInt

/-- Sequence of the first iteration that an XLOOP has yet to write. -/
def nextSeq (r : Ring) (c : Cmd) (x : Slice) : Word :=
  (if c.begun then c.q0 else r.rot) + BitVec.ofNat 32 (field x.localAddr 22 19 + c.iter + (if x.done then 1 else 0))

/-- The iterations that an XLOOP has yet to write into stages that have been released for them (R224). -/
def ringSbs (b : BRef) (d : RingDecl) (r : Ring) (c : Cmd) (x : Slice) : List Sb :=
  let first := nextSeq r c x
  (List.range (min (x.bw 5 - c.iter - (if x.done then 1 else 0)) ((d.stages : Int) - r.ahead first).toNat)).map (fun i =>
    let q := first + BitVec.ofNat 32 i
    let st := ((r.stroke.toNat : Int) + r.ahead q) % d.stages
    { b := b, crew := x.crew, slot := none, lo := d.base + st.toNat * d.stage, hi := d.base + (st.toNat + 1) * d.stage, write := true,
      order := c.id, id := c.id, sC := c.sC, ring := some (r.rel q),
      past := if r.ahead q < 0 then some (r.rel (q + BitVec.ofNat 32 d.stages)) else none })

def Cmd.live (c : Cmd) : Bool := !(c.complete || c.flushed || c.failed)

/-- The entries of a transfer command (Table 8). -/
def Cmd.sbs (p : LaunchP) (b : BRef) (blk : Block) (c : Cmd) : List Sb :=
  if !c.live then []
  else if c.op = 1 then
    c.slices.flatMap (fun x =>
      match (p.rings[field x.localAddr 26 24]?).getD none, blk.rings[field x.localAddr 26 24]? with
      | some d, some r => ringSbs b d r c x
      | _, _ => [])
  else
    (c.slices.filter (fun x => !x.done)).filterMap (fun x =>
      let wr := c.op = 2 || (c.op = 0 && !x.mod.getLsbD 18)
      match x.slot, x.off with
      | some n, _ => some { b := b, crew := x.crew, slot := some n, lo := 0, hi := 1, write := wr, order := x.order, id := c.id,
                               sC := c.sC, ring := none, past := none }
      | none, some o => some { b := b, crew := x.crew, slot := none, lo := o, hi := o + x.localBytes c.op, write := wr, order := x.order, id := c.id,
                               sC := c.sC, ring := none, past := none }
      | none, none => none)

/-- The entries held on core `n`. -/
def State.scoreboard (s : State) (n : Nat) : List Sb :=
  ((s.core n).ops.flatMap (fun x => match s.launchOf x.crew.g with
    | some l => x.sbs l.p
    | none => []))
  ++ (s.allBlocks.filter (fun b => b.2.core == n && !b.2.ended)).flatMap (fun b => match s.launchOf b.1.g with
    | some l => b.2.cmds.flatMap (fun c => c.sbs l.p b.1 b.2)
    | none => [])

/-- Entries in use on core `n`: an XLOOP holds one from its issue to its completion, whatever its stages (R212). -/
def State.sbUsed (s : State) (n : Nat) : Nat :=
  ((s.scoreboard n).filter (fun e => e.ring.isNone)).length
  + ((s.allBlocks.filter (fun b => b.2.core == n && !b.2.ended)).flatMap (fun b => b.2.cmds.filter (fun c => c.op == 1 && c.live))).length

def Sb.meets (e : Sb) (b : BRef) (slot : Option Nat) (lo hi : Nat) : Bool :=
  e.slot == slot && (slot.isSome || e.b == b) && e.lo < hi && lo < e.hi

/-- The operations that hold a thread's access to bytes `lo` to `hi` of a block's scratchpad (R170). -/
def State.padHolders (s : State) (b : BRef) (lo hi : Nat) (writes : Bool) : List Nat :=
  ((s.scoreboard (s.coreOf b)).filter (fun e => e.meets b none lo hi && e.past.isNone && (writes || e.write))).map (fun e => e.id)

/-- The entry is on a slot that a waiting claim of its own crew, issued before it, still has to obtain (R199). -/
def State.sbUnclaimed (s : State) (n : Nat) (e : Sb) : Bool :=
  match e.slot with
  | none => false
  | some k => (s.core n).ops.any (fun o => match o.kind with
    | .claim false first count => o.id < e.order && o.crew == ⟨e.b.g, e.b.k, e.crew⟩ && first ≤ k && k < first + count
    | _ => false)

/-- The operations that hold an engine's access, issued as `order` by operation `id` (R213, R224): those issued earlier with a write on
either side; an iteration still to be written holds the reads issued while its stage was released for it, and a later write. An entry that a waiting
claim of its own crew holds back holds nothing (log entry 62). -/
def State.engineHolders (s : State) (n : Nat) (b : BRef) (slot : Option Nat) (lo hi : Nat) (write : Bool) (order id : Nat) : List Nat :=
  ((s.scoreboard n).filter (fun e =>
    e.id != id && e.meets b slot lo hi && (write || e.write) && !s.sbUnclaimed n e &&
    (match e.ring with
     | some rel => if write then e.past.isNone && e.order < order else rel ≤ order && (e.past.map (fun p => decide (order < p))).getD true
     | none => e.order < order))).map (fun e => e.id)

/-- The operations that hold an XLOOP's write to a stage released at `rel` (R213, R224). -/
def State.stageHolders (s : State) (n : Nat) (b : BRef) (lo hi rel order id : Nat) : List Nat :=
  ((s.scoreboard n).filter (fun e =>
    e.id != id && e.past.isNone && e.meets b none lo hi && (if e.write then e.order < order else e.order < rel))).map (fun e => e.id)

/-! ## Handing on clocks (R170, R195) -/

def joinLift (x : Option Word) (c : Word) : Option Word := some (smax (x.getD c) c)

/-- Joins the sync clock of operation `id` into what its entries have held, in its section group. -/
def State.letGo (s : State) (g id : Nat) (sC : Word) : State :=
  let c := sC + 1
  let pend := fun (p : Pend) => if p.held.contains id then { p with lift := joinLift p.lift c } else p
  let cmd := fun (x : Cmd) => if x.held.contains id then { x with sC := smax x.sC c } else x
  let s1 := s.modGroup g (fun y =>
    { y with blocks := y.blocks.map (fun b =>
        { b with cmds := b.cmds.map cmd,
                 crews := b.crews.map (fun k => { k with threads := k.threads.map (fun t => { t with pend := t.pend.map pend }) }) }) })
  { s1 with cores := s1.cores.map (fun k =>
      { k with ops := k.ops.map (fun x => if x.held.contains id then { x with sC := smax x.sC c } else x) }) }

def addHeld (old new : List Nat) : List Nat := old ++ new.filter (fun n => !old.contains n)

/-- An event that finds its subject not ready happens again in the next cycle. -/
def State.again (s : State) (i : Instr) : State := s.atCycle (s.cycle + 1) i

end Sys2Proof.Machine
end

