-- ==== Sys2Proof/Machine/MemInstr.lean ====
section
/-!
DEFINITION. Loads, stores, LDT, prefetch, atomics, reductions and MATCH (R164 to R183), and the events that perform and complete
accesses (R54, R168, R418).
-/
namespace Sys2Proof.Machine

/-! ## Effective addresses (R166) -/

def effAddr (o : Ops) (size : Nat) (l : Lane) : DWord :=
  let idx : DWord := if modField o.mod 17 17 = 1 then (BitVec.ofNat 32 l.src.b).signExtend 64 else 0
  BitVec.ofNat 64 l.src.a + (if modField o.mod 15 15 = 1 then idx * BitVec.ofNat 64 size else idx) + immSext o

def scopeOf (o : Ops) : Nat := modField o.mod 12 10

/-! ## Where and when an access is performed -/

def AccKind.need : AccKind → Nat
  | .load .. => 0
  | .store _ => 1
  | _ => 2

def AccKind.isFadd : AccKind → Bool
  | .red 11 _ => true
  | _ => false

/-- The checks of R410 for a thread's access. -/
def State.placeOf (s : State) (t : TRef) (a : Access) : AFault ⊕ Place :=
  s.locate (s.asker t) a.ea a.size a.size a.kind.need (fun ap => a.ldt.isNone || ap == .own || ap == .ring) a.kind.isFadd

/-- Two places share a byte; both views of HBM name the same lines (R251). -/
def Place.meets (x : Place) (n : Nat) (y : Place) (m : Nat) : Bool :=
  match x, y with
  | .phys a _, .phys b _ => (match lineOf a, lineOf b with
    | some k, some l => k.1 == l.1 && k.2 < l.2 + m && l.2 < k.2 + n
    | _, _ => a < b + m && b < a + n)
  | .pad k a, .pad j b => k == j && a < b + m && b < a + n
  | .peer c a, .peer d b => c == d && a < b + m && b < a + n
  | _, _ => false

/-- The read point of a waiting MOVS has come: every earlier access, acquire, or claim and release is over (R233); for a MOVSW that clears STICKY,
every earlier acquire (R60). -/
def State.sregReady (s : State) (t : TRef) (p : Pend) (n : Nat) : Bool :=
  match s.thread? t with
  | none => true
  | some x =>
    let open_ := x.pend.filter (fun q => q.seq < p.seq && q.access && (q.todo.isSome || q.peer.isSome))
    if n = 0x80 then open_.all (fun q => !q.acquire)
    else if n = 0x18 then open_.all (fun q => !q.acquire) && !x.pend.any (fun q => q.seq < p.seq && q.sreg.any (fun r => r.1 == 0x80))
    else if n = 0x16 || n = 0x17 then open_.isEmpty
    else !(s.core (s.coreOf t.block)).ops.any (fun o => o.crew == t.crew && o.id < p.id &&
      (match o.kind with
       | .claim .. => true
       | .release .. => true
       | _ => false))

/-- An earlier MOVS or MOVSW of the thread has come to its read point and goes first. -/
def State.readFirst (s : State) (t : TRef) (q : Pend) : Bool :=
  match q.sreg with
  | some r => (r.1 ≤ 0x18 || r.1 = 0x80) && s.sregReady t q r.1
  | none => false

/-- The access is a region of its own (R41): a region boundary lies between it and every later one. -/
def AccKind.ends : AccKind → Bool
  | .load .. => false
  | .store rel => rel
  | .atom .. => true
  | .red .. => true

/-- An earlier operation of the thread stands before the access: an acquire, an access with a region boundary or a common byte between the two, for a
release any access (R175, R181, R267), or a MOVS at its read point (R233). -/
def State.orderBlocked (s : State) (t : TRef) (p : Pend) (a : Access) (pl : Place) : Bool :=
  ((s.thread? t).map (fun x => x.pend)).getD [] |>.any (fun q =>
    q.seq < p.seq && (q.acquire || s.readFirst t q || (match q.todo with
      | none => false
      | some b => b.kind.ends || a.kind.releases || (match s.placeOf t b with
        | .inr r => r.meets b.size pl a.size
        | .inl _ => false))))

/-- The operations whose scoreboard entries hold the access (R170). -/
def State.holders (s : State) (a : Access) (pl : Place) : List Nat :=
  match pl with
  | .pad b off => s.padHolders b off (off + a.size) a.kind.writes
  | _ => []

/-- A contribution that needs a buffer at the home, or an L1 that is to be registered there, has to wait for a spill entry (R253, R418). -/
def State.spillBlocked (s : State) (a : Access) (loc : Loc) : Bool :=
  match loc, a.kind with
  | .home l, .red _ ty => !s.canBuffer l ty
  | .l1 c l, .red op ty => ((s.l1Line c l).bind (fun x => x.part)).map (fun q => (q.op, q.ty)) != some (op, ty) && !s.canBuffer l ty
  | _, _ => false

/-- The hub whose spill area a contribution waits for. -/
def spillHub : Loc → Nat
  | .home l => l.hub
  | .l1 _ l => l.hub
  | .pad _ _ => 0

/-! ## Peer accesses (R246, R462) -/

def AccKind.peer (a : Access) : PeerKind :=
  match a.kind with
  | .load acq _ => .read acq
  | .store rel => .write rel (leBytes a.size a.data.toNat)
  | .atom op ty acq rel => .atomic op ty (a.data.extractLsb' 0 64) (a.data.extractLsb' 64 64) acq rel
  | .red op ty => .reduce op ty (a.data.extractLsb' 0 64)

/-- Sends a peer request of a group of lanes, or completes it as NOBACK where no route serves it. -/
def State.peerSend (s : State) (x : Lact) (chip : BitVec 8) (va : Nat) (kind : PeerKind) (group : Nat × Nat) : State :=
  if s.chipLost chip then s.accessFault x ⟨7, 8⟩
  else
    match s.thread? x.ref with
    | none => s
    | some t =>
      let n := s.serial
      let r := s.reqOf x t 0
      let q : PeerReq := { id := n, src := s.chip, asid := s.asidOf x.ref.g, va := BitVec.ofNat 48 va, size := x.a.size, kind := kind,
                           scope := x.a.scope, ident := r.id, pc := x.a.pc, o := r.clk.o, s := r.clk.s, pa := r.clk.pa, fs := r.clk.fs, engine := false,
                           group := group, precise := s.raceTraps x.ref t }
      let s0 := if x.a.kind.releases && 2 ≤ x.a.scope then s.releaseL1 (s.coreOf x.ref.block) else s
      (((s0.noteClk (coreSection (s.coreOf x.ref.block)) true r.clk).noteLevel x.p.pass 6).request chip q x.ref x.p.id none).modThread x.ref (fun y =>
        { y with pend := y.pend.map (fun (p : Pend) => if p.id = x.p.id then { p with peer := some n } else p) })

/-! ## Performing -/

/-- The accesses of a pass that wait to be performed, in lane order. -/
def State.passActs (s : State) (c : CRef) (pass : Nat) : List (TRef × Pend × Access) :=
  match s.crew? c with
  | none => []
  | some x => (x.allThreads c).flatMap (fun t => t.2.pend.filterMap (fun p =>
      if p.pass = pass && p.peer.isNone then p.todo.map (fun a => (t.1, p, a)) else none))

/-- Marks an access held by operations (R170). -/
def State.holdPend (s : State) (t : TRef) (id : Nat) (ids : List Nat) : State :=
  s.modThread t (fun x => { x with pend := x.pend.map (fun (p : Pend) => if p.id = id then { p with held := addHeld p.held ids } else p) })

/-- TRAP_DELIVERY for the threads of a group that have standing faults (R377). -/
def State.pokeFaults (s : State) (ts : List TRef) : State :=
  ts.foldl (fun u t => match u.thread? t with
    | some x => if x.faults.isEmpty then u else u.soon (.trapDelivery t)
    | none => u) s

/-- Keeps the translation that an access used (R263). -/
def State.noteTlb (s : State) (t : TRef) (a : Access) : State :=
  match s.vaOf (s.asker t) a.ea with
  | none => s
  | some va => match s.translate (some (s.coreOf t.block)) (s.asidOf t.g) va (needOf a.kind.need) with
    | .inr (_, e) => s.keepTlb (s.coreOf t.block) (s.asidOf t.g) va e
    | .inl _ => s

/-- A mode 0 ring-view address, whose stage the stroke pointer gives. -/
def ringMode0 (ea : DWord) : Bool := field ea 63 48 == 0xFF20 && !ea.getLsbD 23

/-- stamp_read on the rotation stamp of the ring that a mode 0 address names (R326). -/
def State.readRing (s : State) (b : BRef) (ea : DWord) (id : Word) (scope : Nat) (engine : Bool) (c : Clk) : State × Clk :=
  let g := field ea 26 24
  match ((s.block? b).bind (fun x => x.rings[g]?)) with
  | none => (s, c)
  | some r =>
    let k := readCheck r.stamp id engine c
    (s.modBlock b (fun x => { x with rings := x.rings.set g { r with stamp := stampRead r.stamp id scope k } }), k)

/-- A thread's access through a ring view reads the rotation stamp first (R326). -/
def State.ringFirst (s : State) (x : Lact) : State :=
  if !ringMode0 x.a.ea then s
  else match s.thread? x.ref with
    | none => s
    | some t =>
      let q := s.reqOf x t 0
      let r := s.readRing x.ref.block x.a.ea q.id x.a.scope false q.clk
      r.1.commitClks [⟨x.ref, r.2, x.p.seq, x.a.pc⟩]

/-- Performs the group of a pass's accesses on one copy, releases first (R168, R181). -/
def State.runGroup (s : State) (loc : Loc) (core quarter pass : Nat) (xs : List (Lact × Nat)) : State :=
  let s0 := xs.foldl (fun u x => (u.noteTlb x.1.ref x.1.a).ringFirst x.1) s
  let s1 := if xs.any (fun x => x.1.a.kind.releases && 2 ≤ x.1.a.scope) then s0.releaseL1 core else s0
  ((s1.performLanes loc core quarter xs).noteLevel pass (s1.levelOf loc core ((xs.head?.map (fun x => x.1.a.kind)).getD (.load false false)))).pokeFaults (xs.map (fun x => x.1.ref))

/-- Tries to perform one access with its group; a group with a lane that must wait waits whole. -/
def State.tryAccess (s : State) (t : TRef) (p : Pend) (a : Access) : State :=
  match s.placeOf t a with
  | .inl f => (s.accessFault ⟨t, p, a, .phys 0 false⟩ f).pokeFaults [t]
  | .inr pl =>
    let core := s.coreOf t.block
    match pl with
    | .peer chip va =>
      let xs := (s.passActs t.crew p.pass).filterMap (fun q => match s.placeOf q.1 q.2.2 with
        | .inr (.peer c v) => if c = chip && v / 128 = va / 128 then some ((⟨q.1, q.2.1, q.2.2, .peer c v⟩ : Lact), v) else none
        | _ => none)
      if xs.any (fun x => s.orderBlocked x.1.ref x.1.p x.1.a x.1.place) then s
      else (xs.foldl (fun (u : State) x => u.peerSend x.1 chip x.2 (AccKind.peer x.1.a) (s.serial, xs.length)) s).pokeFaults (xs.map (fun x => x.1.ref))
    | _ =>
      match s.locOf pl core a.scope a.kind with
      | none => s
      | some (loc, _) =>
        let xs := (s.passActs t.crew p.pass).filterMap (fun q => match s.placeOf q.1 q.2.2 with
          | .inl _ => none
          | .inr r => (s.locOf r core q.2.2.scope q.2.2.kind).bind (fun lo => if lo.1 = loc then some ((⟨q.1, q.2.1, q.2.2, r⟩ : Lact), lo.2) else none))
        let held := (xs.flatMap (fun x => s.holders x.1.a x.1.place)).eraseDups
        let s1 := if held.isEmpty then s else xs.foldl (fun u x => u.holdPend x.1.ref x.1.p.id held) s
        if !held.isEmpty || xs.any (fun x => s.orderBlocked x.1.ref x.1.p x.1.a x.1.place) then s1
        else if s.spillBlocked a loc then
          (if s1.agenda.any (fun (u : Turn) => u.act == .event (.spillWaitTimeout t p.id)) then s1
           else (s1.noteFull (spillHub loc)).schedule (100 * usTicks) (.event (.spillWaitTimeout t p.id)))
        else s1.runGroup loc core (s.slotOf t.crew / 16) p.pass xs

/-! ## LDT (R178) -/

/-- The rows whose elements lane `l` takes. -/
def ldtRows (l : Nat) : List Nat := [2 * (l % 8), 2 * (l % 8) + 1]

/-- Element of a row's bytes in column `c`. -/
def ldtElem (w c : Nat) (row : Option (List Byte)) : Nat := leNat (((row.getD []).drop (c * w)).take w)

/-- What lane `l` writes, from the rows read. -/
def ldtWrites (w l : Nat) (dest : List (BitVec 7)) (rows : List (Nat × List Byte)) : List (BitVec 7 × Word) :=
  let get := fun (j : Nat) => ldtElem w (l / 8) ((rows.find? (fun r => r.1 == j)).map (fun r => r.2))
  let a := get (2 * (l % 8))
  let b := get (2 * (l % 8) + 1)
  let v := a + b * 2 ^ (8 * w)
  dest.mapIdx (fun i r => (r, wordAtIdx v i))

/-- The fault that a row's access has left standing with its thread, for the lanes that take from the row. -/
def State.rowFault (s : State) (t : TRef) (seq : Nat) : Option PFault :=
  (s.thread? t).bind (fun x => x.faults.find? (fun f => f.how == .region && f.order == seq))

/-- Reads the rows of an LDT, one line group after another, and gives every lane its column. The lanes complete together (R357: one scratchpad
access per pass). -/
def State.runLdt (s : State) (core quarter : Nat) (acts : List (TRef × Pend × Access)) (w : Nat) : State :=
  let rowActs := acts.filter (fun q => q.2.1.lane < 16)
  let r1 := rowActs.foldl (fun (u : State × List (Lact × Nat × Nat)) q => match s.placeOf q.1 q.2.2 with
    | .inl f => (u.1.accessFault ⟨q.1, q.2.1, q.2.2, .phys 0 false⟩ f, u.2)
    | .inr (.pad b off) => (u.1, u.2 ++ [(⟨q.1, q.2.1, q.2.2, .pad b off⟩, off / 128, off % 128)])
    | .inr _ => u) (s, [])
  let lines := (r1.2.map (fun x => x.2.1)).eraseDups
  let r2 := lines.foldl (fun (u : State × List (Nat × List Byte)) n =>
    let xs := r1.2.filter (fun x => x.2.1 == n)
    match xs with
    | [] => u
    | x0 :: _ =>
      let loc : Loc := .pad x0.1.ref.block n
      let u0 := xs.foldl (fun (v : State) x => v.ringFirst x.1) u.1
      let rs := xs.filterMap (fun x => (u0.thread? x.1.ref).map (fun t => (x.1, u0.reqOf x.1 t x.2.2)))
      let wr := u0.threadRaces (u0.stampAt loc) rs
      let g := wr.1.performGroup loc (some core) false (wr.2.map (fun r => r.2))
      let done := wr.2.zip g.2
      (g.1.commitClks (done.map (fun d => ⟨d.1.1.ref, d.2.clk, d.1.1.p.seq, d.1.1.a.pc⟩)),
       u.2 ++ done.map (fun d => (d.1.1.p.lane, d.2.old)))) (r1.1, [])
  let bad := (rowActs.filter (fun q => !r2.2.any (fun r => r.1 == q.2.1.lane))).filterMap (fun q =>
    (r2.1.rowFault q.1 q.2.1.seq).map (fun f => (q.2.1.lane, f)))
  let due := Config.latency r2.1.fresh
  (acts.foldl (fun (u : State) q =>
    let x : Lact := ⟨q.1, q.2.1, q.2.2, .phys 0 false⟩
    let mine := bad.any (fun f => f.1 == q.2.1.lane)
    match bad.find? (fun f => (ldtRows q.2.1.lane).contains f.1) with
    | some f =>
      if mine then u
      else (u.dropPend q.1 q.2.1.id).standFault q.1 { f.2 with order := q.2.1.seq, rpc := q.2.1.rpc, rcount := q.2.1.rcount }
    | none =>
      if mine then u
      else (u.modThread q.1 (fun t => { t with pend := t.pend.map (fun (p : Pend) =>
        if p.id = q.2.1.id then { p with todo := none, writes := ldtWrites w q.2.1.lane x.a.dest r2.2 } else p) })).schedule due
          (.event (.accessComplete q.1 q.2.1.id))) { r2.1 with fresh := r2.1.fresh + 1 }).noteLevel ((acts.head?.map (fun q => q.2.1.pass)).getD 0) 1

def State.tryLdt (s : State) (t : TRef) (p : Pend) (w : Nat) : State :=
  let acts := s.passActs t.crew p.pass
  let rows := (acts.filter (fun q => q.2.1.lane < 16)).filterMap (fun q => match s.placeOf q.1 q.2.2 with
    | .inr pl => some (q, pl)
    | .inl _ => none)
  let held := (rows.flatMap (fun r => s.holders r.1.2.2 r.2)).eraseDups
  if !held.isEmpty then rows.foldl (fun u r => u.holdPend r.1.1 r.1.2.1.id held) s
  else if rows.any (fun r => s.orderBlocked r.1.1 r.1.2.1 r.1.2.2 r.2) then s
  else (s.runLdt (s.coreOf t.block) (s.slotOf t.crew / 16) acts w).pokeFaults (acts.map (fun q => q.1))

/-! ## Trying and trying again -/

/-- Tries operation `id` of a thread; what still waits tries again in the next cycle. -/
def State.attempt (s : State) (t : TRef) (id : Nat) : State :=
  match (s.thread? t).bind (fun x => x.pend.find? (fun p => p.id == id)) with
  | none => s
  | some p =>
    match p.todo with
    | none => s
    | some a =>
      if p.peer.isSome then s
      else if !s.stands t.g then s.again (.accessComplete t id)
      else
        let s1 := match a.ldt with
          | some w => s.tryLdt t p w
          | none => s.tryAccess t p a
        match (s1.thread? t).bind (fun x => x.pend.find? (fun q => q.id == id)) with
        | some q => if q.todo.isSome && q.peer.isNone then s1.again (.accessComplete t id) else s1
        | none => s1

/-- ACCESS_COMPLETE (R54): an access not yet performed is performed; one that has been completes. -/
def execAccessComplete (t : TRef) (id : Nat) (s : State) : Host.Outcome State Fault Refusal :=
  match (s.thread? t).bind (fun x => x.pend.find? (fun p => p.id == id)) with
  | none => .next s
  | some p =>
    if p.todo.isSome then .next (s.attempt t id)
    else .next (((s.completePend t id).sampleDone t.crew).pokeFaults [t])

/-- SPILL_ENTRY_FREE (R418): a waiting contribution tries again. -/
def execSpillEntryFree (t : TRef) (id : Nat) (s : State) : Host.Outcome State Fault Refusal := .next (s.attempt t id)

/-- A contribution that still waits for a spill entry takes SPILLFULL and is not performed. -/
def State.spillTimeout (s : State) (t : TRef) (id : Nat) : State :=
  match (s.thread? t).bind (fun x => x.pend.find? (fun p => p.id == id)) with
  | none => s
  | some p => match p.todo with
    | none => s
    | some a => match s.placeOf t a with
      | .inl _ => s
      | .inr pl => match s.locOf pl (s.coreOf t.block) a.scope a.kind with
        | some (loc, _) =>
          if s.spillBlocked a loc then ((s.accessFault ⟨t, p, a, pl⟩ ⟨10, 16 * spillHub loc⟩).pokeFaults [t]) else s
        | none => s

/-- TRAP_DELIVERY (R378). -/
def execTrapDelivery (t : TRef) (s : State) : Host.Outcome State Fault Refusal :=
  if s.stands t.g || (s.group? t.g).isNone then .next (s.deliver t) else .next (s.again (.trapDelivery t))

/-! ## Issuing accesses -/

/-- The operation that an issued access is. -/
def accessPend (n : Nat) (e : Env) (o : Ops) (l : Lane) (a : Access) : Pend :=
  let r := l.t.regionAt e.pass.pc e.row.ends
  { Pend.plain n e.pass.num l.t.issued l.lane o.flag with todo := some a, access := true, acquire := a.kind.acquires, rpc := r.1, rcount := r.2 }

/-- Gives each lane its access, and performs them now or leaves them to ACCESS_COMPLETE (R267, log entry 2); one event for the rows of an
LDT, one time for the stores of a pass (R357). -/
def State.issueAccesses (s : State) (e : Env) (o : Ops) (ls : List Lane) (mk : Lane → Access) : State :=
  let r := ls.foldl (fun (u : State × List (TRef × Nat)) l =>
    let n := u.1.serial
    ({ u.1 with serial := n + 1 }.modThread l.ref (fun t => { t with pend := t.pend ++ [accessPend n e o l (mk l)] }), u.2 ++ [(l.ref, n)])) (s, [])
  let one := ls.any (fun l => (mk l).ldt.isSome)
  let xs := if one then r.2.take 1 else r.2
  let stores := ls.any (fun l => match (mk l).kind with
    | .store _ => true
    | _ => false)
  if !e.pass.defer then xs.foldl (fun u x => u.attempt x.1 x.2) r.1
  else if stores then xs.foldl (fun u x => u.schedule (Config.latency e.pass.num) (.event (.accessComplete x.1 x.2))) r.1
  else xs.foldl (fun u x => u.soon (.accessComplete x.1 x.2)) r.1

/-- An access of `size` bytes at `ea`, with its destination registers. -/
def mkAccess (e : Env) (o : Ops) (k : AccKind) (ea : DWord) (size : Nat) (data : Nat) (dest : Nat) : Access :=
  { kind := k, pc := e.pass.pc, ea := ea, size := size, scope := scopeOf o, data := BitVec.ofNat 128 data, dest := groupRegs o.vd.num dest, ldt := none }

/-- A class 4 access instruction; no fault of R393 is its own. -/
def memOp (code : Nat) (o : Ops) (mk : Env → Lane → Access) (s : State) : Host.Outcome State Fault Refusal :=
  runPass code o noFaults (fun e ls s1 => s1.issueAccesses e o ls (mk e)) s

def execLd (o : Ops) (s : State) : Host.Outcome State Fault Refusal :=
  memOp 0x100 o (fun e l =>
    let ty := opType e.row o
    let n := typeBits ty / 8
    mkAccess e o (.load (modField o.mod 14 13 = 1) (ty == 1 || ty == 2)) (effAddr o n l) n 0 ((n + 3) / 4)) s

/-- The access of a store's lane. -/
def storeAccess (e : Env) (o : Ops) (l : Lane) : Access :=
  let n := typeBits (opType e.row o) / 8
  mkAccess e o (.store (modField o.mod 14 13 = 2)) (effAddr o n l) n l.src.d 0

/-- Two lanes of a store, each with the place of its `n` bytes, store to a common byte (R168). -/
def lanesOverlap (xs : List (Nat × Place)) (n : Nat) : Bool := xs.any (fun x => xs.any (fun y => x.1 < y.1 && x.2.meets n y.2 n))

/-- Active lanes of a store's pass store to a common byte (R168): the bytes are those that their addresses name, private ones of each thread's own stack (R245),
as they translate at issue (log entry 29). -/
def State.storeOverlaps (s : State) (o : Ops) (p : Pass) : Bool :=
  match s.env? p 0x101 o with
  | none => false
  | some e =>
    lanesOverlap (((e.issuing o (fun _ => [])).filter (fun l => l.exec)).filterMap (fun l => match s.placeOf l.ref (storeAccess e o l) with
      | .inr pl => some (l.lane, pl)
      | .inl _ => none)) (typeBits (opType e.row o) / 8)

def execSt (o : Ops) (s : State) : Host.Outcome State Fault Refusal :=
  runPass 0x101 o noFaults (fun e ls s1 => s1.issueAccesses e o ls (storeAccess e o)) (s.logPass (s.storeOverlaps o))

def execLdt (o : Ops) (s : State) : Host.Outcome State Fault Refusal :=
  runPass 0x102 o noFaults (fun e ls s1 =>
    let w := typeBits (opType e.row o) / 8
    s1.issueAccesses e o ls (fun l =>
      { mkAccess e o (.load false false) (effAddr o (4 * w) l) (4 * w) 0 (if w = 4 then 2 else 1) with scope := 0, ldt := some w })) (s.logPass (fun _ => true))

/-- PREF (R177): no architectural effect; its flag falls one cycle after issue. -/
def execPref (o : Ops) (s : State) : Host.Outcome State Fault Refusal :=
  runPass 0x103 o noFaults (fun e ls s1 => s1.flagPends e o ls 1) s

/-! ## ATOM and RED (R179, R180, R403) -/

/-- The lowest pair of lanes with equal addresses, as SAMEADDR's DETAIL (the lower lane, and the other from bit 5) and address. -/
def samePair : List (Nat × DWord) → Option (Nat × DWord)
  | [] => none
  | x :: xs => match xs.find? (fun y => y.2 == x.2) with
    | some y => some (x.1 + 32 * y.1, x.2)
    | none => samePair xs

def sameAddr (e : Env) (o : Ops) (l : Lane) : List IssueFault :=
  let act := (e.lanes o).filter (fun x => x.exec && !e.consumes o x)
  match samePair (act.map (fun x => (x.lane, BitVec.ofNat 64 x.src.a + immSext o))) with
  | some d => if act.any (fun x => x.lane == l.lane) then [class1 0xA d.1 d.2] else []
  | none => []

def execAtom (o : Ops) (s : State) : Host.Outcome State Fault Refusal :=
  runPass 0x140 o (fun e l => sameAddr e o l) (fun e ls s1 =>
    let op := modField o.mod 8 5
    let ty := opType e.row o
    let sem := modField o.mod 14 13
    let n := memBytes ty
    s1.issueAccesses e o ls (fun l =>
      mkAccess e o (.atom op ty (sem % 2 = 1) (2 ≤ sem)) (BitVec.ofNat 64 l.src.a + immSext o) n
        (l.src.b % 2 ^ 64 + 2 ^ 64 * (if op = 8 then l.src.c else 0)) ((n + 3) / 4))) s

def execRed (o : Ops) (s : State) : Host.Outcome State Fault Refusal :=
  runPass 0x141 o (fun e l => sameAddr e o l) (fun e ls s1 =>
    let ty := opType e.row o
    s1.issueAccesses e o ls (fun l =>
      mkAccess e o (.red (modField o.mod 8 5) ty) (BitVec.ofNat 64 l.src.a + immSext o) (memBytes ty) l.src.b 0)) s

/-! ## MATCH (R183) -/

/-- The lanes of the group of `l`, ascending. -/
def matchGroup (ls : List Lane) (l : Lane) : List Nat := (ls.filter (fun x => x.src.a == l.src.a)).map (fun x => x.lane)

def matchResult (mode : Nat) (ls : List Lane) (l : Lane) : Nat :=
  let g := matchGroup ls l
  match mode with
  | 0 =>
    let rank := (g.filter (fun n => n < l.lane)).length
    (g.headD 0) + 32 * (g.length - 1) + 2 ^ 10 * rank + (if rank = 0 then 2 ^ 15 else 0)
  | 1 => if g.length = ls.length then 1 else 0
  | _ => if ls.all (fun x => (matchGroup ls x).length == 1) then 1 else 0

def execMatch (o : Ops) (s : State) : Host.Outcome State Fault Refusal :=
  laneOp 0x142 o (fun _ ls l => some (matchResult (modField o.mod 17 16) ls l)) (fun ls _ => ls) s

end Sys2Proof.Machine
end

