-- ==== Sys2Proof/Machine/Sync.lean ====
section
/-!
DEFINITION. FENCE (R184), barriers (R185 to R189, R404), the counter wait (R190, R439, R440), and the end of a block (R134, R269).
-/
namespace Sys2Proof

def BarRef.num : BarRef → Nat
  | .blk _ _ i => i
  | .sec _ i => i
  | .dev _ i => i

/-- The scope code of a barrier. -/
def BarRef.scope : BarRef → Nat
  | .blk .. => 1
  | .sec .. => 2
  | .dev .. => 3

end Sys2Proof

namespace Sys2Proof.Machine

/-- Gives every lane an operation of variable latency without a result (R54). -/
def State.latePends (s : State) (e : Env) (o : Ops) (ls : List Lane) : State :=
  if o.flag.isNone then s else ls.foldl (fun u l => u.addLate e o l [] false) s

/-! ## FENCE (R184) -/

/-- Every earlier access of a thread at a FENCE has been performed, because the FENCE ends a region (R43). -/
def execFence (o : Ops) (s : State) : Host.Outcome State Fault Refusal :=
  runPass 0x143 o noFaults (fun e ls s1 =>
    let x := scopeOf o
    let s2 := if 2 ≤ x && !ls.isEmpty then (s1.releaseL1 e.core).acquireL1 e.core else s1
    (s2.onLanes ls (fun _ t => t.setClk (t.clk.fence x))).latePends e o ls) s

/-! ## Barriers (R185 to R189) -/

/-- The barrier that an instruction of a crew names. -/
def State.barOf (s : State) (o : Ops) (c : CRef) : BarRef :=
  let id := modField o.mod 19 16
  match scopeOf o with
  | 1 => .blk c.g c.k id
  | 2 => .sec c.g id
  | _ => .dev (((s.group? c.g).map (fun g => g.launch)).getD 0) id

def State.bar (s : State) : BarRef → Barrier
  | .blk g k i => (((s.block? ⟨g, k⟩).bind (fun b => b.bars[i]?))).getD Barrier.reset
  | .sec g i => (((s.group? g).bind (fun x => x.bars[i]?))).getD Barrier.reset
  | .dev l i => (((s.launch? l).bind (fun x => x.bars[i]?))).getD Barrier.reset

def State.modBar (s : State) (r : BarRef) (f : Barrier → Barrier) : State :=
  match r with
  | .blk g k i => s.modBlock ⟨g, k⟩ (fun b => { b with bars := b.bars.modify i f })
  | .sec g i => s.modGroup g (fun x => { x with bars := x.bars.modify i f })
  | .dev l i => s.modLaunch l (fun x => { x with bars := x.bars.modify i f })

/-- The launch whose crews share a barrier. -/
def State.barLaunch (s : State) : BarRef → Option Launch
  | .blk g _ _ => s.launchOf g
  | .sec g _ => s.launchOf g
  | .dev l _ => s.launch? l

/-- The declared participant count (R185); grid barriers have 0 (R301). -/
def State.declared (s : State) (r : BarRef) : Nat :=
  match r, s.barLaunch r with
  | .blk _ _ i, some l => (l.p.bpart[i]?).getD 0
  | .sec _ i, some l => (l.p.spart[i]?).getD 0
  | _, _ => 0

/-- The crews that share a barrier, by logical position (R186). -/
def State.barCrews (s : State) (r : BarRef) : List (CRef × Crew) :=
  match r with
  | .blk g k _ => ((s.block? ⟨g, k⟩).map (fun b => b.allCrews ⟨g, k⟩)).getD []
  | .sec g _ => ((s.group? g).map (fun x => (x.blocks.mapIdx (fun k b => b.allCrews ⟨g, k⟩)).flatten)).getD []
  | .dev l _ => (s.groups.filter (fun g => g.launch == l)).flatMap (fun g => (g.blocks.mapIdx (fun k b => b.allCrews ⟨g.gid, k⟩)).flatten)

/-- Every crew that shares the barrier is placed or saved. -/
def State.allStanding (s : State) (r : BarRef) : Bool :=
  match r with
  | .dev l _ => ((s.launch? l).map (fun x => x.next == x.p.groupCount)).getD true
  | _ => true

def Crew.gone (c : Crew) : Bool := c.threads.all (fun t => t.exited)

/-- The crew has arrived in the open phase (R186). -/
def crewArrived (b : Barrier) (c : CRef) (x : Crew) : Bool :=
  b.arr.any (fun a => a.who.crew == c) && (x.allThreads c).all (fun t => t.2.exited || b.arr.any (fun a => a.who == t.1))

/-! ### Arriving -/

/-- The count that an arrival names (R186, R404). -/
def namedCount (s : State) (o : Ops) (r : BarRef) (l : Lane) : Nat := if modField o.mod 15 15 = 1 then l.src.a % 2 ^ 32 else s.declared r

/-- DETAIL 0 of BARCOUNT. -/
def countBad (o : Ops) (n : Nat) : Bool :=
  modField o.mod 15 15 = 1 && (match scopeOf o with | 1 => 64 < n | 2 => 6144 < n | _ => n != 0)

def barCause (r : BarRef) (sub : Nat) : Word := mkCause 1 0xB (sub + 2 ^ 9 * r.scope + 2 ^ 12 * r.num) false false

/-- The count that the phase has or that the pass's first arrival gives it: a lane that takes a fault does not arrive. -/
def phaseCount (s : State) (o : Ops) (r : BarRef) (e : Env) : Option Nat :=
  match (s.bar r).fixed with
  | some p => some p
  | none => (((e.lanes o).filter (fun x => x.exec && (e.standing o x (fun _ => [])).isNone && x.t.mayIssue && !countBad o (namedCount s o r x))).head?).map
      (namedCount s o r)

/-- A replayed chunk that ends in a trap ends here, whatever replay's own order of arrivals would meet (R408). -/
def State.barTrapDue (s : State) (l : Lane) : Bool := s.replays l.ref.g && l.t.left = 0 && l.t.trapDue

def barFaults (s : State) (o : Ops) (e : Env) (l : Lane) : List IssueFault :=
  let r := s.barOf o e.pass.crew
  let n := namedCount s o r l
  if countBad o n then [⟨0xB, barCause r 0, 0⟩]
  else if phaseCount s o r e != some n || s.barTrapDue l then [⟨0xB, barCause r 1, 0⟩]
  else []

def setArrival (r : BarRef) (phase : Word) (waited : Bool) (l : List Arrival) : List Arrival :=
  ⟨r, phase, waited⟩ :: l.filter (fun a => a.bar != r)

/-- The lanes arrive (R186, R187): a release at the barrier's scope first (R181). -/
def State.arrive (s : State) (e : Env) (o : Ops) (ls : List Lane) : State :=
  let r := s.barOf o e.pass.crew
  let s0 := if 2 ≤ r.scope && !ls.isEmpty then s.releaseL1 e.core else s
  let n := match (s.bar r).fixed with
    | some p => some p
    | none => ls.head?.map (namedCount s o r)
  let phase := (s.bar r).phase
  let s1 := ls.foldl (fun (u : State) l =>
    match u.thread? l.ref with
    | none => u
    | some t =>
      (u.modBar r (fun b => { b with fixed := n, arr := b.arr ++ [⟨l.ref, t.s, t.o, u.identOf l.ref⟩] })).modThread l.ref (fun y =>
        { y with arrivals := setArrival r phase false y.arrivals })) s0
  let s2 := match r with
    | .dev .. => if ls.isEmpty then s1 else s1.modBlock e.pass.crew.block (fun b => { b with gridArrived := true })
    | _ => s1
  if ls.isEmpty then s2 else s2.atStart (.barrierPhaseComplete r)

def execBarArr (o : Ops) (s : State) : Host.Outcome State Fault Refusal :=
  runPass 0x144 o (barFaults s o) (fun e ls s1 => (s1.arrive e o ls).latePends e o ls) s

/-! ### Waiting -/

/-- A waiting thread goes on (R188): Shared lines go first at `.sec` and `.dev`, then s takes in M. -/
def State.endBarWait (s : State) (t : TRef) (r : BarRef) (m : Word) (pend : Nat) : State :=
  let s1 := if 2 ≤ r.scope then s.acquireL1 (s.coreOf t.block) else s
  (s1.modThread t (fun x =>
    { x with s := smax x.s (m + 1), wait := .none, arrivals := x.arrivals.map (fun a => if a.bar = r then { a with waited := true } else a) })).soon
    (.resultWritten t pend)

/-- A lane starts to wait for the phase of its last arrival (R188). -/
def State.startBarWait (s : State) (e : Env) (o : Ops) (l : Lane) (r : BarRef) : State :=
  let n := s.serial
  let s1 := { s with serial := n + 1 }.modThread l.ref (fun t =>
    { t with pend := t.pend ++ [{ Pend.plain n e.pass.num l.t.issued l.lane o.flag with acquire := true }] })
  match (s1.thread? l.ref).bind (fun t => t.arrivals.find? (fun a => a.bar == r && !a.waited)) with
  | none => s1.soon (.resultWritten l.ref n)
  | some a =>
    match (s1.bar r).done.find? (fun d => d.1 == a.phase) with
    | some d => s1.endBarWait l.ref r d.2 n
    | none => s1.modThread l.ref (fun t => { t with wait := .bar r a.phase n })

def State.barWaits (s : State) (e : Env) (o : Ops) (ls : List Lane) : State :=
  let r := s.barOf o e.pass.crew
  let s1 := ls.foldl (fun u l => u.startBarWait e o l r) s
  if ls.isEmpty then s1 else s1.atStart (.barrierPhaseComplete r)

def execBarWait (o : Ops) (s : State) : Host.Outcome State Fault Refusal :=
  runPass 0x145 o noFaults (fun e ls s1 => s1.barWaits e o ls) s

def execBarSync (o : Ops) (s : State) : Host.Outcome State Fault Refusal :=
  runPass 0x146 o (barFaults s o) (fun e ls s1 => (s1.arrive e o ls).barWaits e o ls) s

/-! ### Completing a phase -/

/-- The BAR record of a rotation waits for its release in replay (R334). -/
def State.barRecord (s : State) (g block : Nat) (id : Nat) (phase : Word) : Option (Nat × RRec) :=
  let seq := ((s.launchOf g).map (fun l => l.seq)).getD 0
  (List.range 6).findSome? (fun h =>
    ((s.hub h).recd.replay.find? (fun r => r.kind == 6 && r.launch == seq && r.block == block && r.sreg == id && r.count == phase && !r.complete)).map
      (fun r => (h, r)))

/-- The rings that a block barrier rotates. -/
def State.rotated (s : State) (r : BarRef) : List Nat :=
  match r, s.barLaunch r with
  | .blk _ _ i, some l => (List.range 8).filter (fun g => ((l.p.rings[g]?).getD none).any (fun d => d.bar == i))
  | _, _ => []

/-- Clock of a rotation: every rotated ring's write check raises it (R326). -/
def rotationClk (rings : List Ring) (id : Word) (c : Clk) : Clk := rings.foldl (fun k (r : Ring) => writeCheck r.stamp id k) c

/-- The releases of a ring that are still of use once it has rotated: those of the stages as they stand, and those of iterations that an
XLOOP has yet to write. -/
def keepRels (cmds : List Cmd) (g : Nat) (r : Ring) : List Release :=
  r.rels.filter (fun y => 0 ≤ r.ahead y.seq || cmds.any (fun c => c.op == 1 && c.begun && !c.complete && c.slices.any (fun x =>
    field x.localAddr 26 24 == g && 0 ≤ (y.seq - nextSeq r c x).toInt)))

/-- Rotates the rings of a block barrier: `id` and `c` are those of the stamp's write, `c.s` the phase's M (R187, R223, R326). -/
def State.rotate (s : State) (b : BRef) (rs : List Nat) (id : Word) (c : Clk) : State :=
  let l := s.launchOf b.g
  let n := s.serial
  { s with serial := n + 1 }.modBlock b (fun x =>
    { x with rings := x.rings.mapIdx (fun g (r : Ring) =>
        match (l.bind (fun y => (y.p.rings[g]?).getD none)) with
        | some d =>
          if rs.contains g then
            let r1 : Ring := { stroke := BitVec.ofNat 4 ((r.stroke.toNat + 1) % d.stages), rot := r.rot + 1,
                               stamp := (stampWrite r.stamp id 0 3 1 false c).1, rels := r.rels ++ [({ seq := r.rot + BitVec.ofNat 32 d.stages, turn := n, m := c.s } : Release)] }
            { r1 with rels := keepRels x.cmds g r1 }
          else r
        | none => r) })

/-- The arrivals of crews that the completed phase did not take belong to the next (R186). -/
def moveArrival (r : BarRef) (old : Word) (t : Thread) : Thread :=
  { t with arrivals := t.arrivals.map (fun a => if a.bar = r && a.phase = old then { a with phase := old + 1 } else a),
           wait := match t.wait with
             | .bar q p n => if q = r && p = old then .bar q (old + 1) n else .bar q p n
             | w => w }

/-- The threads that wait on a phase of a barrier, each with its operation. -/
def State.barWaiters (s : State) (r : BarRef) (phase : Word) : List (TRef × Thread × Nat) :=
  (s.barCrews r).flatMap (fun c => (c.2.allThreads c.1).filterMap (fun t => match t.2.wait with
    | .bar q p n => if q = r && p = phase then some (t.1, t.2, n) else none
    | _ => none))

/-- The phase that the threads listed wait on is complete: they go on, those of one crew ready in one cycle (R188, R357; log entry 73). -/
def State.releaseWaiters (s : State) (r : BarRef) (m : Word) (ws : List (TRef × Thread × Nat)) : State :=
  ws.foldl (fun (u : State) w =>
    let ready := (ws.filter (fun x => x.1.crew == w.1.crew)).foldl (fun n x => max n x.2.1.readyAt) 0
    (u.endBarWait w.1 r m w.2.2).modThread w.1 (fun t => { t with readyAt := ready })) s

/-- Completes the open phase with the arrivals of crews `taken` (R187); in replay the BAR record of its rotation is then complete, and LU changes (R334). -/
def State.completePhase (s : State) (r : BarRef) (taken : List CRef) : State :=
  let b := s.bar r
  let mine := b.arr.filter (fun a => taken.contains a.who.crew)
  let rest := b.arr.filter (fun a => !taken.contains a.who.crew)
  let m := match mine with
    | [] => 0
    | a :: as => smaxList a.s (as.map (fun (x : Arr) => x.s))
  let rings := s.rotated r
  let s1 := match r, mine with
    | .blk g k i, a :: as =>
      if rings.isEmpty then s
      else
        let low := as.foldl (fun (x y : Arr) => if y.who.c * 128 + y.who.t < x.who.c * 128 + x.who.t then y else x) a
        let c : Clk := { o := smaxList a.o (as.map (fun (x : Arr) => x.o)), s := m, pa := 0, fs := none, sync := 0, ended := false }
        let clk := rotationClk (rings.filterMap (fun q => (s.block? ⟨g, k⟩).bind (fun x => x.rings[q]?))) low.id c
        let n := s.coreOf ⟨g, k⟩
        let u := (s.rotate ⟨g, k⟩ rings low.id clk).putOne g (n / 96) true
          [slotOfFields [(0, 6), (4, n % 96), (11, s.slotOf ⟨g, k, 0⟩), (17, i), (64, (b.phase + 1).toNat), (96, clk.o.toNat)]]
        match s.barRecord g (s.blockIndex ⟨g, k⟩) i (b.phase + 1) with
        | some x => (u.modRRec x.1 x.2.index (fun y => { y with complete := true })).schedule 0 (.event (.frontierUpdate x.1))
        | none => u
    | _, _ => s
  let s2 := s1.modBar r (fun x => { phase := x.phase + 1, fixed := if rest.isEmpty then none else x.fixed, arr := rest, done := x.done ++ [(x.phase, m)],
                                      came := x.came.filter (fun c => !taken.contains c) })
  let s3 := rest.foldl (fun (u : State) a => u.modThread a.who (moveArrival r b.phase)) s2
  let s4 := s3.releaseWaiters r m (s3.barWaiters r b.phase)
  let owed := (s4.barCrews r).flatMap (fun c => c.2.threads.flatMap (fun t => (t.arrivals.filter (fun a => a.bar == r && !a.waited)).map (fun a => a.phase)))
  let s5 := s4.modBar r (fun x => { x with done := x.done.filter (fun d => owed.contains d.1) })
  if rest.isEmpty then s5 else s5.schedule 0 (.event (.barrierPhaseComplete r))

/-- BARCOUNT of a thread that waits on a phase that can no longer complete: at once, and it stops waiting (R404). -/
def State.barStuck (s : State) (t : TRef) (r : BarRef) (x : Thread) (pend order : Nat) : State :=
  ((s.modThread t (fun y => { y with wait := .none })).dropPend t pend).addFault t
    { how := .async, order := order, cause := barCause r 2, addr := 0, pc := x.pc, rpc := x.regionPc, rcount := x.regionCount, queue := none }

/-- BARCOUNT of the threads that wait on a phase that can no longer complete (R404). -/
def State.barUnreachable (s : State) (r : BarRef) : State :=
  (s.barWaiters r (s.bar r).phase).foldl (fun u w => u.barStuck w.1 r w.2.1 w.2.2 s.serial) { s with serial := s.serial + 1 }

/-- The crews that have arrived in the open phase, in their order: those of this cycle (`here`, by logical position) behind the earlier ones (R186). -/
def cameNow (b : Barrier) (here : List CRef) : List CRef := b.came ++ here.filter (fun c => !b.came.contains c)

/-- BARRIER_PHASE_COMPLETE (R186, R187, R404): completes the open phase where its crews have arrived. Those that arrive in the completion cycle compete by logical
position for what the phase still needs. -/
def execBarrierPhaseComplete (r : BarRef) (s : State) : Host.Outcome State Fault Refusal :=
  let b := s.bar r
  if b.arr.isEmpty then .next s
  else
    let crews : List (CRef × Crew) := s.barCrews r
    let p := b.fixed.getD 0
    let here := cameNow b ((crews.filter (fun c => crewArrived b c.1 c.2)).map (fun c => c.1))
    let u := s.modBar r (fun x => { x with came := here })
    let ready := if p = 0 then s.allStanding r && crews.all (fun (c : CRef × Crew) => c.2.gone || here.contains c.1) else p ≤ here.length
    if ready then
      let held := match r with
        | .blk g k i => s.replays g && !(s.rotated r).isEmpty &&
            !((s.barRecord g (s.blockIndex ⟨g, k⟩) i (b.phase + 1)).map (fun (x : Nat × RRec) => x.2.released)).getD false
        | _ => false
      if held then .next (u.again (.barrierPhaseComplete r))
      else .next (u.completePhase r (if p = 0 then crews.map (fun (c : CRef × Crew) => c.1) else here.take p))
    else
      let open_ := (crews.filter (fun (c : CRef × Crew) => !here.contains c.1 && !c.2.gone)).length
      .next (if 0 < p && here.length + open_ < p then u.barUnreachable r else u)

/-! ## CTRWAIT (R190) -/

/-- The value at which a progress counter stands still (R439). -/
def counterTop : Nat := 2 ^ 64 - 1

def ctrAccess (ea : DWord) (scope : Nat) (dest : BitVec 7) (pc : DWord) : Access :=
  { kind := .load true false, pc := pc, ea := ea, size := 8, scope := scope, data := 0, dest := groupRegs dest 2, ldt := none }

/-- Takes a waiting CTRWAIT off its thread with a region fault. -/
def State.ctrFault (s : State) (t : TRef) (p : Pend) (ea pc : DWord) (cause : Word) : State :=
  ((s.modThread t (fun x => { x with wait := .none })).dropPend t p.id).standFault t
    { how := .region, order := p.seq, cause := cause, addr := ea, pc := pc, rpc := p.rpc, rcount := p.rcount, queue := none }

/-- What a value that a CTRWAIT reads means: its fault, or whether it satisfies the wait. -/
def ctrVerdict (target : DWord) (last : Option DWord) (v : Nat) : Option Nat ⊕ Bool :=
  if v = counterTop then .inl (some 4)
  else if last.any (fun l => v < l.toNat) then .inl (some 5)
  else .inr (target.toNat ≤ v)

/-- The wait is over: the registers take the value and the thread goes on. -/
def State.ctrDone (s : State) (t : TRef) (p : Pend) (dest : BitVec 7) (v : Nat) : State :=
  (s.modThread t (fun x =>
    { x with wait := .none,
             pend := x.pend.map (fun (q : Pend) =>
               if q.id = p.id then { q with todo := none, peer := none, writes := (groupRegs dest 2).mapIdx (fun i r => (r, wordAtIdx v i)) } else q) })).soon
    (.resultWritten t p.id)

/-- Applies the satisfying read's stamp and clocks (R173, R439); a trapped race takes the read's place. -/
def State.ctrSatisfy (s : State) (x : Lact) (loc : Loc) (off : Nat) (converted : Bool) (dest : BitVec 7) (v : Nat) : State :=
  match s.thread? x.ref with
  | none => s
  | some t =>
    let core := s.coreOf x.ref.block
    let w := s.threadRaces (s.stampAt loc) [(x, s.reqOf x t off)]
    if w.2.isEmpty then w.1.modThread x.ref (fun y => { y with wait := .none })
    else
      let g := w.1.performGroup loc (some core) converted (w.2.map (fun r => r.2))
      let s1 := g.1.commitClks (g.2.map (fun r => ⟨x.ref, r.clk, x.p.seq, x.a.pc⟩))
      let s2 := if 2 ≤ x.a.scope then s1.acquireL1 core else s1
      s2.ctrDone x.ref x.p dest v

/-- Something of this tick is still to come that may write a counter: reads of counters stand behind it (R447). -/
def State.addsToCome (s : State) : Bool :=
  (s.agenda.takeWhile (fun (t : Turn) => t.dt == 0)).any (fun (t : Turn) => match t.act with
    | .event (.ctrwaitReread _) => false
    | .event (.counterWaitSatisfied _) => false
    | .tick (.records _) => false
    | .tick .logs => false
    | _ => true)

/-- One read of a waiting CTRWAIT. -/
def State.ctrRead (s : State) (t : TRef) : State :=
  match s.thread? t with
  | none => s
  | some x =>
    match x.wait with
    | .ctr ea target dest scope last n =>
      match x.pend.find? (fun p => p.id == n) with
      | none => s.modThread t (fun y => { y with wait := .none })
      | some p =>
        let pc := (p.todo.map (fun a => a.pc)).getD 0
        let a := ctrAccess ea scope dest pc
        match s.locate (s.asker t) ea 8 8 0 (fun ap => ap == .global || ap == .stack || ap == .peerGlobal || ap == .own) false with
        | .inl f => s.ctrFault t p ea pc (mkCause 2 f.code f.detail false true)
        | .inr pl =>
          if s.orderBlocked t p a pl then s.inCycle (s.cycle + 1) (.ctrwaitReread t)
          else match pl with
            | .peer chip va =>
              if p.peer.isSome then s
              else if s.chipLost chip then s.ctrFault t p ea pc (mkCause 2 7 8 false true)
              else s.peerSend ⟨t, p, a, pl⟩ chip va (.counter target) (s.serial, 1)
            | _ => match s.locOf pl (s.coreOf t.block) scope (.load true false) with
              | none => s
              | some (loc, off) =>
                let level := s.levelOf loc (s.coreOf t.block) (.load true false)
                let rd := (s.noteLevel p.pass level).prepare loc (some (s.coreOf t.block)) (s.slotOf t.crew / 16) (.load true false)
                let s1 := rd.st
                match s.thread? t with
                | none => s
                | some y =>
                  if rd.poisonedAt loc (s.hitAt loc) (s1.reqOf ⟨t, p, a, pl⟩ y off) then s1.ctrFault t p ea pc (mkCause 2 8 (16 * s1.badUnit loc) false true)
                  else if rd.ovf then s1.ctrFault t p ea pc (mkCause 2 9 0 false true)
                  else
                    let v := leNat (s1.readAt loc off 8)
                    match ctrVerdict target last v with
                    | .inl c => s1.ctrFault t p ea pc (mkCause 4 (c.getD 4) 0 false true)
                    | .inr true => s1.ctrSatisfy ⟨t, p, a, pl⟩ loc off rd.converted dest v
                    | .inr false =>
                      (s1.modThread t (fun z => { z with wait := .ctr ea target dest scope (some (BitVec.ofNat 64 v)) n })).inCycle (s.cycle + 1) (.ctrwaitReread t)
    | _ => s

/-- CTRWAIT_REREAD (R190): the next read of a waiting thread, behind every add of its cycle (R447). -/
def execCtrwaitReread (t : TRef) (s : State) : Host.Outcome State Fault Refusal :=
  .next (if s.addsToCome then s.schedule 0 (.event (.ctrwaitReread t)) else (s.ctrRead t).pokeFaults [t])

/-- CTRWAIT (R190): its first read takes place at the end of the cycle, so that an add of the same cycle comes before it (R447). -/
def execCtrwait (o : Ops) (s : State) : Host.Outcome State Fault Refusal :=
  runPass 0x147 o noFaults (fun e ls s1 =>
    ls.foldl (fun (u : State) l =>
      let n := u.serial
      let ea := BitVec.ofNat 64 l.src.a
      let a := ctrAccess ea (scopeOf o) o.vd.num e.pass.pc
      ({ u with serial := n + 1 }.modThread l.ref (fun t =>
        { t with pend := t.pend ++ [accessPend n e o l a], wait := .ctr ea (BitVec.ofNat 64 l.src.b) o.vd.num (scopeOf o) none n })).inCycle u.cycle
        (.ctrwaitReread l.ref)) s1) s

/-! ## The end of a block (R134, R269) -/

/-- A packet is complete (R310): what waits for that looks again. -/
def State.packetComplete (s : State) (x : CoxId) (n : Nat) : State :=
  let s1 := s.modCox x (fun c => { c with openP := c.openP.filter (· != n) })
  match (s1.cox x).wait with
  | .ord => s1.schedule 0 (.event (.ordWaitSatisfied x))
  | .checkpoint => s1.schedule 0 (.event (.checkpointCut x))
  | _ => s1

/-- The recorders of a launch that has ended: its open blocks are closed, and where no other launch records or replays they are idle. -/
def State.endRecording (s0 : State) (seq : DWord) : State :=
  let s := (List.range 6).foldl (fun (u : State) h => u.flushCyc h) s0
  let more := s.launches.any (fun l => l.isOpen && recordMode l.p.modes != 0)
  { s with hubs := s.hubs.map (fun h => { h with recd :=
      { h.recd with openB := h.recd.openB.filter (fun b => b.1 != seq),
                    state := if more || !h.recd.held.isEmpty then h.recd.state else 0, diverged := more && h.recd.diverged,
                    replay := if more then h.recd.replay else [] } }) }

/-- The launch's last block has ended: it closes (R277), and its LAUNCH packet is complete (R310); that of the self-test lets
firmware finish (R470). -/
def State.closeLaunch (s : State) (i : Nat) : State :=
  match s.launch? i with
  | none => s
  | some l =>
    let s1 := (((s.modLaunch i (fun y => { y with isOpen := false })).endRecording l.seq).bbox (hubDie l.cox.hub) 2 l.cox.ctx l.asid 0 l.seq 0).packetComplete
      l.cox l.packet
    if l.cox = ⟨0, 15⟩ && !s.boot.tested then s1.schedule 0 (.event .selftestFinish) else s1

/-- The passes of a block are over: its crews' trace streams end, and its tagged passes get their records (R349, R352). -/
def State.endStreams (s : State) (b : BRef) : State :=
  (((s.block? b).map (fun x => x.allCrews b)).getD []).foldl (fun (u : State) c => (u.traceFlush c.1).writeTags (fun y => y.1 == c.1)) s

/-- Resources of a crew's core return (R55, R56). -/
def State.freeBlock (s : State) (b : BRef) : State :=
  let n := s.coreOf b
  ((s.endStreams b).modCore n (fun c =>
    { c with slots := c.slots.filter (fun x => x.owner.block != b), accs := c.accs.filter (fun x => x.owner.block != b),
             ops := c.ops.filter (fun x => x.crew.block != b) })).modBlock b (fun x => { x with scratch := Memory.empty, stamps := [] })

/-- Everything the block has under way is over. -/
def State.blockDone (s : State) (b : BRef) (x : Block) : Bool :=
  x.crews.all (fun c => c.released) && x.cmds.all (fun c => c.complete || c.flushed || c.failed)
  && x.crews.all (fun c => c.threads.all (fun t => !t.pend.any (fun p => p.todo.isSome || p.peer.isSome)))

/-- BLOCK_END: the block ends once its crews have exited and its commands are complete; what its core's L1 holds goes home. A halt of its context may be complete
with it (R343). -/
def execBlockEnd (b : BRef) (s : State) : Host.Outcome State Fault Refusal :=
  match s.block? b, s.group? b.g with
  | some x, some g =>
    if x.ended then .next s
    else if !g.placed then .next (if x.crews.all (fun c => c.released) then s.again (.blockEnd b) else s)
    else if !s.blockDone b x then
      .next (if x.crews.all (fun c => c.released) then s.again (.blockEnd b) else s)
    else
      let s1 := ((s.releaseL1 x.core).freeBlock b).modBlock b (fun y => { y with ended := true })
      let s2 := s1.modLaunch g.launch (fun l => { l with ended := l.ended + 1 })
      let s3 := if ((s2.group? b.g).map (fun y => y.blocks.all (fun z => z.ended))).getD false then
        { s2 with groups := s2.groups.filter (fun y => y.gid != b.g) } else s2
      match s3.launch? g.launch with
      | some l => .next (if l.ended = l.p.x * l.p.y * l.p.z then s3.closeLaunch g.launch else s3).checkHalted
      | none => .next s3.checkHalted
  | _, _ => .next s

end Sys2Proof.Machine
end

