-- ==== Sys2Proof/Machine/Engine.lean ====
section
/-!
DEFINITION. Engine operations (R195, R196): their accesses, stamps, clocks and chunk records, and the issue of a crew-collective
instruction (R32, R191, R399).
-/
namespace Sys2Proof.Machine

/-! ## Collective issue -/

/-- Runs a collective pass: a fault of any thread goes to all of them (R376), a mixed guard gives CONVERGE (R399), a guard false in all
threads does nothing (R191). -/
def runCollective (code : Nat) (o : Ops) (extra : Env → Lane → List IssueFault) (body : Env → List Lane → State → State) (s : State) :
    Host.Outcome State Fault Refusal :=
  match s.focus with
  | .pass p =>
    match s.env? p code o with
    | none => .next { s with focus := .none }
    | some e =>
      let ls := e.lanes o
      let mixed := if ls.any (fun l => l.exec) && ls.any (fun l => !l.exec) then [class1 6 0 0] else []
      let fault := fun (l : Lane) (f : IssueFault) =>
        ({ how := .issue, order := f.rank, cause := f.cause, addr := f.addr, pc := p.pc, rpc := l.t.regionPc, rcount := l.t.regionCount,
           queue := none } : PFault)
      let bads := ls.filter (fun l => e.consumes o l)
      match lowestFault (ls.flatMap (fun l => if e.consumes o l then [] else e.faults o l (extra e)) ++ mixed) with
      | some f =>
        .next (ls.foldl (fun u l =>
          u.addFault l.ref (if e.consumes o l then (e.standing o l (extra e)).getD (fault l f) else fault l f)) { s with focus := .none })
      | none =>
        if !bads.isEmpty then
          .next (bads.foldl (fun u l => match e.standing o l (extra e) with
            | some f => u.addFault l.ref f
            | none => u) { s with focus := .none })
        else
          let r := s.issue e o (extra e) true
          .next ((if r.2.isEmpty then r.1 else body e r.2 r.1).sampleDone p.crew)
  | _ => .next s

/-! ## The party -/

/-- The party of an engine operation (R195). `owner`: the crew whose EOP names the operation in its records (R331). -/
structure Eng where
  crew : CRef
  owner : CRef
  id : Word
  pc : DWord
  scope : Nat
  eop : Nat
  clk : Clk
  deriving DecidableEq, Repr

def engClk (o s : Word) : Clk := { o := o, s := s, pa := 0, fs := none, sync := 0, ended := false }

/-- Largest clocks of a crew's threads (R195). -/
def State.crewClocks (s : State) (c : CRef) : Word × Word :=
  match (s.crew? c).map (fun x => x.threads) with
  | some (t :: ts) => (smaxList t.o (ts.map (fun (x : Thread) => x.o)), smaxList t.s (ts.map (fun (x : Thread) => x.s)))
  | _ => (0, 0)

/-- The lowest-numbered thread of a crew that has not exited (R195). -/
def State.lowThread (s : State) (c : CRef) : TRef :=
  c.thread (((s.crew? c).bind (fun x => x.threads.findIdx? (fun t => !t.exited))).getD 0)

/-- The first record of an engine operation's chunks that replay has not completed (R331, R334). -/
def State.engineRecord (s : State) (c : CRef) (eop : Nat) : Option (Nat × RRec) :=
  let seq := ((s.launchOf c.g).map (fun l => l.seq)).getD 0
  (List.range 6).findSome? (fun h =>
    ((s.hub h).recd.replay.find? (fun r => r.kind == 1 && r.sreg == 256 + eop % 256 && r.launch == seq && r.block == s.blockIndex c.block
      && r.crew == c.c && !r.complete)).map (fun r => (h, r)))

/-- A record of the engine operation waits for room in its ring (R333, R450). -/
def State.engineStalls (s : State) (c : CRef) (eop : Nat) : Bool :=
  let n := s.coreOf c.block
  (s.hub (coreSection n)).recd.held.any (fun r =>
    let v := (r.2.headD 0).toNat
    slotField v 3 0 == 1 && slotField v 24 24 == 1 && slotField v 10 4 == n % 96 && slotField v 16 11 == s.slotOf c && slotField v 33 26 == eop % 256)

/-- The engine operation's current chunk may run: no record of it waits for room (R333), and replay has released it (R334). -/
def State.engineMay (s : State) (c : CRef) (eop : Nat) : Bool :=
  !s.engineStalls c eop && (!s.replays c.g || ((s.engineRecord c eop).map (fun x => x.2.released)).getD false)

/-- A replayed chunk of an engine operation ends at another PC than its record's (R448, R452, R453); its COUNT is a free value (log entry 26). -/
def State.engineDiverge (s : State) (c : CRef) (h : Nat) (r : RRec) (pc : DWord) : State :=
  match s.launchOf c.g with
  | none => s
  | some l => s.failCheck { hub := h, code := 1, detail := 0, asid := l.asid, who := none, owner := l.cox, pc := pc,
                            d := ⟨r.ident, r.index / 4, r.launch, r.block + r.crew * 2 ^ 56, r.clock, r.count, Config.engineCount s.fresh, r.pch, pcHash pc, 0, 0⟩ }

/-- An engine operation's chunk ends at a clock: its record in record mode; in replay its check, its completion and a new LU (R195, R327, R331, R334, R452). -/
def State.engineChunk (s : State) (c : CRef) (eop : Nat) (pc : DWord) (clock : Word) : State :=
  let n := s.coreOf c.block
  let s1 := { s with fresh := s.fresh + 1 }.putOne c.g (n / 96) true
    [slotOfFields [(0, 1), (4, n % 96), (11, s.slotOf c), (24, 1), (26, eop % 256), (48, (pcHash pc).toNat), (64, clock.toNat),
                   (96, (Config.engineCount s.fresh).toNat)]]
  match s1.engineRecord c eop with
  | some x =>
    if x.2.pch != pcHash pc then s1.engineDiverge c x.1 x.2 pc
    else (s1.modRRec x.1 x.2.index (fun r => { r with complete := true })).schedule 0 (.event (.frontierUpdate x.1))
  | none => s1

/-- The engines of a block's core take up work of the block: it is not stopped by a pre-emption or the debugger (R291, R343). -/
def State.engineRuns (s : State) (b : BRef) : Bool :=
  ((s.group? b.g).map (fun g => g.st == .resident || g.st == .requested)).getD false
  && ((s.block? b).map (fun x => x.stop == .run)).getD false

/-! ## Accesses -/

/-- Reports the races of an engine's accesses, never as traps (R427). -/
def State.engineRaces (s : State) (e : Eng) (st : Stamp) (xs : List (Req × DWord)) : State :=
  match s.launchOf e.crew.g with
  | none => s
  | some l =>
    if !racesOn l.p.modes then s
    else xs.foldl (fun u x => match u.raceOf st x.1 with
      | none => u
      | some k => u.raceLog l.asid (raceRecord st x.1 k (if recordMode l.p.modes = 2 then 8 else 0) (e.pc.extractLsb' 0 32 |>.zeroExtend 64) x.2 l.seq
          (u.blockIndex e.crew.block + e.crew.c * 2 ^ 56)).bytes none) s

/-- The request of an engine access, its clocks raised to the floor (R195, R258). -/
def State.engReq (s : State) (e : Eng) (kind : AccKind) (off size : Nat) (bytes : List Byte) (v : Nat) : Req :=
  { id := e.id, kind := kind, off := off, size := size, scope := e.scope, bytes := bytes, v := v, w := 0, pc := e.pc.extractLsb' 0 32,
    clk := e.clk.floor (s.floorOf (coreSection (s.coreOf e.crew.block))), engine := true }

/-- The clocks after a group, its chunk end recorded. -/
def State.engAfter (s : State) (e : Eng) (rs : List Res) : State × Eng :=
  let o := smaxList e.clk.o (rs.map (fun (r : Res) => r.clk.o))
  let c := smaxList e.clk.s (rs.map (fun (r : Res) => r.clk.s))
  let s1 := if o = e.clk.o then s else s.engineChunk e.owner e.eop e.pc e.clk.o
  (s1, { e with clk := engClk o c })

/-- stamp_read on the rotation stamp that a mode 0 ring-view address names (R326); a raise of the order clock ends the operation's chunk
(R195, R327). -/
def State.engineRing (s : State) (e : Eng) (b : BRef) (ea : DWord) : State × Eng :=
  let r := s.readRing b ea e.id e.scope true e.clk
  r.1.engAfter e [⟨r.2, [], none⟩]

/-- Performs a group of an engine's accesses on one copy (R168, R195, R196). -/
def State.engineGroup (s : State) (core : Nat) (e : Eng) (loc : Loc) (xs : List (Req × DWord)) : State × Eng × (AFault ⊕ List Res) :=
  match xs with
  | [] => (s, e, .inr [])
  | x0 :: _ =>
    let s0 := match loc with
      | .home l => if x0.1.kind.writes then s.dropL1 core l else s
      | _ => s
    let rd := (s0.noteEngineLevel e.owner e.pc (s0.levelOf loc core x0.1.kind)).prepare loc (some core) 0 x0.1.kind
    if xs.any (fun x => rd.poisonedAt loc true x.1) then (rd.st, e, .inl ⟨8, 16 * rd.st.badUnit loc⟩)
    else if rd.ovf then (rd.st, e, .inl ⟨9, 0⟩)
    else
      let s1 := rd.st.engineRaces e (rd.st.stampAt loc) xs
      let g := s1.performGroup loc none rd.converted (xs.map (fun x => x.1))
      let a := g.1.engAfter e g.2
      (a.1, a.2, .inr g.2)

/-- Splits `n` bytes from offset `off` at line boundaries: (offset, size) of each piece. -/
def linePieces (off : Nat) : Nat → Nat → List (Nat × Nat)
  | 0, _ => []
  | _, 0 => []
  | fuel + 1, n =>
    let k := min n (128 - off % 128)
    (off, k) :: linePieces (off + k) fuel (n - k)

def piecesOf (off n : Nat) : List (Nat × Nat) := linePieces off (n / 128 + 2) n

/-- Reads bytes of a block's scratchpad as an engine. -/
def State.enginePadRead (s : State) (core : Nat) (e : Eng) (b : BRef) (ea : DWord) (off n : Nat) : State × Eng × List Byte :=
  (piecesOf off n).foldl (fun (u : State × Eng × List Byte) p =>
    let r := u.1.engineGroup core u.2.1 (.pad b (p.1 / 128)) [(u.1.engReq u.2.1 (.load false false) (p.1 % 128) p.2 [] 0, ea + BitVec.ofNat 64 (p.1 - off))]
    (r.1, r.2.1, u.2.2 ++ (match r.2.2 with
      | .inr (x :: _) => x.old
      | _ => List.replicate p.2 0))) (s, e, [])

/-- Writes bytes of a block's scratchpad as an engine. -/
def State.enginePadWrite (s : State) (core : Nat) (e : Eng) (b : BRef) (ea : DWord) (off : Nat) (bs : List Byte) : State × Eng :=
  (piecesOf off bs.length).foldl (fun (u : State × Eng) p =>
    let part := (bs.drop (p.1 - off)).take p.2
    let r := u.1.engineGroup core u.2 (.pad b (p.1 / 128)) [(u.1.engReq u.2 (.store false) (p.1 % 128) p.2 part 0, ea + BitVec.ofNat 64 (p.1 - off))]
    (r.1, r.2.1)) (s, e)

/-! ## Ends -/

/-- Completes operation `id` in every thread of a crew; the pass that has issued it may be complete with that (R349). -/
def State.crewComplete (s : State) (c : CRef) (id : Nat) : State :=
  ((List.range 128).foldl (fun u n => u.completePend (c.thread n) id) s).sampleDone c

/-- Ends operation `id` in every thread of a crew without its writes (R376). -/
def State.crewDrop (s : State) (c : CRef) (id : Nat) : State :=
  ((List.range 128).foldl (fun u n => u.dropPend (c.thread n) id) s).sampleDone c

/-- Every thread of a crew takes in an operation's sync clock (R195); the launch's completion does too (R423). -/
def State.crewJoin (s : State) (c : CRef) (sC : Word) : State :=
  let s1 := s.modThreads c (fun _ t => { t with s := smax t.s (sC + 1) })
  match s1.group? c.g with
  | some g => s1.modLaunch g.launch (fun l => { l with endS := smax l.endS sC })
  | none => s1

/-- Adds an operation under way to every thread of a crew (R191). -/
def State.crewPends (s : State) (e : Env) (o : Ops) (ls : List Lane) (id : Nat) : State :=
  s.onLanes ls (fun l t => { t with pend := t.pend ++ [Pend.plain id e.pass.num l.t.issued l.lane o.flag] })

end Sys2Proof.Machine
end

