-- ==== Sys2Proof/Machine/Matrix.lean ====
section
/-!
DEFINITION. Class 6 (R197 to R211, R405, R406, R473): claims, releases, operand slots, accumulators and matrix products.
-/
namespace Sys2Proof.Machine

/-! ## Slot headers (R197, R198, R405) -/

def hdrFmt (h : DWord) : Nat := field h 4 0
def hdrMxe (h : DWord) : Bool := h.getLsbD 8
def hdrSparse (h : DWord) : Nat := field h 10 9
def hdrShape (h : DWord) : Nat := field h 11 11
def hdrK (h : DWord) : Nat := field h 21 12
def hdrTscale (h : DWord) : Nat := field h 29 22
def hdrSeed (h : DWord) : Word := h.extractLsb' 32 32

def mxFmt (f : Nat) : Bool := f == 21 || f == 22

def intFmt (f : Nat) : Bool := f == 1 || f == 5

/-- Kr: elements per row of an A tile. -/
def hdrKr (h : DWord) : Nat := if hdrSparse h = 1 then hdrK h / 2 else if hdrSparse h = 2 then hdrK h / 4 else hdrK h

/-- Elements that the slot holds. -/
def hdrElems (h : DWord) : Nat := if hdrShape h = 0 then 64 * hdrKr h else 128 * hdrK h

/-- Bytes of the elements, after which the scales lie. -/
def elemBytes (h : DWord) : Nat := hdrElems h * typeBits (hdrFmt h) / 8

def scaleCount (h : DWord) : Nat := if mxFmt (hdrFmt h) then (if hdrShape h = 0 then 64 else 128) * (hdrK h / 32) else 0

/-- Bytes of the tile. -/
def tileBytes (h : DWord) : Nat := elemBytes h + scaleCount h

/-- The subcode of the limit that a header breaks (R405, 1 to 5). -/
def headerBad (h : DWord) : Option Nat :=
  if ! [1, 5, 16, 17, 18, 19, 20, 21, 22].contains (hdrFmt h) then some 1
  else if hdrK h < 8 || 512 < hdrK h || hdrK h % 8 ≠ 0 || (mxFmt (hdrFmt h) && hdrK h % 32 ≠ 0) then some 2
  else if 16384 < tileBytes h then some 3
  else if hdrSparse h = 3 || (hdrSparse h ≠ 0 && hdrShape h = 1) then some 4
  else if hdrMxe h && hdrFmt h ≠ 21 then some 5
  else none

/-! ## Element values (R96, R101, R107, R111, R112) -/

/-- Format of a tile's elements. -/
def elemFmt (h : DWord) : Fmt :=
  if hdrFmt h = 21 then (if hdrMxe h then e5m2Fmt else e4m3Fmt) else if hdrFmt h = 22 then e2m1Fmt else fmtOf (hdrFmt h)

/-- Encoding of element `i` of a slot. -/
def slotCode (h : DWord) (d : Memory) (i : Nat) : Nat :=
  match typeBits (hdrFmt h) with
  | 4 => (d.read (i / 2)).toNat / 16 ^ (i % 2) % 16
  | 8 => (d.read i).toNat
  | _ => leNat (d.readN (2 * i) 2)

/-- Value times 2^(x − 127), NaN for scale code 0xFF. -/
def Val.scaled (v : Val) (x : Nat) : Val :=
  if x = 255 then .nan
  else match v with
    | .fin s m e => .fin s m (e + (x : Int) - 127)
    | w => w

/-- An element's value: integer, or float under its scales. `scaleAt`: index of its E8M0 scale. -/
def slotVal (h : DWord) (d : Memory) (i scaleAt : Nat) : Val :=
  let c := slotCode h d i
  if hdrFmt h = 1 then valOfInt (BitVec.ofNat 8 c).toInt 0
  else if hdrFmt h = 5 then .fin false c 0
  else
    let v := ((elemFmt h).val c).scaled (hdrTscale h)
    if mxFmt (hdrFmt h) then v.scaled (d.read (elemBytes h + scaleAt)).toNat else v

def popcount8 (n : Nat) : Nat := ((List.range 8).filter (fun i => n.testBit i)).length

/-- The 8-bit values with `k` bits set, ascending. -/
def maskList (k : Nat) : List Nat := (List.range 256).filter (fun n => popcount8 n == k)

/-- The kept positions of row `i`, group `g` (R111). -/
def keepMask (mode : Nat) (seed : Word) (i g : Nat) : Nat :=
  let x := (xorshift (seed ^^^ (BitVec.ofNat 32 i * 0x9E3779B9) ^^^ BitVec.ofNat 32 g)).toNat
  if mode = 1 then ((maskList 4)[x % 70]?).getD 0 else ((maskList 2)[x % 28]?).getD 0

/-- Element (m, k) of an A tile, none where sparsity drops it. -/
def aVal (h : DWord) (d : Memory) (m k : Nat) : Option Val :=
  let scaleAt := m * (hdrK h / 32) + k / 32
  if hdrSparse h = 0 then some (slotVal h d (m * hdrK h + k) scaleAt)
  else
    let mask := keepMask (hdrSparse h) (hdrSeed h) m (k / 8)
    if mask.testBit (k % 8) then
      some (slotVal h d (m * hdrKr h + k / 8 * (if hdrSparse h = 1 then 4 else 2) + popcount8 (mask % 2 ^ (k % 8))) scaleAt)
    else none

def bVal (h : DWord) (d : Memory) (k n : Nat) : Val := slotVal h d (128 * k + n) (128 * (k / 32) + n)

/-- Chunk width (Table 7). -/
def chunkWidth (f : Nat) : Nat := if f = 16 || f = 17 then 16 else if f = 20 || f = 22 then 64 else 32

/-- The exact sum of the products of a chunk, none for an empty one. -/
def chunkSum (ha hb : DWord) (da db : Memory) (m n lo hi : Nat) : Option Val :=
  (List.range (hi - lo)).foldl (fun (u : Option Val) i =>
    match aVal ha da m (lo + i) with
    | none => u
    | some a =>
      let p := Val.mul a (bVal hb db (lo + i) n)
      match u with
      | none => some p
      | some x => some (Val.add 0 x p)) none

/-- The signed integer that an exact integral value is. -/
def Val.toInt : Val → Int
  | .fin s m e => let v : Int := m * 2 ^ e.toNat; if s then -v else v
  | _ => 0

/-- One element of the accumulator after the product (R107). -/
def productElem (ha hb : DWord) (da db : Memory) (m n : Nat) (c0 : Word) : Word :=
  let w := chunkWidth (hdrFmt ha)
  let k := hdrK ha
  (List.range ((k + w - 1) / w)).foldl (fun c q =>
    match chunkSum ha hb da db m n (q * w) (min k (q * w + w)) with
    | none => c
    | some s =>
      if intFmt (hdrFmt ha) then c + BitVec.ofInt 32 s.toInt
      else BitVec.ofNat 32 (f32Fmt.round 0 false (Val.add 0 (f32Fmt.val c.toNat) s))) c0

def Acc.elem (a : Acc) (i : Nat) : Word := ((a.elems.find? (fun x => x.1 == i)).map (fun x => x.2)).getD 0

/-- The accumulator with elements `lo` to `lo + n - 1` given by `f`. -/
def Acc.put (a : Acc) (lo n : Nat) (f : Nat → Word) : Acc :=
  { a with elems := a.elems.filter (fun x => decide (x.1 < lo))
      ++ ((List.range n).map (fun i => (lo + i, f (lo + i)))).filter (fun x => x.2 != 0)
      ++ a.elems.filter (fun x => decide (lo + n ≤ x.1)) }

/-- The accumulator with element `i` given by `f`. -/
def Acc.fill (a : Acc) (f : Nat → Word) : Acc :=
  { a with elems := ((List.range 8192).map (fun i => (i, f i))).filter (fun x => x.2 != 0) }

/-- The product of two slots added into an accumulator. -/
def Acc.product (a : Acc) (x y : Slot) : Acc :=
  a.fill (fun i => productElem x.header y.header x.data y.data (i / 128) (i % 128) (a.elem i))

/-- What a product finds wrong with its headers: slot and subcode (R405, R406, Table 7). -/
def productBad (sparse : Bool) (a b : Slot) : Option (Nat × Nat) :=
  match headerBad a.header, headerBad b.header with
  | some c, _ => some (a.num, c)
  | none, some c => some (b.num, c)
  | none, none =>
    let fa := hdrFmt a.header
    let fb := hdrFmt b.header
    let pair := (fa == fb && [16, 17, 20, 21, 22].contains fa) || ([18, 19].contains fa && [18, 19].contains fb) || (intFmt fa && intFmt fb)
    if hdrShape a.header ≠ 0 || hdrSparse a.header = 0 && sparse || hdrSparse a.header ≠ 0 && !sparse then some (a.num, 6)
    else if hdrShape b.header ≠ 1 then some (b.num, 6)
    else if hdrK a.header ≠ hdrK b.header || !pair || (intFmt fa && hdrTscale a.header ≠ 127) then some (a.num, 6)
    else if intFmt fb && hdrTscale b.header ≠ 127 then some (b.num, 6)
    else none

/-! ## Order on a core (R204) -/

/-- Slots and accumulators that an operation names; a gang product names its slots only where it is their source. -/
def MatOp.names (p : LaunchP) (x : MatOp) : List Nat × List Nat :=
  match x.kind with
  | .claim acc n k => if acc then ([], (List.range k).map (n + ·)) else ((List.range k).map (n + ·), [])
  | .release acc n k => if acc then ([], (List.range k).map (n + ·)) else ((List.range k).map (n + ·), [])
  | .ohdr n _ => ([n], [])
  | .old n _ => ([n], [])
  | .azero n => ([], [n])
  | .ald n _ _ => ([], [n])
  | .ast n _ _ => ([], [n])
  | .ard _ n _ => ([], [n])
  | .mma _ gang d a b _ =>
    let g := gangPlace p x.crew.k
    ((if !gang || g.2.1 = 0 then [a] else []) ++ (if !gang || g.1 = 0 then [b] else []), [d])

def MatOp.isClaim (x : MatOp) : Bool := match x.kind with | .claim .. => true | _ => false

def MatOp.isRelease (x : MatOp) : Bool := match x.kind with | .release .. => true | _ => false

/-- OLD, ALD and AST are engine operations (R195). -/
def MatOp.engine (x : MatOp) : Bool := match x.kind with
  | .old .. => true
  | .ald .. => true
  | .ast .. => true
  | _ => false

/-- Two operations name a common resource. -/
def shares (x y : List Nat × List Nat) : Bool := x.1.any (fun n => y.1.contains n) || x.2.any (fun n => y.2.contains n)

def State.opNames (s : State) (x : MatOp) : List Nat × List Nat :=
  match s.launchOf x.crew.g with
  | some l => x.names l.p
  | none => ([], [])

/-- What an operation names, without what a waiting claim of its own crew issued before it still has to obtain. -/
def State.namesHad (s : State) (core : Nat) (y : MatOp) : List Nat × List Nat :=
  let w := ((s.core core).ops.filter (fun c => c.isClaim && c.crew == y.crew && c.id < y.id)).map (fun c => s.opNames c)
  ((s.opNames y).1.filter (fun n => !w.any (fun c => c.1.contains n)), (s.opNames y).2.filter (fun n => !w.any (fun c => c.2.contains n)))

/-- Operations that stand before `x` in the order of R204. A waiting claim holds its own crew alone, and so does what waits behind it
(log entry 62). -/
def State.orderAhead (s : State) (core : Nat) (x : MatOp) : Bool :=
  (s.core core).ops.any (fun y => y.id < x.id &&
    (if y.crew == x.crew then shares (s.opNames y) (s.opNames x) else !y.isClaim && shares (s.namesHad core y) (s.opNames x)))

/-- The transfer commands that hold a release until they are complete (R194, R200): XCOPYs issued earlier that name one of its slots. What a claim of their own
crew holds back holds nothing (log entry 62). -/
def State.releaseHolders (s : State) (core : Nat) (x : MatOp) : List Nat :=
  if !x.isRelease then []
  else (s.allBlocks.filter (fun b => b.2.core == core && !b.2.ended)).flatMap (fun b =>
    (b.2.cmds.filter (fun c => c.live && c.slices.any (fun y => y.order < x.id && y.slot.any (fun n => (s.opNames x).1.contains n
      && !s.sbUnclaimed core { b := b.1, crew := y.crew, slot := some n, lo := 0, hi := 1, write := true, order := y.order, id := c.id, sC := c.sC, ring := none,
                               past := none })))).map (fun c => c.id))

/-- Commands and operations whose scoreboard entries hold `x` (R213), and those that a release waits for. -/
def State.opHolders (s : State) (core : Nat) (x : MatOp) : List Nat :=
  let b := x.crew.block
  let wr := match x.kind with | .mma .. => false | _ => true
  let slots := match x.kind with | .claim .. => [] | _ => (s.opNames x).1
  let pad := match x.range, x.kind with
    | some r, .ast .. => s.engineHolders core b none r.1 r.2 true x.id x.id
    | some r, _ => s.engineHolders core b none r.1 r.2 false x.id x.id
    | none, _ => []
  slots.flatMap (fun n => s.engineHolders core b (some n) 0 1 wr x.id x.id) ++ pad ++ s.releaseHolders core x

/-! ## Ownership (R405) -/

/-- DETAIL of OWNER. -/
def ownerDetail (acc : Bool) (n : Nat) (other : Bool) : Nat := n + (if acc then 32 else 0) + (if other then 64 else 0)

/-- The first resource that the crew does not own. -/
def Core.notOwned (c : Core) (k : CRef) (slots accs : List Nat) : Option Nat :=
  (slots.findSome? (fun n => match c.slots.find? (fun x => x.num == n) with
    | some x => if x.owner = k then none else some (ownerDetail false n true)
    | none => some (ownerDetail false n false))).or
  (accs.findSome? (fun n => match c.accs.find? (fun x => x.num == n) with
    | some x => if x.owner = k then none else some (ownerDetail true n true)
    | none => some (ownerDetail true n false)))

def Core.slot (c : Core) (n : Nat) (k : CRef) : Slot := (c.slots.find? (fun x => x.num == n)).getD ⟨n, k, 0, Memory.empty⟩

def Core.acc (c : Core) (n : Nat) (k : CRef) : Acc := (c.accs.find? (fun x => x.num == n)).getD ⟨n, k, []⟩

def State.setSlot (s : State) (core : Nat) (x : Slot) : State :=
  s.modCore core (fun c => { c with slots := c.slots.map (fun y => if y.num = x.num then x else y) })

def State.setAcc (s : State) (core : Nat) (x : Acc) : State :=
  s.modCore core (fun c => { c with accs := c.accs.map (fun y => if y.num = x.num then x else y) })

/-! ## Ending an operation -/

/-- The operation leaves its core; engine operations hand on their sync clock (R195). -/
def State.endOp (s : State) (core : Nat) (x : MatOp) (engine : Bool) (e : Eng) : State :=
  let s1 := (s.modCore core (fun c => { c with ops := c.ops.filter (fun y => y.id != x.id) })).crewComplete x.crew x.id
  if engine then (((s1.engineChunk x.crew x.eop x.pc e.clk.o).letGo x.crew.g x.id e.clk.s).crewJoin x.crew e.clk.s) else s1

/-- The operation fails: no effect, its flag falls, and its crew takes the fault (R376, R405). -/
def State.failOp (s : State) (core : Nat) (x : MatOp) (cause : Word) (addr : DWord) : State :=
  (((s.modCore core (fun c => { c with ops := c.ops.filter (fun y => y.id != x.id) })).letGo x.crew.g x.id x.sC).crewDrop x.crew x.id).crewFault
    x.crew cause addr none

def State.engOf (_ : State) (x : MatOp) : Eng :=
  { crew := x.crew, owner := x.crew, id := x.ident, pc := x.pc, scope := 0, eop := x.eop, clk := engClk x.oC x.sC }

def State.findOp (s : State) (core id : Nat) : Option MatOp := (s.core core).ops.find? (fun x => x.id == id)

/-- A claim or release waits for the crew's earlier MOVS that have yet to read `$oslots` or `$atiles` (R233). -/
def State.readsHeld (s : State) (x : MatOp) : Bool :=
  (x.isClaim || x.isRelease) && ((s.crew? x.crew).map (fun k => k.threads.any (fun t => t.pend.any (fun (p : Pend) => p.id < x.id &&
    (p.sreg.map (fun r => r.1 == 0x1A || r.1 == 0x1B)).getD false)))).getD false

/-- Marks an operation as held and looks again in the next cycle. -/
def State.holdOp (s : State) (core : Nat) (x : MatOp) (ids : List Nat) (i : Instr) : State :=
  (s.modCore core (fun c => { c with ops := c.ops.map (fun y => if y.id = x.id then { y with held := addHeld y.held ids } else y) })).again i

/-- Runs `f` when the operation's turn has come under R204 and R213, and replay lets an engine operation (R334), else looks again. -/
def State.whenTurn (s : State) (core : Nat) (x : MatOp) (i : Instr) (f : State → State) : State :=
  let held := s.opHolders core x
  if !s.engineRuns x.crew.block then s
  else if s.orderAhead core x || !held.isEmpty || (x.engine && !s.engineMay x.crew x.eop) || s.readsHeld x then s.holdOp core x held i else f s

/-! ## Events -/

/-- CLAIM_GRANT (R199, R405): all-or-none, behind every earlier waiting claim that names one of the resources. -/
def execClaimGrant (core id : Nat) (s : State) : Host.Outcome State Fault Refusal :=
  match s.findOp core id with
  | none => .next s
  | some x =>
    match x.kind with
    | .claim acc n k =>
      let names := s.opNames x
      let c := s.core core
      if !s.engineRuns x.crew.block then .next s else
      let behind := c.ops.any (fun y => y.id < x.id && shares (s.opNames y) names && (y.isClaim || y.crew == x.crew))
      let owners := if acc then (c.accs.filter (fun a => names.2.contains a.num)).map (fun a => (a.num, a.owner))
        else (c.slots.filter (fun a => names.1.contains a.num)).map (fun a => (a.num, a.owner))
      if behind || s.readsHeld x || owners.any (fun w => w.2 != x.crew) then .next (s.again (.claimGrant core id))
      else match owners with
        | w :: _ => .next (s.failOp core x (mkCause 1 0xF (ownerDetail acc w.1 false) false false) 0)
        | [] =>
          let s1 := s.modCore core (fun y =>
            if acc then { y with accs := y.accs ++ (List.range k).map (fun i => ⟨n + i, x.crew, []⟩) }
            else { y with slots := y.slots ++ (List.range k).map (fun i => ⟨n + i, x.crew, 0, Memory.empty⟩) })
          .next (s1.endOp core x false (s1.engOf x))
    | _ => .next s

/-- RESOURCE_RELEASE_DONE (R200): clears and frees. -/
def execResourceReleaseDone (core id : Nat) (s : State) : Host.Outcome State Fault Refusal :=
  match s.findOp core id with
  | none => .next s
  | some x =>
    if !x.isRelease then .next s
    else .next (s.whenTurn core x (.resourceReleaseDone core id) (fun s =>
      let n := s.opNames x
      match (s.core core).notOwned x.crew n.1 n.2 with
      | some d => s.failOp core x (mkCause 1 0xF d false false) 0
      | none =>
        (s.modCore core (fun c => { c with slots := c.slots.filter (fun y => !n.1.contains y.num), accs := c.accs.filter (fun y => !n.2.contains y.num) })).endOp
          core x false (s.engOf x)))

/-- Where the scratchpad side of an OLD, ALD or AST lies: the fault of its address, or the offset taken at issue (R196), which R412 bounds. -/
def State.moveSide (s : State) (x : MatOp) (ea : DWord) (size kind : Nat) : AFault ⊕ Nat :=
  let bound := fun (off : Nat) => match padBound (s.padBytes x.crew.g) off size with
    | some f => (.inl f : AFault ⊕ Nat)
    | none => .inr off
  match s.locate (s.asker (s.lowThread x.crew)) ea 0 128 kind (fun ap => ap == .own || ap == .ring) false, x.range.map (fun r => r.1) with
  | .inr (.pad _ _), some off => bound off
  | .inr (.pad _ off), none => bound off
  | .inr _, _ => .inl (apertureFault 8)
  | .inl f, some off => if f.code = 3 then bound off else .inl f
  | .inl f, none => .inl f

def moveCause (f : AFault) (kind : Nat) : Word := mkCause 2 f.code (f.detail + kind + 4) false false

/-- Bytes that the next step of a move of `size` bytes takes: up to a 4 KiB boundary of its data (R229). -/
def MatOp.stepBytes (x : MatOp) (size : Nat) : Nat := min 4096 (size - x.pos)

/-- A move's step is over: the operation ends, or goes on from the boundary reached. -/
def State.moveOn (s : State) (core : Nat) (x : MatOp) (size : Nat) (e : Eng) : State :=
  if size ≤ x.pos + 4096 then s.endOp core x true e
  else (s.modCore core (fun c => { c with ops := c.ops.map (fun y =>
    if y.id = x.id then { y with pos := y.pos + 4096, oC := e.clk.o, sC := e.clk.s } else y) })).soon (.dataMoveComplete core x.id)

/-- Reads the next 4 KiB of the scratchpad side and hands the bytes on. -/
def State.moveIn (s : State) (core : Nat) (x : MatOp) (ea : DWord) (size : Nat) (k : State → List Byte → State) : State :=
  match s.moveSide x ea size 0 with
  | .inl f => s.failOp core x (moveCause f 0) ea
  | .inr off =>
    let r := s.enginePadRead core (s.engOf x) x.crew.block (ea + BitVec.ofNat 64 x.pos) (off + x.pos) (x.stepBytes size)
    (k r.1 r.2.2).moveOn core x size r.2.1

/-- Bytes of an accumulator element in memory under a type: `.b32`, `.f16` or `.bf16`. -/
def accBytes (ty : Nat) : Nat := if ty = 11 then 4 else 2

def accLoad (ty code : Nat) : Word := BitVec.ofNat 32 (if ty = 11 then code else f32Fmt.round 0 false ((fmtOf ty).val code))

def accStore (ty : Nat) (v : Word) : List Byte :=
  if ty = 11 then leBytes 4 v.toNat else leBytes 2 ((fmtOf ty).round 0 false (f32Fmt.val v.toNat))

/-- What ARD gives thread `t`: row 4j + t/32, four columns from 4(t mod 32) (R203). -/
def ardWords (a : Acc) (j t : Nat) : List Word := (List.range 4).map (fun i => a.elem (128 * (4 * j + t / 32) + 4 * (t % 32) + i))

/-- The effect of a data move whose turn has come (R201 to R203, R405); of an OLD, ALD or AST its next 4 KiB (R229). -/
def State.moveEffect (s : State) (core : Nat) (x : MatOp) : State :=
  let n := s.opNames x
  match (s.core core).notOwned x.crew n.1 n.2 with
  | some d => s.failOp core x (mkCause 1 0xF d false false) 0
  | none =>
    let c := s.core core
    match x.kind with
    | .ohdr m h => (s.setSlot core { c.slot m x.crew with header := h }).endOp core x false (s.engOf x)
    | .old m ea =>
      let y := c.slot m x.crew
      (match headerBad y.header with
       | some sub => s.failOp core x (mkCause 1 0xE (m + 32 * sub) false false) 0
       | none => s.moveIn core x ea (tileBytes y.header) (fun u bs => u.setSlot core { y with data := y.data.writeN x.pos bs }))
    | .azero m => (s.setAcc core { c.acc m x.crew with elems := [] }).endOp core x false (s.engOf x)
    | .ald m ty ea =>
      s.moveIn core x ea (8192 * accBytes ty) (fun u bs =>
        u.setAcc core ((c.acc m x.crew).put (x.pos / accBytes ty) (bs.length / accBytes ty) (fun i =>
          accLoad ty (leNat ((bs.drop (accBytes ty * i - x.pos)).take (accBytes ty))))))
    | .ast m ty ea =>
      (match s.moveSide x ea (8192 * accBytes ty) 1 with
       | .inl f => s.failOp core x (moveCause f 1) ea
       | .inr off =>
         let a := c.acc m x.crew
         let r := s.enginePadWrite core (s.engOf x) x.crew.block (ea + BitVec.ofNat 64 x.pos) (off + x.pos)
           ((List.range (x.stepBytes (8192 * accBytes ty) / accBytes ty)).flatMap (fun i => accStore ty (a.elem (x.pos / accBytes ty + i))))
         r.1.moveOn core x (8192 * accBytes ty) r.2)
    | .ard vd m j =>
      let a := c.acc m x.crew
      let s1 := s.modThreads x.crew (fun t y => { y with pend := y.pend.map (fun (p : Pend) =>
        if p.id = x.id then { p with writes := (groupRegs vd 4).zip (ardWords a j t) } else p) })
      s1.endOp core x false (s1.engOf x)
    | _ => s

/-- DATA_MOVE_COMPLETE: OHDR, OLD, AZERO, ALD, AST and ARD take effect. -/
def execDataMoveComplete (core id : Nat) (s : State) : Host.Outcome State Fault Refusal :=
  match s.findOp core id with
  | none => .next s
  | some x => .next (s.whenTurn core x (.dataMoveComplete core id) (fun u => u.moveEffect core x))

/-! ## Products -/

/-- The members of a gang operation that have issued, with their cores (R210). -/
def State.gangOps (s : State) (x : MatOp) : List (Nat × MatOp) :=
  match s.launchOf x.crew.g, s.group? x.crew.g, x.kind with
  | some l, some g, .mma _ true _ _ _ seq =>
    let first := (gangPlace l.p x.crew.k).2.2
    ((List.range (l.p.grows * l.p.gcols)).filterMap (fun i =>
      (g.blocks[first + i]?).bind (fun b =>
        ((s.core b.core).ops.find? (fun y => y.crew == ⟨x.crew.g, first + i, x.crew.c⟩ &&
          (match y.kind with | .mma _ true _ _ _ q => q == seq | _ => false))).map (fun y => (b.core, y)))))
  | _, _, _ => []

def State.gangSize (s : State) (g : Nat) : Nat := ((s.launchOf g).map (fun l => l.p.grows * l.p.gcols)).getD 0

/-- Slot and crew numbers of a product's sources: core, owner, number of A and of B (R209). -/
def State.sources (s : State) (core : Nat) (x : MatOp) (members : List (Nat × MatOp)) : (Nat × CRef × Nat) × (Nat × CRef × Nat) :=
  match s.launchOf x.crew.g, x.kind with
  | some l, .mma _ true _ a b _ =>
    let me := gangPlace l.p x.crew.k
    let at_ := fun (r c : Nat) => members.find? (fun m => m.2.crew.k == me.2.2 + r * l.p.gcols + c)
    let src := fun (m : Option (Nat × MatOp)) (pick : MatKind → Nat) (dflt : Nat) => (match m with
      | some y => (y.1, y.2.crew, pick y.2.kind)
      | none => (core, x.crew, dflt))
    let pa := fun (k : MatKind) => (match k with | .mma _ _ _ i _ _ => i | _ => 0)
    let pb := fun (k : MatKind) => (match k with | .mma _ _ _ _ i _ => i | _ => 0)
    (src (at_ me.1 0) pa a, src (at_ 0 me.2.1) pb b)
  | _, .mma _ _ _ a b _ => ((core, x.crew, a), (core, x.crew, b))
  | _, _ => ((core, x.crew, 0), (core, x.crew, 0))

/-- The fault on a product's sources (R405, R406). -/
def State.sourceFault (s : State) (sparse : Bool) (a b : Nat × CRef × Nat) : Option Word :=
  match ((s.core a.1).notOwned a.2.1 [a.2.2] []).or ((s.core b.1).notOwned b.2.1 [b.2.2] []) with
  | some d => some (mkCause 1 0xF d false false)
  | none => (productBad sparse ((s.core a.1).slot a.2.2 a.2.1) ((s.core b.1).slot b.2.2 b.2.1)).map (fun f =>
      mkCause 1 0xE (f.1 + 32 * f.2) false false)

/-- The new accumulator of a product, or the fault of its own accumulator. -/
def State.productOf (s : State) (core : Nat) (x : MatOp) (members : List (Nat × MatOp)) : Option (Nat × Acc) :=
  match x.kind with
  | .mma _ _ d _ _ _ =>
    let q := s.sources core x members
    some (d, ((s.core core).acc d x.crew).product ((s.core q.1.1).slot q.1.2.2 q.1.2.1) ((s.core q.2.1).slot q.2.2.2 q.2.2.1))
  | _ => none

/-- Arithmetic cycles for which a product occupies a matrix unit (R208, Table 7), from its A header; none under a header that faults. -/
def productCycles (sparse : Bool) (a : DWord) : Nat :=
  let rate := match typeBits (hdrFmt a) with
    | 4 => 32768
    | 8 => 16384
    | _ => 8192
  if (headerBad a).isSome then 0 else 8192 * hdrK a / rate / (if sparse then 2 else 1)

/-- Ticks until core `n`'s matrix unit has finished what it has accepted (log entry 66). -/
def State.unitBusy (s : State) (n : Nat) : Nat :=
  (s.agenda.foldl (fun (p : Nat × Nat) (u : Turn) =>
    let at_ := p.1 + u.dt
    (at_, match u.act with
      | .event (.productComplete m _) => if m = n then at_ else p.2
      | _ => p.2)) (0, 0)).2

/-- Ticks until the paired products complete: each starts when its own unit is free (R208). -/
def State.productTicks (s : State) (sparse : Bool) (members : List (Nat × MatOp)) : Nat :=
  members.foldl (fun (u : Nat) m =>
    let q := (s.sources m.1 m.2 members).1
    max u (s.unitBusy m.1 + 10 * productCycles sparse ((s.core q.1).slot q.2.2 q.2.1).header)) 0

/-- PRODUCT_ACCEPT (R473): the product's turn has come, its pairing is complete, and the unit holds fewer than 16. Its turn counts what R213 holds it behind, such as
an XCOPY into a source, and the members of a gang are accepted together, beside the conditions of R204 and R210 that R473 names (DEDUCED, log entry 62). -/
def execProductAccept (core id : Nat) (s : State) : Host.Outcome State Fault Refusal :=
  match s.findOp core id with
  | none => .next s
  | some x =>
    if x.accepted || !s.engineRuns x.crew.block then .next s
    else match x.kind with
      | .mma sparse gang _ _ _ _ =>
        let members := if gang then s.gangOps x else [(core, x)]
        let ready := members.all (fun m =>
          !s.orderAhead m.1 m.2 && (s.opHolders m.1 m.2).isEmpty && ((s.core m.1).ops.filter (fun y => y.accepted)).length < 16)
        if (gang && members.length < s.gangSize x.crew.g) || !ready then .next (s.holdOp core x (s.opHolders core x) (.productAccept core id))
        else
          let s1 := members.foldl (fun (u : State) m => u.modCore m.1 (fun c =>
            { c with ops := c.ops.map (fun y => if y.id = m.2.id then { y with accepted := true } else y) })) s
          .next (members.foldl (fun (u : State) m => u.schedule (s.productTicks sparse members) (.event (.productComplete m.1 m.2.id))) s1)
      | _ => .next s

/-- PRODUCT_COMPLETE (R207, R209, R405, R406): every paired member's accumulator is written from the sources as they stand. -/
def execProductComplete (core id : Nat) (s : State) : Host.Outcome State Fault Refusal :=
  match s.findOp core id with
  | none => .next s
  | some x =>
    match x.kind with
    | .mma sparse gang _ _ _ _ =>
      if !x.accepted then .next s
      else
        let members := if gang then s.gangOps x else [(core, x)]
        match members.findSome? (fun m => let q := s.sources m.1 m.2 members; s.sourceFault sparse q.1 q.2) with
        | some cause => .next (members.foldl (fun u m => u.failOp m.1 m.2 cause 0) s)
        | none =>
          let results := members.map (fun m => (m, s.productOf m.1 m.2 members))
          .next (results.foldl (fun (u : State) r =>
            match r.2 with
            | none => u
            | some a => match (s.core r.1.1).notOwned r.1.2.crew [] [a.1] with
              | some d => u.failOp r.1.1 r.1.2 (mkCause 1 0xF d false false) 0
              | none => (u.setAcc r.1.1 a.2).endOp r.1.1 r.1.2 false (u.engOf r.1.2)) s)
    | _ => .next s

/-! ## Issue -/

/-- The header that an OLD of crew `k` will read (R212): of the crew's last OHDR or `.slot` XCOPY outstanding for the slot, else as it
stands (log entry 62). -/
def State.comingHeader (s : State) (core : Nat) (k : CRef) (n : Nat) : DWord :=
  let hs := ((s.core core).ops.filterMap (fun (y : MatOp) => match y.kind with
      | .ohdr m h => if m = n && y.crew == k then some (y.id, h) else none
      | _ => none))
    ++ (((s.block? k.block).map (fun x => x.cmds)).getD []).flatMap (fun c =>
      (c.slices.filter (fun x => x.slot == some n && x.crew == k.c && !x.done)).map (fun x => (x.order, BitVec.ofNat 64 (x.bw 5 + 2 ^ 32 * x.bw 6))))
  match hs with
  | [] => (((s.core core).slots.find? (fun y => y.num == n)).map (fun y => y.header)).getD 0
  | h :: rest => (rest.foldl (fun (p q : Nat × DWord) => if p.1 < q.1 then q else p) h).2

/-- Bytes that an operation's scoreboard range covers (R212). -/
def State.moveBytes (s : State) (core : Nat) (c : CRef) (k : MatKind) : Option (DWord × Nat) :=
  match k with
  | .old n ea => let h := s.comingHeader core c n; some (ea, if (headerBad h).isSome then 16384 else tileBytes h)
  | .ald _ ty ea => some (ea, 8192 * accBytes ty)
  | .ast _ ty ea => some (ea, 8192 * accBytes ty)
  | _ => none

/-- The offset of a scratchpad or ring-view address (R196). -/
def State.padOff (s : State) (c : CRef) (ea : DWord) : Option Nat :=
  match s.resolve (s.asker (c.thread 0)) ea with
  | .inr (.own, .pad _ off) => some off
  | .inr (.ring, .pad _ off) => some off
  | _ => none

/-- The first event of an operation. -/
def firstEvent (core id : Nat) (k : MatKind) : Instr :=
  match k with
  | .claim .. => .claimGrant core id
  | .release .. => .resourceReleaseDone core id
  | .mma .. => .productAccept core id
  | _ => .dataMoveComplete core id

/-- The first event comes: of a claim in this cycle, since it is granted in the first cycle in which it can be (R199). -/
def State.beginOp (s : State) (core id : Nat) (k : MatKind) : State :=
  match k with
  | .claim .. => s.schedule 0 (.event (firstEvent core id k))
  | _ => s.soon (firstEvent core id k)

/-- A class 6 instruction issues for its crew (R191, R195, R204, R212). -/
def State.issueOp (s : State) (e : Env) (o : Ops) (ls : List Lane) (k : MatKind) : State :=
  let c := e.pass.crew
  let id := s.serial
  let side := s.moveBytes e.core c k
  let range := side.bind (fun m => (s.padOff c m.1).map (fun off => (off, off + m.2)))
  let clks := s.crewClocks c
  let ident := s.identOf (s.lowThread c)
  let engine := side.isSome
  let eop := ((s.crew? c).map (fun x => x.engineOps)).getD 0
  let s1 := { s with serial := id + 1 }.crewPends e o ls id
  let party : Eng := { crew := c, owner := c, id := ident, pc := e.pass.pc, scope := 0, eop := eop, clk := engClk clks.1 clks.2 }
  let r := match side with
    | some m => if ringMode0 m.1 && range.isSome then s1.engineRing party c.block m.1 else (s1, party)
    | none => (s1, party)
  let x : MatOp := { id := id, crew := c, kind := k, flag := o.flag, pc := e.pass.pc, ident := ident, oC := r.2.clk.o, sC := clks.2,
                     accepted := false, range := range, eop := eop, held := [], pos := 0 }
  let s2 := if engine then r.1.modCrew c (fun y => { y with engineOps := y.engineOps + 1 }) else r.1
  (s2.modCore e.core (fun y => { y with ops := y.ops ++ [x] })).beginOp e.core id k

/-- A class 6 instruction. -/
def matOp (code : Nat) (o : Ops) (extra : Env → Lane → List IssueFault) (k : Env → List Lane → MatKind) (s : State) :
    Host.Outcome State Fault Refusal :=
  runCollective code o extra (fun e ls s1 => s1.issueOp e o ls (k e ls)) s

/-- The address in a crew pair. -/
def pairOf (ls : List Lane) : DWord := BitVec.ofNat 64 ((ls.head?.map (fun l => l.src.a)).getD 0)

def execOclaim (o : Ops) (s : State) : Host.Outcome State Fault Refusal :=
  matOp 0x180 o noFaults (fun _ _ => .claim false o.vd.num.toNat (o.vs2.num.toNat + 1)) s

def execAclaim (o : Ops) (s : State) : Host.Outcome State Fault Refusal :=
  matOp 0x184 o noFaults (fun _ _ => .claim true o.vd.num.toNat (o.vs2.num.toNat + 1)) s

def execOrelease (o : Ops) (s : State) : Host.Outcome State Fault Refusal :=
  matOp 0x181 o noFaults (fun _ _ => .release false o.vd.num.toNat (o.vs2.num.toNat + 1)) s

def execArelease (o : Ops) (s : State) : Host.Outcome State Fault Refusal :=
  matOp 0x185 o noFaults (fun _ _ => .release true o.vd.num.toNat (o.vs2.num.toNat + 1)) s

def execOhdr (o : Ops) (s : State) : Host.Outcome State Fault Refusal :=
  matOp 0x182 o noFaults (fun _ ls => .ohdr o.vd.num.toNat (pairOf ls)) s

def execOld (o : Ops) (s : State) : Host.Outcome State Fault Refusal :=
  matOp 0x183 o noFaults (fun _ ls => .old o.vd.num.toNat (pairOf ls)) s

def execAzero (o : Ops) (s : State) : Host.Outcome State Fault Refusal :=
  matOp 0x186 o noFaults (fun _ _ => .azero o.vd.num.toNat) s

def execAld (o : Ops) (s : State) : Host.Outcome State Fault Refusal :=
  matOp 0x187 o noFaults (fun e ls => .ald o.vd.num.toNat (opType e.row o) (pairOf ls)) s

def execAst (o : Ops) (s : State) : Host.Outcome State Fault Refusal :=
  matOp 0x188 o noFaults (fun e ls => .ast o.vd.num.toNat (opType e.row o) (pairOf ls)) s

/-- OPVALUE where j is above 15 or differs between threads (R402). -/
def ardFaults (e : Env) (o : Ops) (_ : Lane) : List IssueFault :=
  let js := (e.lanes o).map (fun l => l.src.b % 2 ^ 32)
  if js.any (fun j => 15 < j || some j != js.head?) then [class1 9 (0x189 + 2 ^ 9 * 2) 0] else []

def execArd (o : Ops) (s : State) : Host.Outcome State Fault Refusal :=
  matOp 0x189 o (fun e l => ardFaults e o l) (fun _ ls => .ard o.vd.num o.vs1.num.toNat ((ls.head?.map (fun l => l.src.b % 2 ^ 32)).getD 0)) s

def execMma (o : Ops) (s : State) : Host.Outcome State Fault Refusal :=
  matOp 0x18A o noFaults (fun _ _ => .mma false false o.vd.num.toNat o.vs1.num.toNat o.vs2.num.toNat 0) s

def execMmas (o : Ops) (s : State) : Host.Outcome State Fault Refusal :=
  matOp 0x18B o noFaults (fun _ _ => .mma true false o.vd.num.toNat o.vs1.num.toNat o.vs2.num.toNat 0) s

/-! ### Gang issue (R210, R406) -/

def kindSparse : MatKind → Bool
  | .mma sp _ _ _ _ _ => sp
  | _ => false

/-- NOGANG in a kernel without `.gang`. -/
def gangFaults (s : State) (code : Nat) (e : Env) (_ : Lane) : List IssueFault :=
  if s.gangSize e.pass.crew.g = 0 then [class1 0xC code 0] else []

/-- When the last member has issued another mnemonic than a paired one, every paired crew takes GANGPAIR, and its sequence number returns. -/
def State.gangPair (s : State) (x : MatOp) : State :=
  let members := s.gangOps x
  if members.length < s.gangSize x.crew.g || members.all (fun m => kindSparse m.2.kind == kindSparse x.kind) then s
  else
    let code := if ((members.head?.map (fun m => kindSparse m.2.kind)).getD false) then 0x18D else 0x18C
    members.foldl (fun (u : State) m =>
      let c := m.2.crew
      let seq := match m.2.kind with | .mma _ _ _ _ _ q => q | _ => 0
      let v := ((u.modCore m.1 (fun k => { k with ops := k.ops.filter (fun y => y.id != m.2.id) })).crewDrop c m.2.id).modCrew c (fun y =>
        { y with gangSeq := seq })
      (List.range 128).foldl (fun (w : State) n => match w.thread? (c.thread n) with
        | some t => if t.exited then w else w.standFault (c.thread n)
            { how := .issue, order := 0xD, cause := mkCause 1 0xD code false false, addr := 0, pc := m.2.pc, rpc := t.regionPc, rcount := t.regionCount,
              queue := none }
        | none => w) v) s

def gangOp (code : Nat) (o : Ops) (sparse : Bool) (s : State) : Host.Outcome State Fault Refusal :=
  runCollective code o (gangFaults s code) (fun e ls s1 =>
    let c := e.pass.crew
    let seq := ((s1.crew? c).map (fun x => x.gangSeq)).getD 0
    let s2 := (s1.issueOp e o ls (.mma sparse true o.vd.num.toNat o.vs1.num.toNat o.vs2.num.toNat seq)).modCrew c (fun x => { x with gangSeq := seq + 1 })
    match s2.findOp e.core s1.serial with
    | some x => s2.gangPair x
    | none => s2) s

def execMmag (o : Ops) (s : State) : Host.Outcome State Fault Refusal := gangOp 0x18C o false s

def execMmags (o : Ops) (s : State) : Host.Outcome State Fault Refusal := gangOp 0x18D o true s

end Sys2Proof.Machine
end

