-- ==== Sys2Proof/Machine/Transfer.lean ====
section
/-!
DEFINITION. Transfer commands (R214 to R229, R436 to R441, R462): issue, queues, checks, chunks of 4 KiB of the local side, progress
counters, XLOOP iterations and XRED commits.
-/
namespace Sys2Proof.Machine

/-! ## Parts of a command (R193, R215, R216) -/

def Slice.trans (x : Slice) : Bool := x.mod.getLsbD 16
def Slice.conv (x : Slice) : Bool := x.mod.getLsbD 17
def Slice.redOp (x : Slice) : Nat := modField x.mod 8 5
def Slice.header (x : Slice) : DWord := BitVec.ofNat 64 (x.bw 5 + 2 ^ 32 * x.bw 6)

/-- XCOPY `.st`, XSCATTER and XRED store; the rest load. -/
def Slice.loads (op : Nat) (x : Slice) : Bool := op = 1 || op = 2 || (op = 0 && !x.mod.getLsbD 18)

def Slice.comb (op : Nat) (x : Slice) : Bool := op = 3 && x.mod.getLsbD 18

/-- Bytes of a memory element. -/
def Slice.msize (x : Slice) : Nat := typeBits x.mtype / 8

def signedWord (v : Nat) : Int := (BitVec.ofNat 32 v).toInt

/-- Place of element `i` of the box in dimension `k`. -/
def boxCoord (dims : List Nat) (i k : Nat) : Nat :=
  i / ((dims.take k).foldl (· * ·) 1) % (max 1 ((dims[k]?).getD 1))

/-- The address of box element `i`, none beyond the edge (R216, R224, R225). `idx` holds the row indices, `iter` the iteration. -/
def Slice.elemAt (op : Nat) (x : Slice) (idx : List Int) (iter i : Nat) : Option DWord :=
  let dims := x.dims op
  let step : Int := (BitVec.ofNat 24 (x.bw 6 / 256)).toInt * iter
  let at_ := (List.range 5).map (fun k =>
    let b := boxCoord dims i k
    if (op = 2 || op = 3) && k = 1 then (idx[b]?).getD 0
    else signedWord (x.bw k) + b + (if op = 1 && x.bw 6 % 8 = k then step else 0))
  let ext := fun (k : Nat) => if k < x.ndim then x.w (3 + k) else 1
  if (List.range 5).all (fun k => 0 ≤ (at_[k]?).getD 0 && (at_[k]?).getD 0 < (ext k : Int)) then
    some (x.base + BitVec.ofInt 64 ((at_[0]?).getD 0 * x.msize
      + ((List.range 4).map (fun k => (at_[k + 1]?).getD 0 * 16 * (x.w (8 + k) : Int))).foldl (· + ·) 0))
  else none

/-- Index of box element `i` on the local side. -/
def Slice.localIndex (op : Nat) (x : Slice) (i : Nat) : Nat :=
  if x.trans then boxCoord (x.dims op) i 0 * ((x.dims op)[1]?).getD 1 + boxCoord (x.dims op) i 1 else i

/-- The box element that lies at index `j` of the local side. -/
def Slice.boxIndex (op : Nat) (x : Slice) (j : Nat) : Nat :=
  let b1 := max 1 (((x.dims op)[1]?).getD 1)
  if x.trans then j % b1 * ((x.dims op)[0]?).getD 1 + j / b1 else j

/-- Elements of one 4 KiB chunk. -/
def Slice.chunkElems (x : Slice) : Nat := 32768 / typeBits x.ltype

/-- The box elements of local indices `lo` to `lo + n - 1`, in ascending box order. -/
def Slice.elems (op : Nat) (x : Slice) (lo n : Nat) : List Nat :=
  if x.trans then (List.range (x.count op)).filter (fun i => lo ≤ x.localIndex op i && x.localIndex op i < lo + n)
  else (List.range n).map (lo + ·)

/-- Elements that lie together in a line, by box index. -/
structure Run where
  ea : DWord
  is : List Nat
  deriving DecidableEq, Repr

def addRun (size : Nat) (acc : List Run) (x : Nat × DWord) : List Run :=
  match acc with
  | r :: rest =>
    if x.2 = r.ea + BitVec.ofNat 64 (size * r.is.length) && x.2.toNat / 128 = r.ea.toNat / 128 then { r with is := r.is ++ [x.1] } :: rest
    else ⟨x.2, [x.1]⟩ :: acc
  | [] => [⟨x.2, [x.1]⟩]

def runsOf (size : Nat) (xs : List (Nat × DWord)) : List Run := (xs.foldl (addRun size) []).reverse

/-! ## Conversion (R217, R102) -/

/-- The largest exponent of an element format (R102). -/
def emaxOf (ty : Nat) (mxe : Bool) : Int := if ty = 22 then 2 else if mxe then 15 else 8

/-- One block of 32: its scale code and element codes. -/
def mxBlock (f : Fmt) (emax : Int) (vs : List Val) : Nat × List Nat :=
  let bad := vs.any (fun v => match v with | .fin .. => false | _ => true)
  if bad then (255, vs.map (fun _ => 0))
  else
    let logs := vs.filterMap (fun v => match v with | .fin _ m e => if m = 0 then none else some ((Nat.log2 m : Int) + e) | _ => none)
    let e0 : Int := match logs with
      | [] => -127
      | l :: ls => ls.foldl max l - emax
    let e := min (max e0 (-127)) 127
    ((e + 127).toNat, vs.map (fun v => match v with
      | .fin s m x => f.round 0 true (.fin s m (x - e))
      | _ => 0))

def Slice.mx (x : Slice) : Bool := x.ltype = 21 || x.ltype = 22

/-- Where the scale of local element `e` of a tile under header `h` lies behind the elements (R198): of its row and block of an A tile, of
its block of 32 rows and column of a B tile. -/
def scaleAt (h : DWord) (e : Nat) : Nat :=
  if hdrShape h = 0 then
    let kr := max 1 (hdrKr h)
    e / kr * (hdrK h / 32) + e % kr * hdrK h / kr / 32
  else 128 * (e / 4096) + e % 128

/-- The blocks of a list of local indices: each scale's place, ascending in its first use, with the indices that share it. -/
def blocksOf (h : DWord) (es : List Nat) : List (Nat × List Nat) :=
  ((es.map (scaleAt h)).eraseDups).map (fun p => (p, es.filter (fun e => scaleAt h e == p)))

/-- Local codes of the memory codes of local elements `lo` and on, with the scales of a block-scaled type and their places (R102, R198, R217; log entry 34). -/
def Slice.convertCodes (x : Slice) (lo : Nat) (cs : List Nat) : List Nat × List (Nat × Nat) :=
  if !x.conv then (cs, [])
  else
    let scaled := cs.map (fun c => Val.mul (sourceVal x.mtype c) (sourceVal 15 (x.bw 7)))
    if x.mx then
      let f := if x.ltype = 22 then e2m1Fmt else if hdrMxe x.header then e5m2Fmt else e4m3Fmt
      let bs := (blocksOf x.header ((List.range cs.length).map (lo + ·))).map (fun b =>
        (b, mxBlock f (emaxOf x.ltype (hdrMxe x.header)) (b.2.map (fun e => (scaled[e - lo]?).getD .nan))))
      let codes := bs.flatMap (fun b => b.1.2.zip b.2.2)
      ((List.range cs.length).map (fun i => ((codes.find? (fun q => q.1 == lo + i)).map (fun q => q.2)).getD 0), bs.map (fun b => (b.1.1, b.2.1)))
    else (scaled.map (fun v => (toType x.ltype 0 true v 0).1), [])

def pairNibbles : List Nat → List Byte
  | [] => []
  | [a] => [BitVec.ofNat 8 (a % 16)]
  | a :: b :: cs => BitVec.ofNat 8 (a % 16 + 16 * (b % 16)) :: pairNibbles cs

def packCodes (bits : Nat) (cs : List Nat) : List Byte := if bits = 4 then pairNibbles cs else cs.flatMap (leBytes (bits / 8))

def unpackCodes (bits : Nat) (bs : List Byte) : List Nat :=
  if bits = 4 then bs.flatMap (fun b => [b.toNat % 16, b.toNat / 16])
  else (List.range (bs.length * 8 / bits)).map (fun i => leNat ((bs.drop (i * (bits / 8))).take (bits / 8)))

/-! ## Commands of a block -/

def State.cmd? (s : State) (b : BRef) (id : Nat) : Option Cmd := (s.block? b).bind (fun x => x.cmds.find? (fun c => c.id == id))

def State.modCmd (s : State) (b : BRef) (id : Nat) (f : Cmd → Cmd) : State :=
  s.modBlock b (fun x => { x with cmds := x.cmds.map (fun c => if c.id = id then f c else c) })

def State.modSlice (s : State) (b : BRef) (id k : Nat) (f : Slice → Slice) : State :=
  s.modCmd b id (fun c => { c with slices := c.slices.modify k f })

def Cmd.crews (c : Cmd) (b : BRef) : List CRef := (c.slices.map (fun x => b.crew x.crew)).eraseDups

/-- The queues look at what stands at their heads. -/
def State.pokeQueues (s : State) (b : BRef) : State :=
  (List.range 4).foldl (fun (u : State) q => u.schedule 0 (.event (.transferCommandBegin b q))) s

/-- The key of a slice's chunk (R441). -/
def chunkKey (s : State) (c : Cmd) (x : Slice) (chunk : Nat) : ChunkKey :=
  { chip := s.chip, core := x.at_.1, slot := x.at_.2, count := c.count, chunk := chunk, cmd := c.id }

/-- Two keys are of one command. -/
def sameCmd (a b : ChunkKey) : Bool := { a with chunk := 0 } == { b with chunk := 0 }

/-- Nothing of the command's chunks stays staged or in a commit table of this package (R441). -/
def State.forgetChunks (s : State) (c : Cmd) : State :=
  let mine := fun (k : ChunkKey) => c.op == 4 && c.slices.any (fun x => sameCmd k (chunkKey s c x 0))
  { s with hubs := s.hubs.map (fun h => { h with commits := h.commits.filter (fun k => !mine k) }),
           l3 := s.l3.map (fun h => { h with staged := h.staged.filter (fun t => !mine t.1) }) }

/-- The issuing core reports a command complete to the other packages that its chunks have gone to, which frees its keys there (R441). -/
def State.reportComplete (s : State) (c : Cmd) : State :=
  match c.slices.head? with
  | some x => c.chips.foldl (fun (u : State) chip => u.sendFlit chip 2 2 (Config.flitParam c.id) (.complete (chunkKey s c x 0))) s
  | none => s

/-- The crews whose slice is still to come (R221). -/
def State.missing (s : State) (b : BRef) (c : Cmd) : List CRef :=
  match s.block? b with
  | none => []
  | some x => ((x.allCrews b).filter (fun k => !k.2.gone && !c.slices.any (fun y => y.crew == k.1.c))).map (fun k => k.1)

/-- A command leaves its block. -/
def State.retireCmd (s : State) (b : BRef) (id : Nat) : State :=
  (s.modBlock b (fun x => { x with cmds := x.cmds.filter (fun c => c.id != id) })).pokeQueues b

def cmdCause (code detail : Nat) : Word := mkCause 4 code detail false false

/-- A crew's part of a flushed command (R438): no effect, its flag falls, FLUSHED. -/
def State.flushCrew (s : State) (c : Cmd) (q : Nat) (k : CRef) : State :=
  (s.crewDrop k c.id).crewFault k (cmdCause 3 (q + 4 * c.op)) 0 none

/-- A flushed command (R438). An XCOPY some of whose slices are still to come stays until they have come, to be flushed with it. -/
def State.flushCmd (s : State) (b : BRef) (c : Cmd) (q : Nat) : State :=
  let s1 := ((c.crews b).foldl (fun (u : State) k => u.flushCrew c q k) s).letGo b.g c.id c.sC
  if c.op = 0 && !(s.missing b c).isEmpty then (s1.modCmd b c.id (fun y => { y with flushed := true })).pokeQueues b else s1.retireCmd b c.id

/-- What a broken queue flushes: commands behind the failed one in it, and commands behind a fence that names it. -/
def flushedBy (cmds : List Cmd) (q order : Nat) : List Cmd :=
  let fences := cmds.filter (fun c => c.op == 5 && c.queues.contains q && order < c.order)
  cmds.filter (fun c => c.live &&
    ((order < c.order && c.queues.contains q) || fences.any (fun f => f.order < c.order && c.queues.any (fun k => f.queues.contains k))))

/-- A command fails: it breaks its queue until the first of its faults to reach a thread is delivered (R438; log entry 32), the named crews take their faults, the
others' flags fall. -/
def State.failCmd (s : State) (b : BRef) (c : Cmd) (faults : List (CRef × Word × DWord)) : State :=
  let q := (c.queues.head?).getD 0
  let s1 := (c.crews b).foldl (fun (u : State) k => u.crewDrop k c.id) s
  let breaks := match faults.findIdx? (fun f => ((s.crew? f.1).map (fun x => !x.gone)).getD false) with
    | some i => [(q, s1.serial + i)]
    | none => []
  let s2 := faults.foldl (fun (u : State) f => u.crewFault f.1 f.2.1 f.2.2 (some q)) s1
  let s3 := ((s2.letGo b.g c.id c.sC).retireCmd b c.id).modBlock b (fun x => { x with broken := breaks ++ x.broken })
  let s4 : State := { (s3.reportComplete c).forgetChunks c with peerChunks := s3.peerChunks.filter (fun p => !(p.b == b && p.cmd == c.id)) }
  let gone := match s4.block? b with
    | some x => flushedBy x.cmds q c.order
    | none => []
  gone.foldl (fun (u : State) d => u.flushCmd b d q) s4

/-! ## Checks at the beginning (R436) -/

/-- The local side's room: bytes from its place to the end of its aperture (R245), none where it is no local side. -/
def localRoom (p : LaunchP) (x : Slice) : Option Nat :=
  let ea := x.localAddr
  if field ea 63 48 = 0xFF00 && field ea 47 20 = 0 then some (2 ^ 20 - field ea 19 0)
  else if field ea 63 48 = 0xFF20 && field ea 47 27 = 0 then
    match (p.rings[field ea 26 24]?).getD none with
    | some d => if d.stage ≤ field ea 18 0 || (!ea.getLsbD 23 && d.stages ≤ field ea 22 19) then none else some (d.stage - field ea 18 0)
    | none => none
  else none

def redTypes (op : Nat) : List Nat := if op = 11 then [15, 16, 17] else if op ≤ 3 then [3, 7, 4, 8] else [11, 12]

/-- Bytes of a slot's tile as a slice fills it. -/
def slotBytes (x : Slice) : Nat :=
  x.localBytes 0 + (if x.conv && x.mx then (if hdrShape x.header = 0 then 64 else 128) * (hdrK x.header / 32) else 0)

/-- The first item that breaks a limit of Tables 9 to 11 and R216, R217, R222, R224, R225: 0 to 15 descriptor word, 16 to 23 box word, 24
local address, 25 modifiers. The spec does not say whether .mx8, whose elements have 8 bits, is a memory type of 8 bits where R214 allows those alone; as a
block-scaled type it is none here (DEDUCED, log entry 31). -/
def Slice.descBad (p : LaunchP) (op : Nat) (x : Slice) : Option Nat :=
  let d := fun (k : Nat) => ((x.dims op)[k]?).getD 1
  let ap := field x.base 63 48
  let memTypes := [1, 2, 3, 4, 5, 6, 7, 8, 9, 10, 11, 12, 14, 15, 16, 17, 18, 19]
  let goodConv := [15, 16, 17].contains x.mtype && ([16, 17, 18, 19].contains x.ltype || (x.slot.isSome && [20, 21, 22].contains x.ltype))
  let tile := if hdrShape x.header = 0 then (hdrKr x.header, 64) else (128, hdrK x.header)
  if field x.base 63 56 ≠ 0 && field x.base 63 56 ≠ 0xE0 && ap ≠ 0xFF10 then some 0
  else if !memTypes.contains x.mtype || 5 < x.ndim || (x.conv && x.loads op && !goodConv) || (!x.conv && x.ltype ≠ x.mtype)
    || ((op = 4 || x.comb op) && !(redTypes x.redOp).contains x.mtype) then some 2
  else if ((List.range x.ndim).find? (fun k => x.w (3 + k) = 0)).isSome then
    ((List.range x.ndim).find? (fun k => x.w (3 + k) = 0)).map (fun k => 3 + k)
  else if x.slot.isSome && (d 0, d 1) ≠ tile then some 12
  else if (x.trans || x.slot.isSome) && d 2 * d 3 * d 4 ≠ 1 then some 13
  else if x.w 14 % 8 ≠ 0 then some 14
  else if (op = 1 && (x.bw 5 = 0 || 2 ^ 31 < x.bw 5)) || ((op = 2 || op = 3) && (x.bw 5 = 0 || 65536 < x.bw 5)) then some 21
  else if (op = 1 && 4 < x.bw 6 % 8) || ((op = 2 || op = 3) && x.bw 6 % 4 ≠ 0) then some 22
  else if x.slot.isSome then (if 16384 < slotBytes x then some 24 else if (x.conv && !x.loads op) || (x.trans && typeBits x.ltype = 4) then some 25 else none)
  else match localRoom p x with
  | none => some 24
  | some room =>
    if room < x.localBytes op || (op = 1 && (field x.localAddr 63 48 ≠ 0xFF20 || x.localAddr.getLsbD 23)) then some 24
    else if (x.conv && !x.loads op) || (x.trans && typeBits x.ltype = 4) then some 25
    else none

/-- The fault of a slice at the beginning: cause and address. -/
def State.sliceBad (s : State) (b : BRef) (p : LaunchP) (op : Nat) (x : Slice) : Option (Word × DWord) :=
  match x.descBad p op with
  | some item => some (cmdCause 1 (item + 32 * op), x.localAddr)
  | none =>
    let owner := match x.slot with
      | some n => (s.core (s.coreOf b)).notOwned (b.crew x.crew) [n] []
      | none => none
    match owner with
    | some d => some (mkCause 1 0xF d false false, 0)
    | none =>
      let alloc := s.padBytes b.g
      let side := if op = 1 || x.slot.isSome then none else (x.off.bind (fun o => padBound alloc o (x.localBytes op))).map (fun f => (f, x.localAddr))
      let index := if op = 2 || op = 3 then (padBound alloc (x.bw 6 % 2 ^ 20) (4 * x.bw 5)).map (fun f =>
        (f, (0xFF00000000000000 : DWord) + BitVec.ofNat 64 (x.bw 6 % 2 ^ 20))) else none
      let align := typeBits x.ltype / 8
      let odd := if x.slot.isNone && 1 < align && x.localAddr.toNat % align ≠ 0 then some ((⟨2, 16 * Nat.log2 align⟩ : AFault), x.localAddr) else none
      let kind := if x.loads op then 1 else 0
      (odd.or (side.or index)).map (fun f => (mkCause 2 f.1.code (f.1.detail + (if f.2 = x.localAddr then kind else 0) + 4) false false, f.2))

/-- A claim of the slice's crew issued before it still waits (R436). -/
def State.claimAhead (s : State) (b : BRef) (x : Slice) : Bool :=
  x.slot.isSome && (s.core (s.coreOf b)).ops.any (fun o => o.isClaim && o.crew == b.crew x.crew && o.id < x.order)

/-! ## Issue -/

/-- SLICE (R437): the lowest crew whose slice disagrees with the lowest crew's. -/
def Cmd.disagrees (c : Cmd) : Option Nat :=
  let low := c.slices.foldl (fun (m : Option Slice) x => match m with
    | some y => if x.crew < y.crew then some x else some y
    | none => some x) none
  match low with
  | none => none
  | some y => ((c.slices.filter (fun x => x.mod != y.mod)).map (fun x => x.crew)).foldl (fun m n => some (min (m.getD n) n)) none

/-- The slice that a pass issues. -/
def sliceOf (s : State) (e : Env) (o : Ops) (ls : List Lane) (op order : Nat) : Slice :=
  let c := e.pass.crew
  let k := fun (n : BitVec 7) (i : Nat) => e.crew.readReg e.cyc (n + BitVec.ofNat 7 i)
  let loc : DWord := BitVec.ofNat 64 ((ls.head?.map (fun l => l.src.b)).getD 0)
  let slot := if op = 0 && o.mod.getLsbD 15 then some o.vs2.num.toNat else none
  { crew := c.c, desc := (List.range 16).map (k o.vs1.num), box := (List.range 8).map (k o.vs3.num),
    localAddr := if slot.isSome then BitVec.ofNat 64 o.vs2.num.toNat else loc,
    off := if op = 1 || slot.isSome then none else s.padOff c loc, slot := slot, mod := o.mod, flag := o.flag, pc := e.pass.pc,
    ident := s.identOf (s.lowThread c), pos := 0, got := [], done := false, order := order, at_ := (s.coreOf c.block, s.slotOf c) }

/-- The block's `k`-th XCOPY, where another crew has issued its slice. -/
def State.openXcopy (s : State) (b : BRef) (k : Nat) : Option Cmd :=
  ((s.block? b).map (fun x => x.cmds)).getD [] |>.find? (fun c => c.op == 0 && c.count == k && !c.begun)

/-- SLICE to every crew of an XCOPY whose slices disagree (R437). -/
def State.failSlices (s : State) (b : BRef) (c : Cmd) (n : Nat) : State := s.failCmd b c ((c.crews b).map (fun k => (k, cmdCause 2 n, 0)))

/-- What becomes of a command behind a slice's issue: flushed in a broken queue, or with its earlier slices (R438); refused where the last slice makes them disagree
(R437); else its queues look at it. -/
def State.issued (s : State) (b : BRef) (k : CRef) (c : Cmd) : State :=
  if c.flushed then
    let s1 := s.flushCrew c ((c.queues.head?).getD 0) k
    if (s1.missing b c).isEmpty then s1.retireCmd b c.id else s1
  else match c.queues.find? (fun q => ((s.block? b).map (fun z => z.broken.any (fun x => x.1 == q))).getD false) with
  | some q => s.flushCmd b c q
  | none => match (if c.op = 0 && (s.missing b c).isEmpty then c.disagrees else none) with
    | some n => s.failSlices b c n
    | none => s.pokeQueues b

/-- A transfer command issues (R218, R221, R195, R437, R438). -/
def State.issueCmd (s : State) (e : Env) (o : Ops) (ls : List Lane) (op : Nat) : State :=
  let c := e.pass.crew
  let b := c.block
  let serial := s.serial
  let x := sliceOf s e o ls op serial
  let nth := ((s.crew? c).map (fun k => k.xcopies)).getD 0
  let clks := s.crewClocks c
  let old := if op = 0 then s.openXcopy b nth else none
  let id := (old.map (fun y => y.id)).getD serial
  let s1 := { s with serial := serial + 1 }.crewPends e o ls id
  let eop := (old.map (fun y => y.eop)).getD (((s.crew? c).map (fun k => k.engineOps)).getD 0)
  let owner := (old.bind (fun y => y.slices.head?.map (fun z => b.crew z.crew))).getD c
  let party : Eng := { crew := c, owner := owner, id := x.ident, pc := x.pc, scope := scopeOf o, eop := eop, clk := engClk clks.1 clks.2 }
  let r := if ringMode0 x.localAddr && x.off.isSome && op ≠ 1 then s1.engineRing party b x.localAddr else (s1, party)
  let s2 := r.1.modCrew c (fun y => { y with engineOps := y.engineOps + 1, xcopies := if op = 0 then y.xcopies + 1 else y.xcopies })
  let s3 := if op = 4 then s2.modBlock b (fun y => { y with xreds := y.xreds + 1 }) else s2
  let s4 := match old with
    | some _ => s3.modCmd b id (fun y => { y with slices := y.slices ++ [x], oC := smax y.oC r.2.clk.o, sC := smax y.sC clks.2 })
    | none =>
      let count := if op = 4 then ((s.block? b).map (fun (y : Block) => y.xreds)).getD 0 else nth
      let cmd : Cmd := { id := id, op := op, queues := [modField o.mod 14 13], scope := scopeOf o, slices := [x], order := id, begun := false,
                         complete := false, flushed := false, failed := false, oC := r.2.clk.o, sC := clks.2, iter := 0, p0 := 0, q0 := 0,
                         count := count, eop := eop, held := [] }
      s3.modBlock b (fun y => { y with cmds := y.cmds ++ [cmd] })
  match s4.cmd? b id with
  | some y => s4.issued b c y
  | none => s4

def xferOp (code : Nat) (o : Ops) (s : State) : Host.Outcome State Fault Refusal :=
  runCollective code o noFaults (fun e ls s1 => s1.issueCmd e o ls (code - 0x1C0)) s

def execXcopy (o : Ops) (s : State) : Host.Outcome State Fault Refusal := xferOp 0x1C0 o s
def execXloop (o : Ops) (s : State) : Host.Outcome State Fault Refusal := xferOp 0x1C1 o s
def execXgather (o : Ops) (s : State) : Host.Outcome State Fault Refusal := xferOp 0x1C2 o s
def execXscatter (o : Ops) (s : State) : Host.Outcome State Fault Refusal := xferOp 0x1C3 o s
def execXred (o : Ops) (s : State) : Host.Outcome State Fault Refusal := xferOp 0x1C4 o s

/-- XFENCE (R228): a fence in each named queue; the slice names its crew and flag. As a transfer command it is an engine operation (R195; log entry 26). -/
def State.issueFence (s : State) (e : Env) (o : Ops) (ls : List Lane) : State :=
  let c := e.pass.crew
  let b := c.block
  let id := s.serial
  let clks := s.crewClocks c
  let queues := (List.range 4).filter (fun q => o.mod.getLsbD (13 + q))
  let s1 := { s with serial := id + 1 }.crewPends e o ls id
  let x : Slice := { crew := c.c, desc := [], box := [], localAddr := 0, off := none, slot := none, mod := o.mod, flag := o.flag, pc := e.pass.pc,
                     ident := s.identOf (s.lowThread c), pos := 0, got := [], done := true, order := id }
  let cmd : Cmd := { id := id, op := 5, queues := queues, scope := 0, slices := [x], order := id, begun := false, complete := false, flushed := false,
                     failed := false, oC := clks.1, sC := clks.2, iter := 0, p0 := 0, q0 := 0, count := 0,
                     eop := ((s.crew? c).map (fun k => k.engineOps)).getD 0, held := [] }
  let s2 := (s1.modCrew c (fun y => { y with engineOps := y.engineOps + 1 })).modBlock b (fun y => { y with cmds := y.cmds ++ [cmd] })
  s2.issued b c cmd

def execXfence (o : Ops) (s : State) : Host.Outcome State Fault Refusal :=
  runCollective 0x1C5 o noFaults (fun e ls s1 => s1.issueFence e o ls) s

/-! ## Beginning (R218, R224, R228, R436) -/

/-- The head of a queue. -/
def queueHead (cmds : List Cmd) (q : Nat) : Option Cmd :=
  (cmds.filter (fun c => c.queues.contains q && c.live)).foldl (fun (m : Option Cmd) c => match m with
    | some d => if c.order < d.order then some c else some d
    | none => some c) none

/-- Another XLOOP on the ring has begun, or was issued earlier, and is not complete (R224). -/
def loopBusy (cmds : List Cmd) (c : Cmd) : Bool :=
  let ring := fun (x : Cmd) => x.slices.head?.map (fun y => field y.localAddr 26 24)
  c.op == 1 && cmds.any (fun d => d.op == 1 && d.id != c.id && (d.begun || d.order < c.order) && d.live && ring d == ring c)

/-- Starts a command that has passed its checks. -/
def State.startCmd (s : State) (b : BRef) (c : Cmd) : State :=
  match c.slices with
  | [] => s.soon (.transferCommandComplete b c.id)
  | x :: _ =>
    if c.op = 1 then
      let r := ((s.block? b).bind (fun y => y.rings[field x.localAddr 26 24]?))
      (s.modCmd b c.id (fun y =>
        { y with begun := true, p0 := (r.map (fun z => z.stroke.toNat)).getD 0, q0 := (r.map (fun z => z.rot)).getD 0 })).soon
        (.xloopIteration b c.id)
    else
      let s1 := s.modCmd b c.id (fun y => { y with begun := true })
      (List.range c.slices.length).foldl (fun (u : State) k => u.soon (.transferChunk b c.id k)) s1

/-- TRANSFER_COMMAND_BEGIN: what stands at the head of a queue begins, or fails its checks. -/
def execTransferCommandBegin (b : BRef) (queue : Nat) (s : State) : Host.Outcome State Fault Refusal :=
  match s.block? b, s.launchOf b.g with
  | some blk, some l =>
    (match queueHead blk.cmds queue with
     | none => .next s
     | some c =>
       if c.begun || !s.engineRuns b || !c.queues.all (fun q => (queueHead blk.cmds q).map (fun d => d.id) == some c.id) then .next s
       else if c.op = 5 then .next ((s.modCmd b c.id (fun y => { y with begun := true })).soon (.transferCommandComplete b c.id))
       else if (c.op = 0 && !(s.missing b c).isEmpty) || loopBusy blk.cmds c || c.slices.any (s.claimAhead b) then
         .next (s.again (.transferCommandBegin b queue))
       else match (if c.op = 0 then c.disagrees else none) with
       | some n => .next (s.failSlices b c n)
       | none =>
         let bad := c.slices.filterMap (fun x => (s.sliceBad b l.p c.op x).map (fun f => (b.crew x.crew, f.1, f.2)))
         if bad.isEmpty then .next (s.startCmd b c) else .next (s.failCmd b c bad))
  | _, _ => .next s

/-! ## Chunks -/

/-- The crew under whose EOP a command's chunks are recorded: that of the first slice issued (R331). -/
def Cmd.owner (c : Cmd) (b : BRef) (x : Slice) : CRef := b.crew (((c.slices.head?).getD x).crew)

def cmdEng (b : BRef) (c : Cmd) (x : Slice) : Eng :=
  { crew := b.crew x.crew, owner := c.owner b x, id := x.ident, pc := x.pc, scope := c.scope, eop := c.eop, clk := engClk c.oC c.sC }

/-- Keeps an engine's clocks in its command. -/
def State.keepClk (s : State) (b : BRef) (id : Nat) (e : Eng) : State :=
  s.modCmd b id (fun c => { c with oC := smax c.oC e.clk.o, sC := smax c.sC e.clk.s })

/-- What work on a chunk has come to: a State and the engine, with the first fault (code, detail, kind, address). -/
structure Work where
  st : State
  eng : Eng
  fail : Option (AFault × Nat × DWord)

/-- Where a run of remote elements lies (R196, R214). -/
def State.remotePlace (s : State) (x : Slice) (b : BRef) (r : Run) (kind : Nat) (fadd : Bool) : AFault ⊕ Place :=
  s.locate (s.asker (s.lowThread (b.crew x.crew))) r.ea (x.msize * r.is.length) (max 1 x.msize) kind
    (fun ap => ap == .global || ap == .peerGlobal || ap == .peerPad) fadd

/-- Reads one run, adding its codes by box index. -/
def readRun (core : Nat) (b : BRef) (x : Slice) (w : Work × List (Nat × Nat)) (r : Run) : Work × List (Nat × Nat) :=
  if w.1.fail.isSome then w
  else match w.1.st.remotePlace x b r 0 false with
  | .inl f => ({ w.1 with fail := some (f, 0, r.ea) }, w.2)
  | .inr pl => match w.1.st.locOf pl core 3 (.load false false) with
    | none => w
    | some (loc, off) =>
      let g := w.1.st.engineGroup core w.1.eng loc [(w.1.st.engReq w.1.eng (.load false false) off (x.msize * r.is.length) [] 0, r.ea)]
      match g.2.2 with
      | .inl f => (⟨g.1, g.2.1, some (f, 0, r.ea)⟩, w.2)
      | .inr rs => (⟨g.1, g.2.1, none⟩, w.2 ++ r.is.zip (unpackCodes (8 * x.msize) ((rs.head?.map (fun q => q.old)).getD [])))

/-- Writes one run of codes. -/
def writeRun (core : Nat) (b : BRef) (x : Slice) (codes : List (Nat × Nat)) (w : Work) (r : Run) : Work :=
  if w.fail.isSome then w
  else match w.st.remotePlace x b r 1 false with
  | .inl f => { w with fail := some (f, 1, r.ea) }
  | .inr pl => match w.st.locOf pl core 3 (.store false) with
    | none => w
    | some (loc, off) =>
      let bytes := r.is.flatMap (fun i => leBytes x.msize (((codes.find? (fun q => q.1 == i)).map (fun q => q.2)).getD 0))
      let g := w.st.engineGroup core w.eng loc [(w.st.engReq w.eng (.store false) off bytes.length bytes 0, r.ea)]
      match g.2.2 with
      | .inl f => ⟨g.1, g.2.1, some (f, 1, r.ea)⟩
      | .inr _ => ⟨g.1, g.2.1, none⟩

/-- Reads the row indices of XGATHER and XSCATTER (R225). -/
def readIndex_ (core : Nat) (b : BRef) (op : Nat) (x : Slice) (w : Work) : Work × List Int :=
  if op = 2 || op = 3 then
    let off := x.bw 6 % 2 ^ 20
    let r := w.st.enginePadRead core w.eng b (0xFF00000000000000 + BitVec.ofNat 64 off) off (4 * x.bw 5)
    (⟨r.1, r.2.1, none⟩, (unpackCodes 32 r.2.2).map signedWord)
  else (w, [])

/-- Local codes of `n` elements from local index `lo`, read from `off`, by box index. -/
def readLocal (core : Nat) (b : BRef) (op : Nat) (x : Slice) (off lo n : Nat) (w : Work) : Work × List (Nat × Nat) :=
  let size := typeBits x.ltype / 8
  let r := w.st.enginePadRead core w.eng b (x.localAddr + BitVec.ofNat 64 (size * lo)) (off + size * lo) (size * n)
  (⟨r.1, r.2.1, none⟩, ((List.range n).map (fun j => x.boxIndex op (lo + j))).zip (unpackCodes (8 * size) r.2.2))

/-- Writes converted codes of local elements `lo` and on to the local side: scratchpad from `off`, or a slot with its header (R222). -/
def writeLocal (core : Nat) (b : BRef) (op : Nat) (x : Slice) (off lo : Nat) (cs : List Nat) (w : Work) : Work :=
  let r := x.convertCodes lo cs
  let bits := typeBits x.ltype
  match x.slot with
  | some n =>
    let y := (w.st.core core).slot n (b.crew x.crew)
    let data := y.data.writeN (bits * lo / 8) (packCodes bits r.1)
    { w with st := w.st.setSlot core { y with header := x.header, data := r.2.foldl (fun (d : Memory) q =>
        d.writeN (x.localBytes op + q.1) [BitVec.ofNat 8 q.2]) data } }
  | none =>
    let g := w.st.enginePadWrite core w.eng b (x.localAddr + BitVec.ofNat 64 (bits * lo / 8)) (off + bits * lo / 8) (packCodes bits r.1)
    ⟨g.1, g.2, none⟩

/-! ### XSCATTER (R226) -/

/-- Other elements of the box that go to the same place, by ascending row position, where `i` is the last of them; none where a later one
exists. -/
def sameRows (op : Nat) (x : Slice) (idx : List Int) (i : Nat) : Option (List Nat) :=
  let dims := x.dims op
  let b0 := (dims[0]?).getD 1
  let j := boxCoord dims i 1
  let row := (idx[j]?).getD 0
  let js := (List.range idx.length).filter (fun k => (idx[k]?).getD 0 == row)
  if js.any (fun k => j < k) then none else some ((js.filter (fun k => k < j)).map (fun k => i - (j - k) * b0))

/-- The combination of contributions (R226). -/
def combine (op ty : Nat) (vs : List Nat) : Nat :=
  match vs with
  | [] => 0
  | [v] => v
  | v :: rest =>
    match rest.foldl (fun (m : Elem) y => Elem.contribute op ty (some m) y) (Elem.contribute op ty none v) with
    | .fl a => a.convert (fmtOf ty)
    | .int n => n.toNat

/-- Codes of `n` local elements from `lo` to store, by box index: as they are, or combined under `.comb`. -/
def storeCodes (core : Nat) (b : BRef) (op : Nat) (x : Slice) (off : Nat) (idx : List Int) (lo n : Nat) (w : Work) : Work × List (Nat × Nat) :=
  let r := readLocal core b op x off lo n w
  if !x.comb op then r
  else r.2.foldl (fun (v : Work × List (Nat × Nat)) q =>
    match sameRows op x idx q.1 with
    | none => v
    | some [] => (v.1, v.2 ++ [q])
    | some others =>
      let t := others.foldl (fun (u : Work × List (Nat × Nat)) i => let z := readLocal core b op x off i 1 u.1; (z.1, u.2 ++ z.2)) (v.1, [])
      (t.1, v.2 ++ [(q.1, combine x.redOp x.mtype (t.2.map (fun y => y.2) ++ [q.2]))])) (r.1, [])

/-! ### XRED (R227, R441) -/

/-- Stages a run's contributions at its home; those to scratchpad are applied. -/
def stageRun (core : Nat) (b : BRef) (x : Slice) (key : ChunkKey) (codes : List (Nat × Nat)) (w : Work) (r : Run) : Work :=
  if w.fail.isSome then w
  else match w.st.remotePlace x b r 2 (x.redOp == 11) with
  | .inl f => { w with fail := some (f, 2, r.ea) }
  | .inr pl =>
    let vals := r.is.map (fun i => ((codes.find? (fun q => q.1 == i)).map (fun q => q.2)).getD 0)
    match w.st.locOf pl core 3 (.red x.redOp x.mtype) with
    | none => w
    | some (.pad k line, off) =>
      let reqs := vals.mapIdx (fun j v => (w.st.engReq w.eng (.red x.redOp x.mtype) (off + x.msize * j) x.msize [] v, r.ea + BitVec.ofNat 64 (x.msize * j)))
      reqs.foldl (fun (u : Work) q =>
        let g := u.st.engineGroup core u.eng (.pad k line) [q]
        ⟨g.1, g.2.1, none⟩) w
    | some (.home l, off) =>
      let part := (vals.mapIdx (fun j v => (j, v))).foldl (fun (p : Partial) q => p.contribute (off / x.msize + q.1) q.2) ⟨x.redOp, x.mtype, []⟩
      { w with st := w.st.modHome l (fun h =>
          { h with staged := (match h.staged.find? (fun t => t.1 == key) with
              | some t => (key, t.2.1.merge part, t.2.2.1, t.2.2.2) :: h.staged.filter (fun t => t.1 != key)
              | none => (key, part, w.eng.clk.o, w.eng.clk.s) :: h.staged) }) }
    | some _ => w

/-- What the merge of a staged partial has come to: the writer's clocks, its fault, the stamp that its request met, and whether it waits for a spill entry. -/
structure Merged where
  st : State
  clk : Clk
  fail : Option AFault
  met : Option (Stamp × Req)
  waits : Bool

/-- Merges the partial that a chunk has staged at a line into the line's buffer, as a reduction of the writer that `req` gives (R174, R441).
`core`: the issuing core, none for a chunk of another package. -/
def State.mergeStaged (s : State) (core : Option Nat) (key : ChunkKey) (l : LineId) (req : State → AccKind → Nat → Req) (c0 : Clk) : Merged :=
  match (s.homeLine l).staged.find? (fun t => t.1 == key) with
  | none => ⟨s, c0, none, none, false⟩
  | some t =>
    let p := t.2.1
    let s0 := match core with
      | some n => s.dropL1 n l
      | none => s
    let rd := s0.prepare (.home l) core 0 (.red p.op p.ty)
    let q := req rd.st (.red p.op p.ty) (memBytes p.ty)
    if rd.poisonedAt (.home l) true q then ⟨rd.st, c0, some ⟨8, 16 * rd.st.badUnit (.home l)⟩, none, false⟩
    else if rd.ovf then ⟨rd.st, c0, some ⟨9, 0⟩, none, false⟩
    else if !rd.st.canBuffer l p.ty then ⟨rd.st, c0, none, none, true⟩
    else
      let st := rd.st.stampAt (.home l)
      let c := redCheck st rd.converted q.clk
      let s1 := ((rd.st.takeBuffer l p.ty).modHome l (fun h =>
        { h with uo := mergePartials h.uo (some p), staged := h.staged.filter (fun u => u.1 != key) })).setHomeStamp l (stampRed st q.id q.pc q.scope c)
      ⟨s1.noteGroup (.home l) [(q, q.clk), (q, c)], c, none, some (st, q), false⟩

/-- The merge of a line for a command of this package. -/
def Work.merge (w : Work) (core : Nat) (key : ChunkKey) (l : LineId) : Merged :=
  w.st.mergeStaged (some core) key l (fun u k n => u.engReq w.eng k 0 n [] 0) w.eng.clk

/-- Merges one staged partial of a command of this package into its line; the second part tells that a line waits for a spill entry. -/
def commitLine (core : Nat) (key : ChunkKey) (ea : LineId → DWord) (w : Work × Bool) (l : LineId) : Work × Bool :=
  if w.2 then w
  else
    let m := w.1.merge core key l
    match m.met with
    | none => (w.1, m.waits)
    | some (st, q) =>
      let a := (m.st.engineRaces w.1.eng st [(q, ea l)]).engAfter w.1.eng [⟨m.clk, [], none⟩]
      (⟨a.1, a.2, none⟩, false)

/-! ### Peers (R246, R462) -/

/-- An address names another package. -/
def State.isFar (s : State) (ea : DWord) : Bool := field ea 63 56 = 0xE0 && ea.extractLsb' 48 8 != s.chip

/-- Above every address of the box, as a number. -/
def Slice.reach (x : Slice) : Nat :=
  x.base.toNat + ((List.range x.ndim).map (fun k => x.w (3 + k) * (if k = 0 then x.msize else 16 * x.w (7 + k)))).sum

/-- The row indices as they stand in the block's scratchpad. -/
def State.indexNow (s : State) (b : BRef) (op : Nat) (x : Slice) : List Int :=
  if op = 2 || op = 3 then
    (unpackCodes 32 (((s.block? b).map (fun z => s.padRead z (x.bw 6 % 2 ^ 20) (4 * x.bw 5))).getD [])).map signedWord
  else []

/-- Some of the slice's next chunk may lie in another package (R245, R410): its base does, or the sum of a base and a place goes on into the peer aperture. -/
def State.isPeer (s : State) (b : BRef) (c : Cmd) (x : Slice) : Bool :=
  s.isFar x.base || (decide ((if field x.base 63 56 < 0xE0 then 0xE0 * 2 ^ 56 else 2 ^ 64) ≤ x.reach) &&
    (x.elems c.op x.pos (min x.chunkElems (x.count c.op - x.pos))).any (fun i =>
      (x.elemAt c.op (s.indexNow b c.op x) c.iter i).any s.isFar))

/-- Sends an engine's peer request, none where no route serves it. -/
def State.enginePeerSend (s : State) (who : TRef) (cmd : Nat) (e : Eng) (ea : DWord) (size : Nat) (kind : PeerKind) : Option State :=
  if s.chipLost (ea.extractLsb' 48 8) then none
  else
    let n := s.serial
    let c := e.clk.floor (s.floorOf (coreSection (s.coreOf who.block)))
    let q : PeerReq := { id := n, src := s.chip, asid := s.asidOf who.g, va := BitVec.ofNat 48 (field ea 47 0), size := size, kind := kind,
                         scope := e.scope, ident := e.id, pc := e.pc, o := c.o, s := c.s, pa := 0, fs := none, engine := true,
                         precise := false, group := (n, 1) }
    some ((s.noteClk (coreSection (s.coreOf who.block)) false c).request (ea.extractLsb' 48 8) q who cmd none)

/-- Elements that a peer load gathers before it writes them: a chunk, which holds whole blocks, for a block-scaled type, and a byte's for one
of 4 bits. -/
def Slice.peerUnit (op : Nat) (x : Slice) : Nat :=
  if !x.loads op then 1 else if x.mx then x.chunkElems else if typeBits x.ltype = 4 then 2 else 1

/-! ### One chunk -/

/-- The fault of a command's access (R409, R410): asynchronous to its crew, DETAIL bit 2 set. -/
def accessCause (f : AFault × Nat × DWord) : Word := mkCause 2 f.1.code (f.1.detail + f.2.1 + 4) false false

/-- The local offset of a slice: that taken at issue, or an XLOOP's stage. -/
def sliceOff (d : Option RingDecl) (c : Cmd) (x : Slice) : Nat :=
  if c.op = 1 then
    match d with
    | some r => r.base + (c.p0 + field x.localAddr 22 19 + c.iter) % r.stages * r.stage + field x.localAddr 18 0
    | none => 0
  else x.off.getD 0

/-- Performs the elements of a chunk. -/
def State.runChunk (s : State) (b : BRef) (c : Cmd) (x : Slice) (off : Nat) : Work :=
  let core := s.coreOf b
  let w0 : Work := ⟨s, cmdEng b c x, none⟩
  let n := min x.chunkElems (x.count c.op - x.pos)
  let is := x.elems c.op x.pos n
  let ix := readIndex_ core b c.op x w0
  let places := fun (js : List Nat) => runsOf x.msize (js.filterMap (fun i => (x.elemAt c.op ix.2 c.iter i).map (fun a => (i, a))))
  if x.loads c.op then
    let r := (places is).foldl (readRun core b x) (ix.1, [])
    if r.1.fail.isSome then r.1
    else writeLocal core b c.op x off x.pos ((List.range n).map (fun j =>
        ((r.2.find? (fun q => q.1 == x.boxIndex c.op (x.pos + j))).map (fun q => q.2)).getD 0)) r.1
  else
    let r := storeCodes core b c.op x off ix.2 x.pos n ix.1
    let rs := places (is.filter (fun i => r.2.any (fun q => q.1 == i)))
    if c.op = 4 then
      (let key := chunkKey s c x (x.pos / x.chunkElems)
       if s.hubs.any (fun h => h.commits.contains key) then r.1
       else rs.foldl (stageRun core b x key r.2) r.1)
    else rs.foldl (writeRun core b x r.2) r.1

/-- Advances a slice by `n` elements; at its end its entry retires and hands on the command's sync clock (R195). -/
def State.advanceSlice (s : State) (b : BRef) (id k n : Nat) (total : Nat) : State :=
  let s1 := s.modSlice b id k (fun x => { x with pos := x.pos + n, got := [], done := total ≤ x.pos + n, since := none })
  match s1.cmd? b id with
  | some c => if ((c.slices[k]?).map (fun x => x.done)).getD false then s1.letGo b.g id c.sC else s1
  | none => s1

/-- Whether all slices are done, then the command may complete. -/
def State.cmdNext (s : State) (b : BRef) (id k : Nat) : State :=
  match s.cmd? b id with
  | none => s
  | some c =>
    if c.op = 1 then s.soon (.xloopIteration b id)
    else if c.slices.all (fun x => x.done) then s.soon (.transferCommandComplete b id)
    else if ((c.slices[k]?).map (fun x => x.done)).getD true then s
    else s.soon (.transferChunk b id k)

/-- One element of a slice that reaches into another package: a request to that package, or the package's own access; a zero beyond the edge. Each is checked as
R410 orders. -/
def State.peerElem (s : State) (b : BRef) (c : Cmd) (k : Nat) (x : Slice) (off : Nat) : State :=
  let core := s.coreOf b
  let low := s.lowThread (b.crew x.crew)
  let w0 : Work := ⟨s, cmdEng b c x, none⟩
  let ix := readIndex_ core b c.op x w0
  let i := x.pos + x.got.length
  let fail := fun (u : State) (f : AFault × Nat × DWord) => u.failCmd b c [(b.crew x.crew, accessCause f, f.2.2)]
  let put := fun (w : Work) (v : Nat) => ((w.st.keepClk b c.id w.eng).modSlice b c.id k (fun y => { y with got := y.got ++ [v] })).cmdNext b c.id k
  if x.loads c.op then
    if x.got.length = x.peerUnit c.op || i = x.count c.op then
      let w := writeLocal core b c.op x off x.pos x.got ix.1
      ((w.st.keepClk b c.id w.eng).advanceSlice b c.id k x.got.length (x.count c.op)).cmdNext b c.id k
    else match x.elemAt c.op ix.2 c.iter (x.boxIndex c.op i) with
    | none => put ix.1 0
    | some ea => match ix.1.st.remotePlace x b ⟨ea, [0]⟩ 0 false with
      | .inl f => fail s (f, 0, ea)
      | .inr (.peer _ _) => (match ix.1.st.enginePeerSend low c.id ix.1.eng ea x.msize (.read false) with
        | some u => u.keepClk b c.id ix.1.eng
        | none => fail s (⟨7, 8⟩, 0, ea))
      | .inr _ =>
        let r := readRun core b x (ix.1, []) ⟨ea, [0]⟩
        match r.1.fail with
        | some f => fail r.1.st f
        | none => put r.1 ((r.2.head?.map (fun q => q.2)).getD 0)
  else
    let moved := fun (w : Work) => ((w.st.keepClk b c.id w.eng).advanceSlice b c.id k 1 (x.count c.op)).cmdNext b c.id k
    let r := storeCodes core b c.op x off ix.2 i 1 ix.1
    match r.2.head?, x.elemAt c.op ix.2 c.iter (x.boxIndex c.op i) with
    | some q, some ea => (match r.1.st.remotePlace x b ⟨ea, [0]⟩ 1 false with
      | .inl f => fail s (f, 1, ea)
      | .inr (.peer _ _) => (match r.1.st.enginePeerSend low c.id r.1.eng ea x.msize (.write false (leBytes x.msize q.2)) with
        | some u => u.keepClk b c.id r.1.eng
        | none => fail s (⟨7, 8⟩, 1, ea))
      | .inr _ =>
        let w := writeRun core b x r.2 r.1 ⟨ea, [q.1]⟩
        match w.fail with
        | some f => fail w.st f
        | none => moved w)
    | _, _ => moved r.1

/-- The parts of an XRED chunk for another package, one for each run of its elements in a line (R227, R321, R441): numbered by their first
contribution. -/
def redParts (q : DWord → PeerReq) (key : ChunkKey) (codes : List (Nat × Nat)) (rs : List Run) : List RedPart :=
  let total := (rs.map (fun r => r.is.length)).sum
  (rs.foldl (fun (u : Nat × List RedPart) r =>
    (u.1 + r.is.length, u.2 ++ [({ req := q r.ea, key := key, total := total, first := u.1,
                                   vals := r.is.map (fun i => ((codes.find? (fun q => q.1 == i)).map (fun q => q.2)).getD 0) } : RedPart)])) (0, [])).2

/-- Sends the parts of a chunk, in class 2. -/
def State.sendParts (s : State) (chip : BitVec 8) (parts : List RedPart) : State :=
  parts.foldl (fun (u : State) r => u.sendFlit chip 2 2 (Config.flitParam r.req.id) (.part r)) s

/-- Sends the contributions `rs` of an XRED chunk to chip `chip`, from where an acknowledgement is due (R462); on a route that is not valid nothing goes out. -/
def State.sendChunk (s : State) (b : BRef) (c : Cmd) (x : Slice) (e : Eng) (codes : List (Nat × Nat)) (chip : BitVec 8) (rs : List Run) : State :=
  let chunk := x.pos / x.chunkElems
  let hub := coreSection (s.coreOf b)
  let k := e.clk.floor (s.floorOf hub)
  let req := fun (ea : DWord) =>
    ({ id := s.serial, src := s.chip, asid := s.asidOf b.g, va := BitVec.ofNat 48 (field ea 47 0), size := x.msize,
       kind := .reduce x.redOp x.mtype 0, scope := c.scope, ident := x.ident, pc := x.pc, o := k.o, s := k.s, pa := 0, fs := none, engine := true,
       precise := false, group := (s.serial, 1) } : PeerReq)
  let parts := redParts req (chunkKey s c x chunk) codes rs
  let p : PeerChunk := { id := s.serial, parts := parts, b := b, cmd := c.id, chunk := chunk, sent := s.now, again := false, chip := chip }
  ((({ s with serial := s.serial + 1, peerChunks := s.peerChunks ++ [p] }.noteClk hub false k).modCmd b c.id (fun y =>
    { y with chips := if y.chips.contains chip then y.chips else y.chips ++ [chip] })).sendParts chip parts).schedule peerTicks
      (.event (.xredChunkTimeout b c.id chunk))

/-- Contributions of the chunk to another package have not been acknowledged, or some are staged in this one. -/
def State.chunkOpen (s : State) (b : BRef) (c : Cmd) (x : Slice) (chunk : Nat) : Bool :=
  s.peerChunks.any (fun p => p.b == b && p.cmd == c.id && p.chunk == chunk) || s.l3.any (fun h => h.staged.any (fun t => t.1 == chunkKey s c x chunk))

/-- An XRED chunk that reaches into another package: its local elements are read, each contribution is checked as R410 orders, those of this package are staged and
those of each other go to it. A chunk all of whose elements lie beyond the edge contributes nothing. -/
def State.peerChunk (s : State) (b : BRef) (c : Cmd) (x : Slice) (off : Nat) : State :=
  let chunk := x.pos / x.chunkElems
  if s.chunkOpen b c x chunk then s
  else
    let fail := fun (u : State) (f : AFault × Nat × DWord) => u.failCmd b c [(b.crew x.crew, accessCause f, f.2.2)]
    let core := s.coreOf b
    let key := chunkKey s c x chunk
    let n := min x.chunkElems (x.count c.op - x.pos)
    let r := storeCodes core b c.op x off [] x.pos n ⟨s, cmdEng b c x, none⟩
    let rs := runsOf x.msize ((x.elems c.op x.pos n).filterMap (fun i => (x.elemAt c.op [] c.iter i).map (fun a => (i, a))))
    let place := fun (q : Run) => s.remotePlace x b q 2 (x.redOp == 11)
    match rs.findSome? (fun q => match place q with
      | .inl f => some (f, 2, q.ea)
      | .inr _ => none) with
    | some f => fail s f
    | none =>
      let chip := fun (q : Run) => match place q with
        | .inr (.peer n _) => some n
        | _ => none
      let near := rs.filter (fun q => (chip q).isNone)
      let w := if s.hubs.any (fun h => h.commits.contains key) then r.1 else near.foldl (stageRun core b x key r.2) r.1
      match w.fail with
      | some f => fail w.st f
      | none =>
        let s1 := (rs.filterMap chip).eraseDups.foldl (fun (u : State) n => u.sendChunk b c x w.eng r.2 n (rs.filter (fun q => chip q == some n)))
          (w.st.keepClk b c.id w.eng)
        if rs.isEmpty then (s1.advanceSlice b c.id 0 n (x.count c.op)).cmdNext b c.id 0
        else if near.isEmpty then s1 else s1.soon (.xredChunkCommit b c.id chunk)

/-- A request of the slice to a peer is under way. -/
def State.awaitsPeer (s : State) (b : BRef) (c : Cmd) (x : Slice) : Bool :=
  s.peerOut.any (fun p => p.pend == c.id && p.who.crew == b.crew x.crew)

/-- Performs the next chunk of a slice whose range is free. -/
def State.chunkStep (s : State) (b : BRef) (c : Cmd) (k : Nat) (x : Slice) (off : Nat) : State :=
  if s.awaitsPeer b c x then s
  else if c.op = 4 && s.hubs.any (fun h => 4096 ≤ h.commits.length) then s.again (.transferChunk b c.id k)
  else if s.isPeer b c x then (if c.op = 4 then s.peerChunk b c x off else s.peerElem b c k x off)
  else
      let w := s.runChunk b c x off
      match w.fail with
      | some f => w.st.failCmd b c [(b.crew x.crew, accessCause f, f.2.2)]
      | none =>
        let s1 := w.st.keepClk b c.id w.eng
        if c.op = 4 then s1.soon (.xredChunkCommit b c.id (x.pos / x.chunkElems))
        else (s1.advanceSlice b c.id k (min x.chunkElems (x.count c.op - x.pos)) (x.count c.op)).cmdNext b c.id k

/-- TRANSFER_CHUNK (R229): the next 4 KiB of a slice, once what its entry waits for has gone (R213) and replay lets it (R334). -/
def execTransferChunk (b : BRef) (id slice : Nat) (s : State) : Host.Outcome State Fault Refusal :=
  match s.cmd? b id with
  | none => .next s
  | some c =>
    match c.slices[slice]? with
    | none => .next s
    | some x =>
      if !c.begun || c.op = 1 || x.done || !s.engineRuns b then .next s
      else
        let n := s.coreOf b
        let held := match x.slot, x.off with
          | some k, _ => s.engineHolders n b (some k) 0 1 true x.order id
          | none, some o => s.engineHolders n b none o (o + x.localBytes c.op) (x.loads c.op) x.order id
          | none, none => []
        let index := if c.op = 2 || c.op = 3 then
            s.engineHolders n b none (x.bw 6 % 2 ^ 20) (x.bw 6 % 2 ^ 20 + 4 * x.bw 5) false x.order id else []
        let held := held ++ index
        if !held.isEmpty || !s.engineMay (c.owner b x) c.eop then
          .next ((s.modCmd b id (fun y => { y with held := addHeld y.held held })).again (.transferChunk b id slice))
        else .next (s.chunkStep b c slice x (x.off.getD 0))

/-! ## Commit (R441) -/

/-- The address of the slice's first contribution to line `l` in the chunk under way. -/
def State.chunkEa (s : State) (b : BRef) (c : Cmd) (x : Slice) (l : LineId) : DWord :=
  let is := x.elems c.op x.pos (min x.chunkElems (x.count c.op - x.pos))
  let runs := runsOf x.msize (is.filterMap (fun i => (x.elemAt c.op [] 0 i).map (fun a => (i, a))))
  ((runs.find? (fun r => match s.remotePlace x b r 2 false with
    | .inr (.phys pa _) => (lineOf pa).map (fun y => y.1) == some l
    | _ => false)).map (fun r => r.ea)).getD (BitVec.ofNat 64 l.pa)

/-- The lines at which a chunk of the slice has staged something. -/
def State.stagedLines (s : State) (key : ChunkKey) : List LineId := (s.l3.filter (fun h => h.staged.any (fun t => t.1 == key))).map (fun h => h.line)

/-- What merging a chunk's staged lines comes to, and the line that finds no spill entry. -/
def State.commitLines (s : State) (b : BRef) (c : Cmd) (x : Slice) (key : ChunkKey) : Work × Option LineId :=
  let lines := s.stagedLines key
  let w := lines.foldl (commitLine (s.coreOf b) key (s.chunkEa b c x)) (⟨s, cmdEng b c x, none⟩, false)
  (w.1, if w.2 then lines.find? (fun l => !w.1.st.canBuffer l x.mtype) else none)

/-- A chunk's commit waits for a spill entry from now on, for at most 100 µs (R418). -/
def State.chunkWaits (s : State) (b : BRef) (c : Cmd) (x : Slice) (chunk : Nat) (l : LineId) : State :=
  let s1 := if x.since.isSome then s
    else ((s.modSlice b c.id 0 (fun y => { y with since := some s.now })).noteFull l.hub).schedule (100 * usTicks)
      (.event (.spillWaitTimeout (s.lowThread (b.crew x.crew)) c.id))
  s1.again (.xredChunkCommit b c.id chunk)

/-- XRED_CHUNK_COMMIT: the chunk's staged partials merge, all of them or, where one meets a fault, none; contributions to other packages commit there. -/
def execXredChunkCommit (b : BRef) (id chunk : Nat) (s : State) : Host.Outcome State Fault Refusal :=
  match s.cmd? b id with
  | none => .next s
  | some c =>
    match c.slices.head? with
    | none => .next s
    | some x =>
      let step := min x.chunkElems (x.count c.op - x.pos)
      let mine := x.pos / x.chunkElems == chunk && !x.done
      let core := s.coreOf b
      let key := chunkKey s c x chunk
      let lines := s.stagedLines key
      if c.op ≠ 4 || !mine || (lines.isEmpty && s.isPeer b c x) then .next s
      else
        let w0 : Work := ⟨s, cmdEng b c x, none⟩
        match lines.findSome? (fun l => let m := w0.merge core key l; m.fail.map (fun f => (m.st, f, 2, s.chunkEa b c x l))) with
        | some f => .next (f.1.failCmd b c [(b.crew x.crew, accessCause f.2, f.2.2.2)])
        | none =>
          let w := s.commitLines b c x key
          match w.2 with
          | some l => .next (s.chunkWaits b c x chunk l)
          | none =>
            let s1 := (lines.map (fun l => l.hub)).eraseDups.foldl (fun (u : State) h =>
              u.modHub h (fun y => { y with commits := key :: y.commits })) (w.1.st.keepClk b id w.1.eng)
            .next (if s1.chunkOpen b c x chunk then s1 else (s1.advanceSlice b id 0 step (x.count c.op)).cmdNext b id 0)

/-- The address that a request of the package named, in the peer aperture. -/
def reqEa (r : PeerReq) (chip : BitVec 8) : DWord := (0xE0 : BitVec 8) ++ chip ++ r.va

/-- XRED_CHUNK_TIMEOUT (R462): resent once over the route then in force, then NOBACK with DETAIL bits 2 and 3 and the address of the first contribution. -/
def execXredChunkTimeout (b : BRef) (id chunk : Nat) (s : State) : Host.Outcome State Fault Refusal :=
  match s.peerChunks.find? (fun p => p.b == b && p.cmd == id && p.chunk == chunk && decide (p.sent + peerTicks ≤ s.now)), s.cmd? b id with
  | some p, some c =>
    if !p.again then
      .next (({ s with peerChunks := s.peerChunks.map (fun q => if q = p then { p with again := true, sent := s.now } else q) }.sendParts
        p.chip p.parts).schedule peerTicks (.event (.xredChunkTimeout b id chunk)))
    else match c.slices.head? with
      | some x => .next (s.failCmd b c [(b.crew x.crew, accessCause (⟨7, 8⟩, 2, 0), ((p.parts.head?).map (fun r => reqEa r.req p.chip)).getD x.base)])
      | none => .next s
  | _, _ => .next s

/-- SPILL_WAIT_TIMEOUT (R418): a contribution of a thread, or the chunk of an XRED, that has waited for a spill entry for 100 µs gives SPILLFULL. -/
def execSpillWaitTimeout (t : TRef) (id : Nat) (s : State) : Host.Outcome State Fault Refusal :=
  match s.cmd? t.block id with
  | none => .next (s.spillTimeout t id)
  | some c =>
    match c.slices.head? with
    | none => .next s
    | some x =>
      let key := chunkKey s c x (x.pos / x.chunkElems)
      let due := (x.since.map (fun n => decide (n + 100 * usTicks ≤ s.now))).getD false
      match (if due then (s.commitLines t.block c x key).2 else none) with
      | some l => .next (s.failCmd t.block c [(t.crew, accessCause (⟨10, 16 * l.hub⟩, 2, 0), s.chunkEa t.block c x l)])
      | none => .next s

/-! ## Progress counters (R219, R439) -/

/-- What an add came to: done with whether it reached top, refused with a fault, or sent to a peer. -/
inductive Added where
  | done (top : Bool)
  | bad (f : AFault)
  | sent
  deriving DecidableEq, Repr

/-- Adds 1 as a release at the command's scope (R219): at `.sec` and wider the core's L1 is written back first (R181, R272, R275). -/
def State.addCounter (s : State) (b : BRef) (c : Cmd) (x : Slice) : State × Eng × Added :=
  let e := cmdEng b c x
  let core := s.coreOf b
  let low := s.lowThread (b.crew x.crew)
  match s.locate (s.asker low) x.ctr 8 8 2 (fun ap => ap == .global || ap == .peerGlobal || ap == .own) false with
  | .inl f => (s, e, .bad f)
  | .inr (.peer _ _) =>
    (match (if 2 ≤ e.scope then s.releaseL1 core else s).enginePeerSend low c.id e x.ctr 8 (.counterAdd 1) with
     | some u => (u, e, .sent)
     | none => (s, e, .bad ⟨7, 8⟩))
  | .inr pl => match s.locOf pl core 3 (.atom 7 8 false true) with
    | none => (s, e, .bad ⟨7, 0⟩)
    | some (loc, off) =>
      let s0 := match loc with
        | .home l => (if 2 ≤ e.scope then s.releaseL1 core else s).dropL1 core l
        | _ => if 2 ≤ e.scope then s.releaseL1 core else s
      let rd := s0.prepare loc (some core) 0 (.atom 7 8 false true)
      let old := leNat (rd.st.readAt loc off 8)
      let new := min (old + 1) counterTop
      let g := rd.st.engineGroup core e loc [(rd.st.engReq e (.atom 7 8 false true) off 8 [] new, x.ctr)]
      match g.2.2 with
      | .inl f => (g.1, g.2.1, .bad f)
      | .inr _ => (g.1, g.2.1, .done (new = counterTop))

/-- The slice whose counter the command adds to: that of the lowest-indexed crew. -/
def Cmd.counterSlice (c : Cmd) : Option Slice :=
  c.slices.foldl (fun (m : Option Slice) x => match m with
    | some y => if x.crew < y.crew then some x else some y
    | none => some x) none

/-- CTRTOP to the adding crew. -/
def State.topFault (s : State) (k : CRef) (x : Slice) (top : Bool) : State := if top then s.crewFault k (cmdCause 4 0) x.ctr none else s

/-- The command is over (R194, R195). -/
def State.endCmd (s : State) (b : BRef) (c : Cmd) : State :=
  let s1 := (c.crews b).foldl (fun (u : State) k => u.crewComplete k c.id) s
  let s2 := match c.slices.head? with
    | some x => s1.engineChunk (c.owner b x) c.eop x.pc c.oC
    | none => s1
  let s3 := (c.crews b).foldl (fun (u : State) k => u.crewJoin k c.sC) (s2.letGo b.g c.id c.sC)
  ((s3.reportComplete c).forgetChunks c).retireCmd b c.id

/-- The command completes, its counter added to. -/
def State.completeCmd (s : State) (b : BRef) (c : Cmd) : State :=
  match c.counterSlice with
  | none => s.endCmd b c
  | some x =>
    if c.op = 5 || c.op = 1 || x.ctr = 0 then s.endCmd b c
    else
      let r := s.addCounter b c x
      match r.2.2 with
      | .bad f => r.1.failCmd b c [(b.crew x.crew, accessCause (f, 2, x.ctr), x.ctr)]
      | .sent => r.1
      | .done top =>
        let s1 := (r.1.keepClk b c.id r.2.1).topFault (b.crew x.crew) x top
        match s1.cmd? b c.id with
        | some d => s1.endCmd b d
        | none => s1

/-- Replay lets the command's current chunk run (R334). -/
def State.cmdMay (s : State) (b : BRef) (c : Cmd) : Bool :=
  ((c.slices.head?).map (fun x => s.engineMay (c.owner b x) c.eop)).getD true

/-- TRANSFER_COMMAND_COMPLETE. -/
def execTransferCommandComplete (b : BRef) (id : Nat) (s : State) : Host.Outcome State Fault Refusal :=
  match s.cmd? b id with
  | none => .next s
  | some c =>
    if !c.begun || c.op = 1 || !c.slices.all (fun x => x.done) || !s.engineRuns b || c.slices.any (s.awaitsPeer b c) then .next s
    else if !s.cmdMay b c then .next (s.again (.transferCommandComplete b id))
    else .next (s.completeCmd b c)

/-! ## XLOOP (R224) -/

/-- The iteration has been counted: the next one, or the end. -/
def State.loopNext (s : State) (b : BRef) (id : Nat) : State :=
  let s1 := s.modCmd b id (fun c => { c with iter := c.iter + 1, slices := c.slices.map (fun x => { x with pos := 0, got := [], done := false, since := none }) })
  match s1.cmd? b id with
  | none => s1
  | some c =>
    if ((c.slices.head?).map (fun x => decide (x.bw 5 ≤ c.iter))).getD true then s1.completeCmd b c else s1.soon (.xloopIteration b id)

/-- An iteration's writes are over: its add. -/
def State.loopCount (s : State) (b : BRef) (c : Cmd) (x : Slice) : State :=
  if x.ctr = 0 then s.loopNext b c.id
  else
    let r := s.addCounter b c x
    match r.2.2 with
    | .bad f => r.1.failCmd b c [(b.crew x.crew, accessCause (f, 2, x.ctr), x.ctr)]
    | .sent => r.1
    | .done top => ((r.1.keepClk b c.id r.2.1).topFault (b.crew x.crew) x top).loopNext b c.id

/-- An iteration whose wait is satisfied begins: it joins the M of the rotation that released its stage (R195) and reads the rotation stamp
(R326). -/
def State.beginIteration (s : State) (b : BRef) (c : Cmd) (x : Slice) (rel : Option Release) : State :=
  let r := s.engineRing (cmdEng b c x) b x.localAddr
  r.1.modCmd b c.id (fun y =>
    { y with oC := r.2.clk.o, sC := match rel with
        | some z => smax y.sC (z.m + 1)
        | none => y.sC })

/-- XLOOP_ITERATION: the current iteration waits for its stage's release and for the accesses that R213 and R224 put before it, then writes
its next chunk; after the last it is counted. -/
def execXloopIteration (b : BRef) (id : Nat) (s : State) : Host.Outcome State Fault Refusal :=
  match s.cmd? b id, s.launchOf b.g with
  | some c, some l =>
    match c.slices.head? with
    | none => .next s
    | some x =>
      let g := field x.localAddr 26 24
      match (l.p.rings[g]?).getD none, ((s.block? b).bind (fun y => y.rings[g]?)) with
      | some d, some r =>
        if c.op ≠ 1 || !c.begun || !s.engineRuns b || s.awaitsPeer b c x then .next s
        else if x.done then .next (if s.cmdMay b c then s.loopCount b c x else s.again (.xloopIteration b id))
        else
          let rel := field x.localAddr 22 19 + c.iter
          let q := c.q0 + BitVec.ofNat 32 rel
          let stage := (c.p0 + rel) % d.stages
          let held := s.stageHolders (s.coreOf b) b (d.base + stage * d.stage) (d.base + (stage + 1) * d.stage) (r.rel q) c.id id
          if (d.stages : Int) ≤ r.ahead q || !held.isEmpty || !s.cmdMay b c then
            .next ((s.modCmd b id (fun y => { y with held := addHeld y.held held })).again (.xloopIteration b id))
          else
            let s1 := if x.pos = 0 && x.got.isEmpty then s.beginIteration b c x (r.release? q) else s
            match s1.cmd? b id with
            | some c1 => .next (s1.chunkStep b c1 0 x (sliceOff (some d) c1 x))
            | none => .next s1
      | _, _ => .next s
  | _, _ => .next s

/-! ## Answers from peers -/

/-- A peer's answer to an engine's request for `ea`: the bytes read, the clocks, or its fault (R246). -/
def State.engineAnswer (s : State) (who : TRef) (id : Nat) (kind : PeerKind) (err race : Nat) (ea v : DWord) (o sc : Word) : State :=
  let b := who.block
  match s.cmd? b id with
  | none => s
  | some c0 =>
    let k := (c0.slices.findIdx? (fun x => x.crew == who.c)).getD 0
    match c0.slices[k]? with
    | none => s
    | some x =>
      let s1 := (if o = c0.oC then s else s.engineChunk (c0.owner b x) c0.eop x.pc c0.oC).modCmd b id (fun c => { c with oC := o, sC := smax c.sC sc })
      match s1.cmd? b id with
      | none => s1
      | some c =>
        if err ≠ 0 then
          s1.failCmd b c [(b.crew x.crew, mkCause 2 err (4 + race + (match kind with | .read _ => 0 | .write .. => 1 | _ => 2)) false false, ea)]
        else match kind with
        | .read _ => (s1.modSlice b id k (fun y => { y with got := y.got ++ [v.toNat % 2 ^ (8 * x.msize)] })).cmdNext b id k
        | .write _ _ => (s1.advanceSlice b id k 1 (x.count c.op)).cmdNext b id k
        | _ =>
          let s2 := s1.topFault (b.crew x.crew) x (counterTop ≤ v.toNat + 1)
          if c.op = 1 then s2.loopNext b id else match s2.cmd? b id with
            | some d => s2.endCmd b d
            | none => s2

/-! ## After a stop -/

/-- The engines take up a block's work again after a restore or a resume. -/
def State.wakeEngines (s : State) (b : BRef) : State :=
  match s.block? b with
  | none => s
  | some x =>
    let n := x.core
    let s1 := x.cmds.foldl (fun (u : State) c =>
      if !c.begun then u
      else if c.op = 1 then u.soon (.xloopIteration b c.id)
      else if c.slices.all (fun y => y.done) then u.soon (.transferCommandComplete b c.id)
      else (List.range c.slices.length).foldl (fun (v : State) k => v.soon (.transferChunk b c.id k)) u) (s.pokeQueues b)
    ((s1.core n).ops.filter (fun o => o.crew.block == b && !o.accepted)).foldl (fun (u : State) o => u.soon (firstEvent n o.id o.kind)) s1

end Sys2Proof.Machine
end

