-- ==== Sys2Proof/Machine/Unit.lean ====
section
/-!
DEFINITION. Accesses of the parties that are no threads: cox contexts, copy engines and the host link (R306, R313, R315, R423, R427), and
how a cox context stops (R445).
-/
namespace Sys2Proof.Machine

/-! ## Addresses -/

/-- The ASID of the record that a cox context is bound to (R305). -/
def State.ctxAsid (s : State) (x : CoxId) : BitVec 16 :=
  let c := s.cox x
  BitVec.ofNat 16 (s.physNat (c.bound.getD c.ctxrec).toNat 2)

/-- The physical address of a VA for an access of `size` bytes: aperture, alignment, translation (R410). -/
def State.unitPa (s : State) (asid : BitVec 16) (va : DWord) (align kind : Nat) : AFault ⊕ Nat :=
  let here := field va 63 56 = 0xE0 && va.extractLsb' 48 8 == s.chip
  if field va 63 56 ≠ 0 && !here then .inl (apertureFault 1)
  else
    let v := if here then field va 47 0 else field va 55 0
    if v % align ≠ 0 then .inl ⟨2, 16 * Nat.log2 align⟩
    else match s.translate none asid v (needOf kind) with
      | .inl f => .inl f
      | .inr (pa, _) => .inr pa

/-! ## One access -/

/-- A party that is no thread: identity, clocks, whether it writes as an engine, and the contexts that decide its races (R427). -/
structure UnitP where
  id : Word
  clk : Clk
  engine : Bool
  asids : List (BitVec 16)
  pc : Word
  deriving DecidableEq, Repr

def unitClk (o s pa : Word) : Clk := { o := o, s := s, pa := pa, fs := none, sync := 0, ended := false }

/-- Those of the ASIDs with an open launch whose RACE field is not zero. -/
def State.deciding (s : State) (as : List (BitVec 16)) : List (BitVec 16) := as.filter (fun a => s.racingAsids.contains a)

/-- An access at the home of a physical address, all its bytes in one line (R306, R315). A conversion sets only ESTAT (R417). -/
def State.unitAccess (s : State) (u : UnitP) (pa size : Nat) (kind : AccKind) (scope : Nat) (bytes : List Byte) (v : Nat) (ea : DWord) :
    State × Clk × (AFault ⊕ List Byte) :=
  match lineOf pa with
  | none => (s, u.clk, .inl ⟨7, 0⟩)
  | some (l, off) =>
    let rd := s.prepare (.home l) none 0 kind
    let r : Req := { id := u.id, kind := kind, off := off, size := size, scope := scope, bytes := bytes, v := v, w := 0, pc := u.pc, clk := u.clk,
                     engine := u.engine }
    if rd.poisonedAt (.home l) true r then (rd.st, u.clk, .inl ⟨8, 16 * rd.st.badUnit (.home l)⟩)
    else
      let s1 := rd.st.unitRaces (rd.st.stampAt (.home l)) [(r, ea)] (s.deciding u.asids) (if u.id = s.hostIdent then 80 else 16)
      let g := s1.performGroup (.home l) none rd.converted [r]
      match g.2 with
      | x :: _ => (g.1, x.clk, .inr x.old)
      | [] => (g.1, u.clk, .inr [])

/-- Reads a run of bytes, line by line. -/
def State.unitRead (s : State) (u : UnitP) (asid : BitVec 16) (va : DWord) (n : Nat) (kind : AccKind) (scope : Nat) :
    State × Clk × (AFault × DWord ⊕ List Byte) :=
  (piecesOf va.toNat n).foldl (fun (w : State × Clk × (AFault × DWord ⊕ List Byte)) p =>
    match w.2.2 with
    | .inl _ => w
    | .inr got =>
      let ea := BitVec.ofNat 64 p.1
      match w.1.unitPa asid ea 1 0 with
      | .inl f => (w.1, w.2.1, .inl (f, ea))
      | .inr pa =>
        let r := w.1.unitAccess { u with clk := w.2.1 } pa p.2 kind scope [] 0 ea
        (match r.2.2 with
         | .inl f => (r.1, r.2.1, .inl (f, ea))
         | .inr bs => (r.1, r.2.1, .inr (got ++ bs)))) (s, u.clk, .inr [])

/-- Writes a run of bytes, line by line. -/
def State.unitWrite (s : State) (u : UnitP) (asid : BitVec 16) (va : DWord) (bs : List Byte) (scope : Nat) :
    State × Clk × Option (AFault × DWord) :=
  (piecesOf va.toNat bs.length).foldl (fun (w : State × Clk × Option (AFault × DWord)) p =>
    match w.2.2 with
    | some _ => w
    | none =>
      let ea := BitVec.ofNat 64 p.1
      match w.1.unitPa asid ea 1 1 with
      | .inl f => (w.1, w.2.1, some (f, ea))
      | .inr pa =>
        let part := (bs.drop (p.1 - va.toNat)).take p.2
        let r := w.1.unitAccess { u with clk := w.2.1 } pa p.2 (.store false) scope part 0 ea
        (match r.2.2 with
         | .inl f => (r.1, r.2.1, some (f, ea))
         | .inr _ => (r.1, r.2.1, none))) (s, u.clk, none)

/-- One aligned 8-byte access at a VA. -/
def State.unitWord (s : State) (u : UnitP) (asid : BitVec 16) (va : DWord) (kind : AccKind) (scope need : Nat) (v : DWord) :
    State × Clk × (AFault ⊕ DWord) :=
  match s.unitPa asid va 8 need with
  | .inl f => (s, u.clk, .inl f)
  | .inr pa =>
    let r := s.unitAccess u pa 8 kind scope (leBytes 8 v.toNat) v.toNat va
    (r.1, r.2.1, match r.2.2 with
      | .inl f => .inl f
      | .inr bs => .inr (BitVec.ofNat 64 (leNat bs)))

/-- The value of a counter as it stands, of an update-only line converted. -/
def State.peekWord (s : State) (asid : BitVec 16) (va : DWord) (need : Nat) : State × (AFault ⊕ DWord) :=
  match s.unitPa asid va 8 need with
  | .inl f => (s, .inl f)
  | .inr pa => match lineOf pa with
    | none => (s, .inl ⟨7, 0⟩)
    | some (l, off) =>
      let rd := s.prepare (.home l) none 0 (.load false false)
      (rd.st, if (rd.st.homeLine l).bad.isSome then .inl ⟨8, 16 * rd.st.badUnit (.home l)⟩
        else .inr (BitVec.ofNat 64 (leNat (rd.st.mem.readN (l.key + off) 8))))

/-- Adds to a progress counter as a release at `.dev` (R219, R310, R439); true where it has reached top. -/
def State.unitAdd (s : State) (u : UnitP) (asid : BitVec 16) (va : DWord) (n : Nat) : State × Clk × (AFault ⊕ Bool) :=
  match s.peekWord asid va 2 with
  | (s0, .inl f) => (s0, u.clk, .inl f)
  | (s0, .inr old) =>
    let new := min (old.toNat + n) counterTop
    let r := s0.unitWord u asid va (.atom 7 8 false true) 3 2 (BitVec.ofNat 64 new)
    (r.1, r.2.1, match r.2.2 with
      | .inl f => .inl f
      | .inr _ => .inr (new = counterTop))

/-! ## Cox contexts as parties -/

def State.coxParty (s : State) (x : CoxId) : UnitP :=
  let c := s.cox x
  { id := s.coxIdent x false, clk := (unitClk c.o c.s c.pa).floor (s.floorOf x.hub), engine := false, asids := [s.ctxAsid x],
    pc := BitVec.ofNat 32 c.pc }

def State.copyParty (s : State) (x : CoxId) : UnitP :=
  let c := s.cox x
  { id := s.coxIdent x true, clk := (unitClk c.co c.cs 0).floor (s.floorOf x.hub), engine := true, asids := [s.ctxAsid x], pc := 0 }

/-- The open launches of a context that record (R325). -/
def State.recordsCox (s : State) (x : CoxId) : List DWord :=
  (s.launches.filter (fun l => l.cox == x && l.isOpen && recordMode l.p.modes == 1)).map (fun l => l.seq)

/-- A record of a context's for each of its recorded launches; it cannot wait (R325, R450). -/
def State.coxRecord (s : State) (x : CoxId) (slots : List (BitVec 128)) : State :=
  (s.recordsCox x).foldl (fun (u : State) l => u.putRecord x.hub l false slots) s

/-- The identity fields of a record of a context or its copies: CORE 127, SLOT 48 + context (R306, R331). -/
def coxSlotFields (x : CoxId) : List (Nat × Nat) := [(4, 127), (11, 48 + x.ctx)]

/-- The context runs for a launch that replays records (R334). -/
def State.coxReplays (s : State) (x : CoxId) : Bool :=
  s.launches.any (fun l => l.cox == x && l.isOpen && recordMode l.p.modes == 2) && (s.hub x.hub).recd.state == 2

/-- Keeps a context's clocks. A raise of o ends its chunk (R327): `inside` an instruction, that instruction begins the next one; else the next packet's program
does. In replay the records tell the chunks (R334). -/
def State.keepCox (s : State) (x : CoxId) (inside : Bool) (k : Clk) : State :=
  let c := s.cox x
  let next : Nat := if inside then 1 else 0
  let pc := if inside then c.pc - 1 else 0
  let s1 := if k.ended then s.coxRecord x
      [slotOfFields ([(0, 1)] ++ coxSlotFields x ++ [(48, (pcHash (BitVec.ofNat 64 pc)).toNat), (64, c.o.toNat), (96, c.chunkCount.toNat - next)])]
    else s
  let ends := k.ended && !s.coxReplays x
  s1.modCox x (fun y => { y with o := k.o, s := k.s, pa := k.pa, chunkCount := if ends then BitVec.ofNat 32 next else y.chunkCount })

/-- A check of a context, or of its copy engine, fails at a record (R448, R453): its chunk has run `ocount` and stands at `pc`; `obs` is the value observed. -/
def State.coxDiverge (s : State) (x : CoxId) (r : RRec) (code detail : Nat) (pc : DWord) (ocount : Word) (obs : DWord) : State :=
  if (s.hub x.hub).recd.diverged then s
  else
    s.failCheck { hub := x.hub, code := code, detail := detail, asid := s.ctxAsid x, who := none, owner := x, pc := pc,
                  d := ⟨r.ident, r.index / 4, r.launch, 0, r.clock, r.count, ocount, r.pch, pcHash pc, 0, obs⟩ }

/-- The chunks of a context that are released and have run their COUNT are complete (R334, R452). -/
def State.coxSettle (s : State) (x : CoxId) : Nat → State
  | 0 => s
  | n + 1 =>
    match (if s.coxReplays x then s.unitRec x.hub (s.coxIdent x false) none else none) with
    | none => s
    | some r =>
      let c := s.cox x
      let pc := BitVec.ofNat 64 c.pc
      if !r.released || c.chunkCount.toNat < r.count.toNat then s
      else if r.pch != pcHash pc then s.coxDiverge x r 1 0 pc c.chunkCount 0
      else State.coxSettle (((s.modRRec x.hub r.index (fun y => { y with complete := true })).modCox x (fun y => { y with chunkCount := 0 })).schedule 0
        (.event (.frontierUpdate x.hub))) x n

def State.settleCox (s : State) (x : CoxId) : State := s.coxSettle x (s.hub x.hub).recd.replay.length

/-- The frontier holds the context's present chunk (R334). -/
def State.coxHeld (s : State) (x : CoxId) : Bool :=
  s.coxReplays x && ((s.unitRec x.hub (s.coxIdent x false) none).map (fun r => !r.released)).getD false

/-- EOP of the copy under way: the low bits of its packet's number (R331; log entry 70). -/
def State.copyEop (s : State) (x : CoxId) : Nat := (((s.cox x).copies.head?).map (fun k => k.packet)).getD 0 % 256

/-- The frontier holds the present chunk of the context's copy (R334). -/
def State.copyHeld (s : State) (x : CoxId) : Bool :=
  s.coxReplays x && ((s.unitRec x.hub (s.coxIdent x false) (some (s.copyEop x))).map (fun r => !r.released)).getD false

/-- A chunk of the context's copy ends (R327): its record in record mode; in replay its check and its completion (R334, R452). -/
def State.endCopyChunk (s : State) (x : CoxId) : State :=
  let c := s.cox x
  let n := s.copyEop x
  let va := ((c.copies.head?).map (fun k => k.packetVa)).getD 0
  let s1 := { s with fresh := s.fresh + 1 }.coxRecord x
    [slotOfFields ([(0, 1)] ++ coxSlotFields x ++ [(24, 1), (26, n), (48, (pcHash va).toNat), (64, c.co.toNat), (96, (Config.engineCount s.fresh).toNat)])]
  match (if s1.coxReplays x then s1.unitRec x.hub (s1.coxIdent x false) (some n) else none) with
  | some r =>
    if r.pch != pcHash va then s1.coxDiverge x r 1 0 va (Config.engineCount s.fresh) 0
    else (s1.modRRec x.hub r.index (fun y => { y with complete := true })).schedule 0 (.event (.frontierUpdate x.hub))
  | none => s1

/-- Keeps the clocks of a context's copy engine. -/
def State.keepCopy (s : State) (x : CoxId) (k : Clk) : State :=
  (if k.ended then s.endCopyChunk x else s).modCox x (fun y => { y with co := k.o, cs := k.s })

/-! ## Stopping a context (R445) -/

/-- STATE 4, one fault log record and MSIV. -/
def State.coxStop (s : State) (x : CoxId) (code detail : Nat) (taddr : DWord) : State :=
  let c := s.cox x
  let cause := mkCause 4 code detail false false
  let bytes := faultRecord cause 0 0 0 0 (s.coxIdent x false) 0 (BitVec.ofNat 64 c.pc) taddr c.qread s.time
  ((s.modCox x (fun y => { y with state := 4, wait := .none, loops := [] })).faultLog (s.ctxAsid x) x.hub bytes).msix
    (c.msiv.toNat % 64)

/-! ## The host link -/

def State.hostParty (s : State) : UnitP :=
  { id := s.hostIdent, clk := (unitClk s.hostO s.hostS 0).floor (s.floorOf 0), engine := false, asids := s.racingAsids, pc := 0 }

/-- Keeps the host link's clocks, without a chunk of its own: queue packets and their publication are no host chunks (R337). -/
def State.keepHostClk (s : State) (k : Clk) : State := { s with hostO := k.o, hostS := k.s }

/-- Keeps the host link's clocks. The end of its chunk, whose COUNT is the writes in it, goes to the ring of every recorded launch (R327, R337); `inside` a write,
that write begins the next chunk. -/
def State.keepHost (s : State) (inside : Bool) (k : Clk) : State :=
  let next := if inside then 1 else 0
  let s1 := if k.ended then
      (s.launches.filter (fun l => l.isOpen && recordMode l.p.modes == 1)).foldl (fun (u : State) l =>
        u.putRecord 0 l.seq false [slotOfFields [(0, 1), (4, 126), (64, s.hostO.toNat), (96, s.hostCount - next)]]) s
    else s
  { s1.keepHostClk k with hostCount := if k.ended && (s.hub 0).recd.state != 2 then next else s1.hostCount }

/-- The first host chunk of a replay that is not complete (R337). -/
def State.hostChunk (s : State) : Option RRec := if (s.hub 0).recd.state = 2 then s.unitRec 0 (identity s.chip 0 126 0 0) none else none

/-- The host chunks that are released and have their COUNT of writes are complete. -/
def State.hostSettle (s : State) : Nat → State
  | 0 => s
  | n + 1 => match s.hostChunk with
    | none => s
    | some r =>
      if !r.released || s.hostCount < r.count.toNat then s
      else State.hostSettle ({ s.modRRec 0 r.index (fun y => { y with complete := true }) with hostCount := 0 }.schedule 0 (.event (.frontierUpdate 0))) n

def State.settleHost (s : State) : State := s.hostSettle (s.hub 0).recd.replay.length

/-- A write of a BAR 0 register is a release of the host identity (R423). -/
def State.hostRelease (s : State) : State := { s with hostS := s.hostS + 1 }

end Sys2Proof.Machine
end

