-- ==== Sys2Proof/Machine/Cox.lean ====
section
/-!
DEFINITION. Cox contexts (R302 to R310, R318, R445): taking packets from a queue, running a program, and its instructions but ACT.
-/
namespace Sys2Proof.Machine

/-! ## The queue handle (R241, R298) -/

structure Handle where
  base : DWord
  write : DWord
  read : DWord
  log : Nat
  hub : Nat
  ctx : Nat
  deriving DecidableEq, Repr

/-- The handle's fields from its 64 bytes. -/
def handleOf (bs : List Byte) : Handle :=
  let w := fun (off n : Nat) => leNat ((bs.drop off).take n)
  { base := BitVec.ofNat 64 (w 0 8), write := BitVec.ofNat 64 (w 16 8), read := BitVec.ofNat 64 (w 24 8), log := w 32 1, hub := w 33 1, ctx := w 34 1 }

/-- HANDLE's DETAIL (R445). -/
def Handle.bad (h : Handle) : Option Nat := if h.log < 9 || 21 < h.log then some 1 else if h.base.toNat % 4096 ≠ 0 then some 5 else none

def Handle.size (h : Handle) : Nat := 2 ^ h.log

/-- The VA of the ring word of an index. -/
def Handle.wordVa (h : Handle) (i : Nat) : DWord := h.base + BitVec.ofNat 64 (8 * (i % h.size))

/-- What stands in the handle, looked at without stamps. -/
def State.peekHandle (s : State) (asid : BitVec 16) (va : DWord) : Option Handle :=
  match s.unitPa asid va 64 0 with
  | .inl _ => none
  | .inr pa => some (handleOf (s.physRead pa 64))

/-! ## Waking a context -/

/-- The event that takes a packet of a TYPE; unused TYPEs go with LAUNCH. -/
def packetEvent (x : CoxId) (ty : Nat) : Instr :=
  match ty with
  | 0 => .pad x
  | 2 => .copy x
  | 3 => .counterAdd x
  | 4 => .counterWait x
  | 5 => .step x
  | 6 => .checkpoint x
  | _ => .launch x

/-- The next PKT record of a context whose launch replays (R337, R340). -/
def State.pktRec (s : State) (x : CoxId) : Option RRec :=
  if s.coxReplays x then
    (s.hub x.hub).recd.replay.find? (fun r => r.kind == 7 && r.sreg == x.ctx && !r.complete)
  else none

/-- A waiting context looks at its queue, in replay at its PKT records first (R302, R340): the packet's event, which also finds what is wrong with it. -/
def State.coxLook (s : State) (x : CoxId) : State :=
  let c := s.cox x
  if !c.en || c.state != 1 then s
  else match s.pktRec x with
  | some r => s.schedule 9 (.event (packetEvent x (field (r.words.headD 0) 7 0)))
  | none => match s.peekHandle (s.ctxAsid x) c.qhandle with
    | none => s.schedule 9 (.event (.launch x))
    | some h =>
      if h.bad.isSome then s.schedule 9 (.event (.launch x))
      else if h.read = h.write then s
      else match s.unitPa (s.ctxAsid x) (h.wordVa h.read.toNat) 8 0 with
        | .inl _ => s.schedule 9 (.event (.launch x))
        | .inr pa => s.schedule 9 (.event (packetEvent x (s.physNat pa 1)))

/-! ## Taking a packet (R302, R423, R445) -/

/-- COXMEM at an address. -/
def State.coxMem (s : State) (x : CoxId) (f : AFault) (va : DWord) : State := s.coxStop x 0x15 f.code va

def hdrLen (w : DWord) : Nat := field w 17 8
def hdrType (w : DWord) : Nat := field w 7 0
def hdrOrd (w : DWord) : Bool := w.getLsbD 18

def wordsOf (bs : List Byte) : List DWord := (List.range (bs.length / 8)).map (fun i => BitVec.ofNat 64 (leNat ((bs.drop (8 * i)).take 8)))

/-- READ advances past the packet as `ST.rel.dev` (R298). Answers the fault of the write. -/
def State.advanceRead (s : State) (x : CoxId) : State :=
  let c := s.cox x
  if c.fromRec then s.modCox x (fun y => { y with fromRec := false })
  else
  let new := c.qread + BitVec.ofNat 64 c.plen
  let r := s.unitWord (s.coxParty x) (s.ctxAsid x) (c.qhandle + 24) (.store true) 3 1 new
  let s1 := r.1.keepCox x false r.2.1
  match r.2.2 with
  | .inl f => s1.coxMem x f (c.qhandle + 24)
  | .inr _ => s1.modCox x (fun y => { y with qread := new })

/-- The packet's program has ended: READ advances, and the context goes on, stops or is halted (R302, R318, R387). -/
def State.finishPacket (s : State) (x : CoxId) : State :=
  let s1 := s.advanceRead x
  let c := s1.cox x
  if c.state = 4 then (if c.acted then s1 else s1.packetComplete x (c.packets - 1))
  else
    let s2 := s1.modCox x (fun y => { y with packet := [], plen := 0, wait := .none, loops := [], pc := 0 })
    let s3 := if c.acted then s2 else s2.packetComplete x (c.packets - 1)
    if (s3.asid (s3.ctxAsid x)).halt then s3.modCox x (fun y => { y with state := 4, haltStop := true })
    else if !c.en then s3.modCox x (fun y => { y with state := 0, bound := none })
    else (s3.modCox x (fun y => { y with state := 1 })).coxLook x

/-- The VA of the packet at READ. -/
def State.packetVa (s : State) (x : CoxId) : DWord :=
  match s.peekHandle (s.ctxAsid x) (s.cox x).qhandle with
  | some h => h.wordVa (s.cox x).qread.toNat
  | none => (s.cox x).qhandle

/-- A happening of R445 stops the context; READ advances only where the action of the packet that it runs is done, and a packet whose action is not is under
way no longer. -/
def State.stopPacket (s : State) (x : CoxId) (code detail : Nat) (taddr : DWord) : State :=
  let c := s.cox x
  let s1 := if c.state != 2 && c.state != 3 then s
    else if c.acted && c.actDone then s.advanceRead x else s.packetComplete x (c.packets - 1)
  if (s1.cox x).state = 4 then s1 else s1.coxStop x code detail taddr

/-- A happening in the instruction under way stops the context: TPC is that instruction's pc, behind which the pc stands already (R445). -/
def State.stopOp (s : State) (x : CoxId) (code detail : Nat) (taddr : DWord) : State :=
  (s.modCox x (fun y => { y with pc := y.pc - 1 })).stopPacket x code detail taddr

/-- The program starts on the packet. -/
def State.startProgram (s : State) (x : CoxId) : State :=
  (s.modCox x (fun c => { c with state := 2, wait := .none, pc := 0, loops := [], budget := 0, acted := false, actDone := false })).schedule 0 (.cox x)

/-- The launch numbers for the PKT record of a packet: those of the open launches that record, and its own for a LAUNCH that does. -/
def State.pktLaunches (s : State) (x : CoxId) (ws : List DWord) : List DWord :=
  s.recordsCox x ++
    (if (ws.head?.map hdrType) = some 1 && (ws[4]?.map (fun w => field w 1 0)) = some 1 then
      [s.chip ++ BitVec.ofNat 4 x.hub ++ BitVec.ofNat 4 x.ctx ++ BitVec.ofNat 48 (s.cox x).launches] else [])

/-- What a taken LAUNCH leaves for cuts: its CUT field, and whether it records (R338). -/
def State.noteLaunch (s : State) (x : CoxId) (ws : List DWord) : State :=
  if (ws.head?.map hdrType) = some 1 then
    let m := ((ws[4]?).getD 0).extractLsb' 0 8
    s.modCox x (fun y => { y with cutStop := cutStopMode m, recording := recordMode m == 1 })
  else s

/-- The words of a PKT record (Table 3 of 15_record_replay.md). -/
def pktSlots (x : CoxId) (n : Nat) (read : DWord) (ws : List DWord) : List (BitVec 128) :=
  slotOfFields [(0, 7), (4, x.hub), (7, x.ctx), (11, n), (64, read.toNat)]
    :: (List.range ((n + 1) / 2)).map (fun j => ((ws[2 * j + 1]?).getD 0) ++ ((ws[2 * j]?).getD 0))

/-- A taken packet runs its program, at once or when ORD is satisfied; a PAD is over (R302). -/
def State.beginPacket (s : State) (x : CoxId) (w0 : DWord) : State :=
  if hdrType w0 = 0 then s.finishPacket x
  else if hdrOrd w0 then (s.modCox x (fun y => { y with state := 3, wait := .ord })).schedule 0 (.event (.ordWaitSatisfied x))
  else s.startProgram x

/-- The clock H above which a packet of `n` words raises its taker's s (R423): the host link's s before the QWRITE that published it, or WS of the handle line of
a device queue; none for a WRITE that no QWRITE gave. -/
def State.pubClock (s : State) (x : CoxId) (h : Handle) (n : Nat) : Option Word :=
  let c := s.cox x
  if c.kind then match s.unitPa (s.ctxAsid x) c.qhandle 64 0 with
    | .inr pa => (lineOf pa).map (fun l => (s.homeLine l.1).stamp.ws)
    | .inl _ => none
  else (c.pubs.find? (fun p => decide (n ≤ (p.1 - h.read).toNat ∧ (p.1 - h.read).toNat ≤ h.size))).map (fun p => p.2)

/-- A packet that lies wholly below WRITE is taken: its clocks, raised before its words are read (R423, R425), its words, and from a host queue its record
(R325). -/
def State.takeWords (s0 : State) (x : CoxId) (h : Handle) (w0 : DWord) : State :=
  let c := s0.cox x
  let n := hdrLen w0
  let s := s0.modCox x (fun y => { y with s := ((s0.pubClock x h n).map (fun k => smax y.s (k + 1))).getD y.s,
                                          pubs := y.pubs.filter (fun p => decide (n < (p.1 - h.read).toNat ∧ (p.1 - h.read).toNat ≤ h.size)) })
  let asid := s.ctxAsid x
  let r := s.unitRead (s.coxParty x) asid (h.wordVa h.read.toNat) (8 * n) (.load false false) 3
  let s1 := r.1.keepCox x false r.2.1
  match r.2.2 with
  | .inl f => s1.coxMem x f.1 f.2
  | .inr bs =>
    let ws := wordsOf bs
    let s2 := s1.modCox x (fun y =>
      { y with packet := ws, plen := n, qread := h.read, packets := y.packets + 1,
               openP := y.openP ++ [y.packets], acted := false, actDone := false })
    let s3 := if c.kind then s2
      else (s2.pktLaunches x ws).foldl (fun (u : State) l => u.putRecord x.hub l false (pktSlots x n h.read ws)) s2
    (s3.noteLaunch x ws).beginPacket x w0

/-- A packet is taken from its PKT record (R337, R340). -/
def State.takeRecord (s : State) (x : CoxId) (r : RRec) : State :=
  (((s.modRRec x.hub r.index (fun y => { y with complete := true })).modCox x (fun y =>
    { y with packet := r.words, plen := r.words.length, packets := y.packets + 1, openP := y.openP ++ [y.packets], acted := false, actDone := false,
             fromRec := true })).noteLaunch x r.words).beginPacket x (r.words.headD 0)

/-- A context with EN set and a packet to take reads its handle and the header (R302); `ok` names the TYPEs that the event takes. -/
def State.servePacket (s : State) (x : CoxId) (ok : Nat → Bool) : State :=
  let c := s.cox x
  if !c.en || c.state != 1 then s
  else match s.pktRec x with
  | some r =>
    let ty := field (r.words.headD 0) 7 0
    if ok ty then s.takeRecord x r else s.schedule 9 (.event (packetEvent x ty))
  | none =>
    let asid := s.ctxAsid x
    match s.unitPa asid c.qhandle 64 0 with
    | .inl f => s.coxMem x f c.qhandle
    | .inr pa =>
      let r := s.unitAccess (s.coxParty x) pa 64 (.load true false) 3 [] 0 c.qhandle
      let s1 := r.1.keepCox x false r.2.1
      match r.2.2 with
      | .inl f => s1.coxMem x f c.qhandle
      | .inr bs =>
        let h := handleOf bs
        match h.bad with
        | some d => s1.coxStop x 0x18 d c.qhandle
        | none =>
          let s2 := s1.modCox x (fun y => { y with qread := h.read })
          if h.read = h.write then s2
          else
            let va := h.wordVa h.read.toNat
            match s2.peekWord asid va 0 with
            | (s3, .inl f) => s3.coxMem x f va
            | (s3, .inr w0) =>
              let n := hdrLen w0
              if n = 0 || 512 < n then s3.coxStop x 0x10 n va
              else if h.size < h.read.toNat % h.size + n then s3.coxStop x 0x11 n va
              else if (h.write - h.read).toNat < n then s3
              else if !ok (hdrType w0) then s3.schedule 9 (.event (packetEvent x (hdrType w0)))
              else s3.takeWords x h w0

def execPad (x : CoxId) (s : State) : Host.Outcome State Fault Refusal := .next (s.servePacket x (fun t => t == 0))
def execLaunch (x : CoxId) (s : State) : Host.Outcome State Fault Refusal := .next (s.servePacket x (fun t => t == 1 || 6 < t))
def execCopy (x : CoxId) (s : State) : Host.Outcome State Fault Refusal := .next (s.servePacket x (fun t => t == 2))
def execCounterAdd (x : CoxId) (s : State) : Host.Outcome State Fault Refusal := .next (s.servePacket x (fun t => t == 3))
def execCounterWait (x : CoxId) (s : State) : Host.Outcome State Fault Refusal := .next (s.servePacket x (fun t => t == 4))
def execStep (x : CoxId) (s : State) : Host.Outcome State Fault Refusal := .next (s.servePacket x (fun t => t == 5))
def execCheckpoint (x : CoxId) (s : State) : Host.Outcome State Fault Refusal := .next (s.servePacket x (fun t => t == 6))

/-- ORD_WAIT_SATISFIED (R302, R423): every earlier packet is complete; the context's s goes above the clocks of its completed launches. -/
def execOrdWaitSatisfied (x : CoxId) (s : State) : Host.Outcome State Fault Refusal :=
  let c := s.cox x
  if c.wait != .ord || c.openP.any (fun n => n + 1 < c.packets) then .next s
  else
    let ends := (s.launches.filter (fun l => l.cox == x && !l.isOpen)).map (fun l => l.endS + 1)
    .next ((s.modCox x (fun y => { y with s := smaxList y.s ends })).startProgram x)

/-! ## Instructions (R304, R308) -/

/-- Register `r`: x0 reads zero. -/
def Cox.reg (c : Cox) (r : BitVec 4) : DWord := if r = 0 then 0 else (c.x[r.toNat]?).getD 0

def Cox.setReg (c : Cox) (r : BitVec 4) (v : DWord) : Cox := if r = 0 then c else { c with x := c.x.set r.toNat v }

/-- After an instruction: the end of a replayed chunk (R334), then the next one, when the context has its turn (R302), or the end of the program (R307). -/
def State.coxNext (s0 : State) (x : CoxId) : State :=
  let s := s0.settleCox x
  let c := s.cox x
  if c.state != 2 then s
  else if c.code.length ≤ c.pc then s.finishPacket x
  else s.schedule 0 (.cox x)

/-- Runs one instruction of the context in focus, unless a happening has stopped it (R445) or the frontier of a replay holds it (R334): it counts against the
budget, the pc moves on, then its effect. -/
def coxOp (f : CoxId → Cox → State → State) (s : State) : Host.Outcome State Fault Refusal :=
  match s.focus with
  | .cox x =>
    let s0 := { s with focus := .none }
    let c := s0.cox x
    if c.state != 2 then .next s0
    else if s0.coxHeld x then .next (s0.schedule 9 (.cox x))
    else if 2048 ≤ c.budget then .next (s0.stopPacket x 0x13 (if c.actDone then 1 else 0) (s0.packetVa x))
    else
      let s1 := s0.modCox x (fun y => { y with budget := y.budget + 1, chunkCount := y.chunkCount + 1, pc := y.pc + 1 })
      .next ((f x c s1).coxNext x)
  | _ => .next s

/-- An instruction that writes rd from the context's registers. -/
def coxAlu (rd : BitVec 4) (f : Cox → DWord) (s : State) : Host.Outcome State Fault Refusal :=
  coxOp (fun x c s1 => s1.modCox x (fun y => y.setReg rd (f c))) s

def execCoxLi (rd : BitVec 4) (imm : BitVec 22) (s : State) : Host.Outcome State Fault Refusal := coxAlu rd (fun _ => imm.signExtend 64) s

def execCoxLih (rd : BitVec 4) (imm : BitVec 16) (s : State) : Host.Outcome State Fault Refusal :=
  coxAlu rd (fun c => (c.reg rd <<< 16) ||| imm.zeroExtend 64) s

def execCoxAdd (rd ra rb : BitVec 4) (imm : BitVec 14) (s : State) : Host.Outcome State Fault Refusal :=
  coxAlu rd (fun c => c.reg ra + c.reg rb + imm.signExtend 64) s

def execCoxSub (rd ra rb : BitVec 4) (s : State) : Host.Outcome State Fault Refusal := coxAlu rd (fun c => c.reg ra - c.reg rb) s
def execCoxAnd (rd ra rb : BitVec 4) (s : State) : Host.Outcome State Fault Refusal := coxAlu rd (fun c => c.reg ra &&& c.reg rb) s
def execCoxOr (rd ra rb : BitVec 4) (s : State) : Host.Outcome State Fault Refusal := coxAlu rd (fun c => c.reg ra ||| c.reg rb) s
def execCoxXor (rd ra rb : BitVec 4) (s : State) : Host.Outcome State Fault Refusal := coxAlu rd (fun c => c.reg ra ^^^ c.reg rb) s

def execCoxShl (rd ra : BitVec 4) (imm : BitVec 14) (s : State) : Host.Outcome State Fault Refusal :=
  coxAlu rd (fun c => c.reg ra <<< (imm.toNat % 64)) s

def execCoxShr (rd ra : BitVec 4) (imm : BitVec 14) (s : State) : Host.Outcome State Fault Refusal :=
  coxAlu rd (fun c => c.reg ra >>> (imm.toNat % 64)) s

def execCoxMul (rd ra rb : BitVec 4) (s : State) : Host.Outcome State Fault Refusal := coxAlu rd (fun c => c.reg ra * c.reg rb) s

def execCoxMinu (rd ra rb : BitVec 4) (s : State) : Host.Outcome State Fault Refusal :=
  coxAlu rd (fun c => if (c.reg ra).toNat ≤ (c.reg rb).toNat then c.reg ra else c.reg rb) s

/-- A packet word at or beyond LEN reads 0. -/
def execCoxPkr (rd : BitVec 4) (imm : BitVec 14) (s : State) : Host.Outcome State Fault Refusal :=
  coxAlu rd (fun c => if imm.toNat % 512 < c.plen then (c.packet[imm.toNat % 512]?).getD 0 else 0) s

/-- All of imm is compared with LEN, as a natural number (Table 5 of 14_queues_host_fabric.md). -/
def execCoxPkw (ra : BitVec 4) (imm : BitVec 14) (s : State) : Host.Outcome State Fault Refusal :=
  coxOp (fun x c s1 => if imm.toNat < c.plen then s1.modCox x (fun y => { y with packet := y.packet.set imm.toNat (c.reg ra) }) else s1) s

/-! ### Windows -/

/-- addr(w) of format M (R304). -/
def windowVa (c : Cox) (ra : BitVec 4) (w : BitVec 3) (imm : BitVec 15) : DWord :=
  let d := (c.windows[w.toNat]?).getD ⟨0, 3, false, false⟩
  d.base + BitVec.ofNat 64 (((c.reg ra + 8 * imm.signExtend 64).toNat % 2 ^ d.log) / 8 * 8)

/-- A window access; its class 2 fault stops the context. -/
def windowOp (rd ra : BitVec 4) (w : BitVec 3) (imm : BitVec 15) (kind : AccKind) (need : Nat) (value : Cox → DWord) (loads : Bool) (s : State) :
    Host.Outcome State Fault Refusal :=
  coxOp (fun x c s1 =>
    let va := windowVa c ra w imm
    let r := s1.unitWord (s1.coxParty x) (s1.ctxAsid x) va kind 3 need (value c)
    let s2 := r.1.keepCox x true r.2.1
    match r.2.2 with
    | .inl f => s2.stopOp x 0x15 f.code va
    | .inr old => if loads then s2.modCox x (fun y => y.setReg rd old) else s2) s

def execCoxLdw (rd ra : BitVec 4) (w : BitVec 3) (imm : BitVec 15) (s : State) : Host.Outcome State Fault Refusal :=
  windowOp rd ra w imm (.load false false) 0 (fun _ => 0) true s

def execCoxStw (rd ra : BitVec 4) (w : BitVec 3) (imm : BitVec 15) (s : State) : Host.Outcome State Fault Refusal :=
  windowOp rd ra w imm (.store false) 1 (fun c => c.reg rd) false s

def execCoxAtadd (rd ra : BitVec 4) (w : BitVec 3) (imm : BitVec 15) (s : State) : Host.Outcome State Fault Refusal :=
  windowOp rd ra w imm (.atom 0 8 true true) 2 (fun c => c.reg rd) true s

/-! ### Branches and loops -/

/-- The index of the ENDL that closes the body that starts at `i`, with `depth` loops open inside it. -/
def closing (code : List Word) (i depth : Nat) : Nat → Nat
  | 0 => i
  | fuel + 1 =>
    match code[i]? with
    | none => i
    | some w =>
      let op := w.toNat / 2 ^ 26
      if op = 0x15 then (if depth = 0 then i else closing code (i + 1) (depth - 1) fuel)
      else if op = 0x14 then closing code (i + 1) (depth + 1) fuel
      else closing code (i + 1) depth fuel

/-- The loops whose body holds the target of a branch. -/
def Cox.leave (c : Cox) (target : Nat) : List (Nat × Nat) :=
  c.loops.dropWhile (fun l => target < l.1 || closing c.code l.1 0 c.code.length < target)

def coxBranch (imm : BitVec 14) (taken : Cox → Bool) (s : State) : Host.Outcome State Fault Refusal :=
  coxOp (fun x c s1 =>
    if taken c then
      let target := ((c.pc : Int) + 1 + imm.toInt).toNat
      s1.modCox x (fun y => { y with pc := target, loops := c.leave target })
    else s1) s

def execCoxBeq (ra rb : BitVec 4) (imm : BitVec 14) (s : State) : Host.Outcome State Fault Refusal := coxBranch imm (fun c => c.reg ra == c.reg rb) s
def execCoxBne (ra rb : BitVec 4) (imm : BitVec 14) (s : State) : Host.Outcome State Fault Refusal := coxBranch imm (fun c => c.reg ra != c.reg rb) s

def execCoxBltu (ra rb : BitVec 4) (imm : BitVec 14) (s : State) : Host.Outcome State Fault Refusal :=
  coxBranch imm (fun c => (c.reg ra).toNat < (c.reg rb).toNat) s

def execCoxLoop (imm : BitVec 14) (s : State) : Host.Outcome State Fault Refusal :=
  coxOp (fun x c s1 => s1.modCox x (fun y => { y with loops := (c.pc + 1, imm.toNat % 512 - 1) :: c.loops })) s

def execCoxEndl (s : State) : Host.Outcome State Fault Refusal :=
  coxOp (fun x c s1 =>
    match c.loops with
    | (start, left) :: rest =>
      if left = 0 then s1.modCox x (fun y => { y with loops := rest })
      else s1.modCox x (fun y => { y with pc := start, loops := (start, left - 1) :: rest })
    | [] => s1) s

def execCoxHalt (s : State) : Host.Outcome State Fault Refusal := coxOp (fun x _ s1 => s1.finishPacket x) s

/-! ### NOTIFY, TIME, SEQ -/

/-- NOTIFY (R316): every earlier access of the context has been performed when it executes. -/
def execCoxNotify (ra : BitVec 4) (s : State) : Host.Outcome State Fault Refusal := coxOp (fun _ c s1 => s1.msix ((c.reg ra).toNat % 64)) s

/-- The VALUE record for a read of `$time` in the context's present chunk, where replay has one. -/
def State.coxTimeRecord (s : State) (x : CoxId) : Option RRec :=
  let chunk := s.unitRec x.hub (s.coxIdent x false) none
  (s.hub x.hub).recd.replay.find? (fun r => r.kind == 3 && r.ident == s.coxIdent x false && !r.complete
    && (chunk.map (fun k => decide (r.index.toNat < k.index.toNat))).getD true)

/-- TIME (R309, R331): recorded, and in replay the recorded value. A replayed chunk that has no record for it, or one of another register, diverges (R452); past
the last recorded chunk of the context none is required (log entry 70). -/
def execCoxTime (rd : BitVec 4) (s : State) : Host.Outcome State Fault Refusal :=
  coxOp (fun x c s1 =>
    let live := fun (u : State) => u.modCox x (fun y => y.setReg rd s1.time)
    let fail := fun (r : RRec) (detail : Nat) => live (s1.coxDiverge x r 3 detail (BitVec.ofNat 64 c.pc) (s1.cox x).chunkCount s1.time)
    match decide (s1.coxReplays x = true), s1.coxTimeRecord x, s1.unitRec x.hub (s1.coxIdent x false) none with
    | true, some r, _ =>
      if r.sreg != 0x3F then fail r 1
      else (s1.modRRec x.hub r.index (fun y => { y with complete := true })).modCox x (fun y => y.setReg rd r.value)
    | true, none, some k => fail k 3
    | _, _, _ => live (s1.coxRecord x [slotOfFields ([(0, 3)] ++ coxSlotFields x ++ [(24, 0x3F), (64, s1.time.toNat)])])) s

/-- The sequence number of the next launch that the context has accepted (R311). -/
def State.nextSeq (s : State) (x : CoxId) : DWord :=
  s.chip ++ BitVec.ofNat 4 x.hub ++ BitVec.ofNat 4 x.ctx ++ BitVec.ofNat 48 (s.cox x).launches

def execCoxSeq (rd : BitVec 4) (s : State) : Host.Outcome State Fault Refusal :=
  coxOp (fun x _ s1 => s1.modCox x (fun y => y.setReg rd (s1.nextSeq x))) s

end Sys2Proof.Machine
end

