-- ==== Sys2Proof/Machine/Actions.lean ====
section
/-!
DEFINITION. The actions of packets (R310 to R313): checking and accepting launches, copies, counters, steps and checkpoints (R338, R339,
R457).
-/
namespace Sys2Proof.Machine

/-! ## LAUNCH packets (R301, R312) -/

def ringOf (w : DWord) : Option RingDecl :=
  if w.getLsbD 0 then
    some { base := 128 * field w 17 5, stage := 128 * field w 30 18, stages := field w 4 1 + 1, bar := field w 35 32 }
  else none

/-- The fields of a LAUNCH packet. -/
def parseLaunch (ws : List DWord) : LaunchP :=
  let w := fun (i : Nat) => (ws[i]?).getD 0
  { entry := w 1, x := field (w 2) 23 0 + 1, y := field (w 2) 39 24 + 1, z := field (w 2) 55 40 + 1,
    gx := field (w 3) 6 0 + 1, gy := field (w 3) 14 8 + 1, gz := field (w 3) 22 16 + 1, crews := field (w 3) 29 24 + 1,
    regs := 8 * field (w 3) 36 32, gran := field (w 3) 48 40, grows := field (w 3) 51 50, gcols := field (w 3) 53 52,
    idem := (w 3).getLsbD 54, modes := (w 4).extractLsb' 0 8, rwrap := (w 4).getLsbD 8, prio := field (w 4) 11 9, coop := (w 4).getLsbD 12,
    slice := field (w 4) 63 32, minres := field (w 5) 31 0, grace := field (w 5) 41 32, stackbase := (w 6).extractLsb' 0 56,
    stride := field (w 7) 31 0, trapvec := w 8 &&& ~~~(3 : DWord), homev := (w 9).getLsbD 0, harg := 2 * field (w 9) 6 1, stridex := w 10, stridey := w 11,
    rings := (List.range 8).map (fun g => ringOf (w (12 + g))),
    bpart := (List.range 16).map (fun i => field (w (20 + i / 8)) (8 * (i % 8) + 7) (8 * (i % 8))),
    spart := (List.range 8).map (fun i => field (w (22 + i / 4)) (16 * (i % 4) + 15) (16 * (i % 4))),
    args := (List.range (field (w 24) 5 0)).map (fun j => w (25 + j)) }

/-- The bits of each word that Table 3 names. -/
def launchMask (i : Nat) : Nat :=
  match i with
  | 0 => 0xFFFFFFFF0007FFFF
  | 2 => 2 ^ 56 - 1
  | 3 => 0x007DFF1F3F7F7F7F
  | 4 => 0xFFFFFFFF00001FFF
  | 5 => 0x000003FFFFFFFFFF
  | 6 => 2 ^ 56 - 1
  | 7 => 0xFFFFFFFF
  | 9 => 0x7F
  | 24 => 0x3F
  | _ => if 12 ≤ i && i < 20 then 0xF7FFFFFFF else 2 ^ 64 - 1

def RingDecl.meets (a b : RingDecl) : Bool := a.base < b.base + b.stage * b.stages && b.base < a.base + a.stage * a.stages

/-- Each declared ring fits the allocation and overlaps no other. -/
def ringsGood (bytes : Nat) : List (Option RingDecl) → Bool
  | [] => true
  | none :: rs => ringsGood bytes rs
  | some d :: rs =>
    2 ≤ d.stages && 128 ≤ d.stage && d.stage ≤ 524288 && d.base + d.stage * d.stages ≤ bytes
    && rs.all (fun r => match r with | some e => !d.meets e | none => true) && ringsGood bytes rs

/-- Every field lies within its limits (R36, R38, R301, R312). -/
def LaunchP.good (p : LaunchP) : Bool :=
  field p.entry 63 56 = 0 && p.entry.toNat % 32 = 0
  && p.groupSize ≤ 96 && p.x % p.gx = 0 && p.y % p.gy = 0 && p.z % p.gz = 0
  && 16 ≤ p.regs && p.regs ≤ 128 && p.gran ≤ 256
  && (p.grows = 0) == (p.gcols = 0) && (p.grows = 0 || p.groupSize % (p.grows * p.gcols) = 0)
  && recordMode p.modes ≠ 3 && raceMode p.modes ≠ 3
  && 50 ≤ p.slice && p.slice ≤ 100000 && p.minres ≤ p.slice
  && (if p.coop then 1 ≤ p.grace && p.grace ≤ 1000 else p.grace = 0)
  && p.stride % 16 = 0 && 16 ≤ p.stride && p.stride ≤ 2 ^ 24
  && (!p.homev || p.harg ≤ 62)
  && ringsGood (4096 * p.gran) p.rings
  && p.bpart.all (fun n => n ≤ 64) && p.spart.all (fun n => n ≤ 6144) && p.args.length ≤ 32
  && p.crews ≤ 4 * min 16 (1024 / max 1 p.regs)

/-- The check of R312 on a LAUNCH packet's words. -/
def launchGood (ws : List DWord) : Bool :=
  let p := parseLaunch ws
  hdrLen ((ws[0]?).getD 0) = 25 + p.args.length && ws.length = 25 + p.args.length
  && (ws.mapIdx (fun i w => w.toNat &&& launchMask i == w.toNat)).all id && p.good

/-! ## Acceptance (R277, R311, R423) -/

/-- Sends a hub's sequencer on its next walk step (R281), and the slice arbiter on its next run (R288), where none is due. The spec gives their periods alone: the
steps of all six hubs stand at the multiples of 8 hub cycles since reset, the runs at the multiples of 1 µs (DESIGN CHOICE, log entry 67). -/
def State.pokeWalk (s : State) (h : Nat) : State :=
  let s1 := if s.agenda.any (fun (t : Turn) => t.act == .event (.walkStep h)) then s else s.schedule (72 - s.now % 72) (.event (.walkStep h))
  if s1.agenda.any (fun (t : Turn) => t.act == .event .sliceArbiterRun) then s1
  else s1.schedule (usTicks - s.now % usTicks) (.event .sliceArbiterRun)

/-- Every recorder that is idle takes up the mode of a launch that opens (R330). -/
def State.startRecorders (s : State) (m : BitVec 8) : State :=
  if recordMode m = 0 then s
  else { s with hubs := s.hubs.map (fun h => if h.recd.state = 0 then { h with recd := { h.recd with state := BitVec.ofNat 2 (recordMode m), diverged := false } } else h) }

/-- A replaying launch reads the rings; the packet of the recorded launch itself, where they hold it, stands for this one (R334). -/
def State.startReplay (s : State) (x : CoxId) (m : BitVec 8) : State :=
  if recordMode m ≠ 2 then s
  else
    let s1 := (List.range 6).foldl (fun (u : State) h => match u.loadRing h with
      | .inr v => v
      | .inl _ => u) s
    let own := (s1.hub x.hub).recd.replay.find? (fun r => r.kind == 7 && r.sreg == x.ctx)
    let s2 := match own with
      | some r =>
        if field (r.words.headD 0) 7 0 = 1 && field ((r.words[4]?).getD 0) 1 0 = 1 then s1.modRRec x.hub r.index (fun y => { y with complete := true })
        else s1
      | none => s1
    (List.range 6).foldl (fun (u : State) h => (u.modHub h (fun y => { y with recd := { y.recd with lu := none } })).schedule 0 (.event (.frontierUpdate h))) s2

/-- The chunks of the context and of the host link begin with a launch whose records tell them, where no other does already (R325, R334; log entry 70). -/
def State.startCounts (s : State) (x : CoxId) (m : BitVec 8) : State :=
  let on := fun (l : Launch) => l.isOpen && recordMode l.p.modes != 0
  if recordMode m = 0 then s
  else
    let s1 := if s.launches.any on then s else { s with hostCount := 0 }
    if s.launches.any (fun l => on l && l.cox == x) then s1 else s1.modCox x (fun y => { y with chunkCount := 0 })

/-- A launch is accepted: its number, its clock LB, its place in the waiting list (R280, R311, R423). -/
def State.acceptLaunch (s : State) (x : CoxId) (p : LaunchP) : State :=
  let c := s.cox x
  let idx := s.launches.length
  let l : Launch := { idx := idx, seq := if recordMode p.modes = 2 then (s.ringLaunch).getD (s.nextSeq x) else s.nextSeq x, asid := s.ctxAsid x, cox := x, p := p, next := 0, ended := 0, rr := x.hub,
                      bars := List.replicate 4 Barrier.reset, lb := c.s, endS := c.s, isOpen := true, packet := c.packets - 1 }
  let s1 := { s.startCounts x p.modes with launches := s.launches ++ [l], waiting := s.waiting.modify p.prio (fun w => w ++ [WEntry.launch idx]) }
  ((((s1.startRecorders p.modes).startReplay x p.modes).bbox (hubDie x.hub) 1 x.ctx l.asid 0 l.seq 0).modCox x (fun y =>
    { y with s := y.s + 1, launches := y.launches + 1, wait := .none, state := 2, actDone := true })).pokeWalk x.hub

/-- Launches that have reached the hub's sequencer by now, of lower contexts (R25). -/
def State.lowerLaunch (s : State) (x : CoxId) : Bool :=
  (s.agenda.takeWhile (fun (t : Turn) => t.dt == 0)).any (fun (t : Turn) => match t.act with
    | .event (.launchAccept y) => y.hub == x.hub && y.ctx < x.ctx
    | _ => false)

/-- LAUNCH_ACCEPT: the sequencer takes a launch while it has a free grid-barrier set (R277), those of one hub cycle in ascending context number (R25). -/
def execLaunchAccept (x : CoxId) (s : State) : Host.Outcome State Fault Refusal :=
  match (s.cox x).wait with
  | .launch p =>
    if s.lowerLaunch x then .next (s.schedule 0 (.event (.launchAccept x)))
    else if 64 ≤ (s.launches.filter (fun l => l.isOpen && l.cox.hub == x.hub)).length then .next (s.schedule 9 (.event (.launchAccept x)))
    else .next ((s.acceptLaunch x p).coxNext x)
  | _ => .next s

/-! ## Requests to other packages (R246) -/

def State.isPeerVa (s : State) (va : DWord) : Bool := field va 63 56 = 0xE0 && va.extractLsb' 48 8 != s.chip

/-- A request of a context's counter action, or of its copy engine, to another package (R246), none where no route serves it. -/
def State.coxPeer (s : State) (x : CoxId) (copy : Bool) (va : DWord) (kind : PeerKind) : Option State :=
  if s.chipLost (va.extractLsb' 48 8) then none
  else
    let n := s.serial
    let u := if copy then s.copyParty x else s.coxParty x
    let q : PeerReq := { id := n, src := s.chip, asid := s.ctxAsid x, va := BitVec.ofNat 48 (field va 47 0), size := 8, kind := kind, scope := 3,
                         ident := u.id, pc := 0, o := u.clk.o, s := u.clk.s, pa := u.clk.pa, fs := none, engine := u.engine, precise := false,
                         group := (n, 1) }
    some ((s.noteClk x.hub (!copy) u.clk).request (va.extractLsb' 48 8) q ⟨0, 0, 0, 0⟩ (if copy then 1 else 0) (some x))

/-! ## The copy engine (R313) -/

/-- The context's copy waits for another package to add to its counter. -/
def State.copyWaits (s : State) (x : CoxId) : Bool := s.peerOut.any (fun p => p.cox == some x && p.pend == 1)

/-- The hub's copy engine turns to the next context with a copy, in ascending order after the last served. -/
def State.copyNext (s : State) (h : Nat) : State :=
  let busy := s.agenda.any (fun (t : Turn) => match t.act with
    | .event (.copyChunk y) => y.hub == h
    | _ => false)
  let last := (s.hub h).copyLast
  let order := (List.range 16).map (fun i => (last + 1 + i) % 16)
  match order.find? (fun c => !(s.cox ⟨h, c⟩).copies.isEmpty && !s.copyWaits ⟨h, c⟩) with
  | some c => if busy then s else s.soon (.copyChunk ⟨h, c⟩)
  | none => s

/-- The copy under way ends, and with it its last chunk (R327). -/
def State.endCopy (s : State) (x : CoxId) : State := (s.endCopyChunk x).modCox x (fun y => { y with copies := y.copies.drop 1 })

/-- A copy's fault stops its context (R445); the copy goes. -/
def State.copyFault (s : State) (x : CoxId) (k : Copy) (f : AFault) (va : DWord) : State :=
  let s1 := s.endCopy x
  ((s1.stopPacket x 0x16 f.code va).packetComplete x k.packet).copyNext x.hub

/-- A copy's counter has been added to, or could not be: the packet is complete. -/
def State.copyDone (s0 : State) (x : CoxId) (k : Copy) (r : Nat ⊕ Bool) : State :=
  let s := s0.endCopy x
  let s1 := match r with
    | .inl code => s.stopPacket x 0x16 code k.ctr
    | .inr top => if top then s.stopPacket x 0x17 1 k.ctr else s
  (s1.packetComplete x k.packet).copyNext x.hub

/-- The copy is over: its counter, and its packet is complete. A counter in another package answers (R246). -/
def State.copyEnd (s : State) (x : CoxId) (k : Copy) : State :=
  if k.ctr = 0 then ((s.endCopy x).packetComplete x k.packet).copyNext x.hub
  else if s.isPeerVa k.ctr then
    match s.coxPeer x true k.ctr (.counterAdd 1) with
    | some u => (u.modCox x (fun y => { y with copies := { k with left := 0 } :: y.copies.drop 1 })).copyNext x.hub
    | none => s.copyDone x k (.inl 7)
  else
    let r := s.unitAdd (s.copyParty x) (s.ctxAsid x) k.ctr 1
    let s2 := r.1.keepCopy x r.2.1
    s2.copyDone x k (match r.2.2 with
      | .inl f => .inl f.code
      | .inr top => .inr top)

/-- The answer of another package to a copy's counter add. -/
def State.copyAnswer (s : State) (x : CoxId) (err : Nat) (v : DWord) (o sc : Word) : State :=
  let s1 := s.keepCopy x { (unitClk o sc 0) with ended := o != (s.cox x).co }
  match (s1.cox x).copies with
  | [] => s1
  | k :: _ => s1.copyDone x k
      (if err ≠ 0 then .inl err else .inr (counterTop ≤ v.toNat + 1))

/-- COPY_CHUNK: reads all of a chunk of up to 4 KiB, then writes it. -/
def execCopyChunk (x : CoxId) (s : State) : Host.Outcome State Fault Refusal :=
  match (s.cox x).copies with
  | [] => .next s
  | k :: rest =>
    if s.copyWaits x then .next s
    else if s.copyHeld x then .next ((s.modHub x.hub (fun h => { h with copyLast := x.ctx })).copyNext x.hub) else
    let n := min 4096 k.left
    let asid := s.ctxAsid x
    let s0 := s.modHub x.hub (fun h => { h with copyLast := x.ctx })
    let r := s0.unitRead (s0.copyParty x) asid k.src n (.load false false) 3
    let s1 := r.1.keepCopy x r.2.1
    match r.2.2 with
    | .inl f => .next (s1.copyFault x k f.1 f.2)
    | .inr bs =>
      let w := s1.unitWrite (s1.copyParty x) asid k.dst bs 3
      let s2 := w.1.keepCopy x w.2.1
      match w.2.2 with
      | some f => .next (s2.copyFault x k f.1 f.2)
      | none =>
        let left : Copy := { k with src := k.src + BitVec.ofNat 64 n, dst := k.dst + BitVec.ofNat 64 n, left := k.left - n }
        if left.left = 0 then .next (s2.copyEnd x k)
        else .next ((s2.modCox x (fun y => { y with copies := left :: rest })).copyNext x.hub)

/-! ## Counters (R310, R439) -/

/-- An action is done and complete. -/
def State.actComplete (s : State) (x : CoxId) : State :=
  (s.modCox x (fun y => { y with actDone := true, wait := .none, state := 2 })).packetComplete x ((s.cox x).packets - 1)

def State.actAdd (s : State) (x : CoxId) (va addend : DWord) : State :=
  if s.isPeerVa va then
    match s.coxPeer x false va (.counterAdd addend) with
    | some u => u.modCox x (fun y => { y with state := 3, wait := .peerAdd va addend })
    | none => s.stopOp x 0x15 7 va
  else
    let r := s.unitAdd (s.coxParty x) (s.ctxAsid x) va addend.toNat
    let s1 := r.1.keepCox x true r.2.1
    match r.2.2 with
    | .inl f => s1.stopOp x 0x15 f.code va
    | .inr top => if top then (s1.actComplete x).stopOp x 0x17 0 va else s1.actComplete x

/-- One read of a waiting COUNTER-WAIT. -/
def State.coxCounter (s : State) (x : CoxId) (va target : DWord) : State :=
  if s.isPeerVa va then
    if s.peerOut.any (fun p => p.cox == some x && p.pend == 0) then s
    else match s.coxPeer x false va (.counter target) with
      | some u => u
      | none => s.stopOp x 0x15 7 va
  else
    match s.peekWord (s.ctxAsid x) va 0 with
    | (s1, .inl f) => s1.stopOp x 0x15 f.code va
    | (s1, .inr v) =>
      if v.toNat = counterTop then s1.stopOp x 0x17 2 va
      else if v.toNat < target.toNat then s1.inCycle (s1.cycle + 1) (.counterWaitSatisfied x)
      else
        let r := s1.unitWord (s1.coxParty x) (s1.ctxAsid x) va (.load true false) 3 0 0
        let s2 := r.1.keepCox x true r.2.1
        match r.2.2 with
        | .inl f => s2.stopOp x 0x15 f.code va
        | .inr _ => (s2.actComplete x).coxNext x

/-- COUNTER_WAIT_SATISFIED: a waiting context reads its counter (R190, R310), behind every add of its cycle (R447). -/
def execCounterWaitSatisfied (x : CoxId) (s : State) : Host.Outcome State Fault Refusal :=
  match (s.cox x).wait with
  | .counter va target => .next (if s.addsToCome then s.schedule 0 (.event (.counterWaitSatisfied x)) else s.coxCounter x va target)
  | _ => .next s

/-- A peer's answer to a counter action. -/
def State.coxAnswer (s : State) (x : CoxId) (err : Nat) (v : DWord) (o sc pa : Word) : State :=
  let k := (unitClk o sc pa)
  let s1 := s.keepCox x true { k with ended := o != (s.cox x).o }
  match (s1.cox x).wait with
  | .peerAdd va n =>
    if err ≠ 0 then s1.stopOp x 0x15 err va
    else if counterTop ≤ v.toNat + n.toNat then (s1.actComplete x).stopOp x 0x17 0 va
    else (s1.actComplete x).coxNext x
  | .counter va target =>
    if err ≠ 0 then s1.stopOp x 0x15 err va
    else if v.toNat = counterTop then s1.stopOp x 0x17 2 va
    else if v.toNat < target.toNat then s1.inCycle (s1.cycle + 1) (.counterWaitSatisfied x)
    else (s1.actComplete x).coxNext x
  | _ => s1

/-! ## Checkpoints (R338, R339, R457) -/

/-- The offset of DATA for a number of ranges. -/
def ckptData (n : Nat) : Nat := 4096 * ((128 + 16 * n + 4095) / 4096)

/-- The lines of one range with the PAs of their DATA places, none where an address has no translation. -/
def State.rangeLines (s : State) (asid : BitVec 16) (rva rlen data : Nat) : Option (List (LineId × DWord)) :=
  (List.range (rlen / 128)).foldr (fun i (acc : Option (List (LineId × DWord))) =>
    match s.unitPa asid (BitVec.ofNat 64 (rva + 128 * i)) 128 0, s.unitPa asid (BitVec.ofNat 64 (data + 128 * i)) 128 1, acc with
    | .inr pa, .inr d, some ls => (lineOf pa).map (fun l => (l.1, BitVec.ofNat 64 d) :: ls)
    | _, _, _ => none) (some [])

/-- The ranges with the addresses of their DATA places, which are packed in the order listed (Table 4 of 15_record_replay.md). -/
def placedRanges : Nat → List (Nat × Nat) → List (Nat × Nat × Nat)
  | _, [] => []
  | at_, r :: rs => (r.1, r.2, at_) :: placedRanges (at_ + r.2) rs

/-- The marked lines of a checkpoint area, in address order (R339). -/
def State.ckptLines (s : State) (asid : BitVec 16) (area : DWord) (ranges : List (Nat × Nat)) (data : Nat) : Option (List (LineId × DWord)) :=
  ((placedRanges (area.toNat + data) ranges).mergeSort (fun a b => a.1 ≤ b.1)).foldr (fun r (acc : Option (List (LineId × DWord))) =>
    match s.rangeLines asid r.1 r.2.1 r.2.2, acc with
    | some new, some ls => some (new ++ ls)
    | _, _ => none) (some [])

/-- The ranges that an area lists, read as the copy engine. -/
def State.ckptRanges (s : State) (x : CoxId) (area : DWord) : State × (AFault × DWord ⊕ List (Nat × Nat)) :=
  let asid := s.ctxAsid x
  let r := s.unitRead (s.copyParty x) asid area 4 (.load false false) 3
  match r.2.2 with
  | .inl f => (r.1, .inl f)
  | .inr bs =>
    let n := min 4096 (leNat bs)
    let t := r.1.unitRead (s.copyParty x) asid (area + 128) (16 * n) (.load false false) 3
    match t.2.2 with
    | .inl f => (t.1, .inl f)
    | .inr rs =>
      let ws := wordsOf rs
      (t.1, .inr ((List.range n).map (fun i => (((ws[2 * i]?).getD 0).toNat, ((ws[2 * i + 1]?).getD 0).toNat / 128 * 128))))

/-- Writes STATUS as the copy engine. -/
def State.ckptStatus (s : State) (x : CoxId) (area : DWord) (v : Nat) : State :=
  let w := s.unitWrite (s.copyParty x) (s.ctxAsid x) (area + 4) (leBytes 4 v) 3
  w.1.keepCopy x w.2.1

/-- A checkpoint is over: the packet that waits for it is complete. -/
def State.ckptOver (s : State) (x : CoxId) (k : Ckpt) : State :=
  if (s.cox x).wait = .checkpoint && (s.cox x).packets = k.packet + 1 then ((s.actComplete x).coxNext x) else s.packetComplete x k.packet

/-- The checkpoint is the context's no longer. -/
def State.dropCkpt (s : State) (x : CoxId) (k : Ckpt) : State :=
  s.modCox x (fun y => { y with ckpts := y.ckpts.filter (fun q => q.packet != k.packet || q.auto != k.auto) })

/-- The checkpoint has no mark left: STATUS 2, and its packet is complete. -/
def State.ckptEnd (s : State) (x : CoxId) (k : Ckpt) : State := ((s.ckptStatus x k.area 2).dropCkpt x k).ckptOver x k

/-- A fault of a checkpoint's accesses, which are the copy engine's, stops the context (R445); the checkpoint ends as it stands. -/
def State.ckptFail (s : State) (x : CoxId) (k : Ckpt) (code : Nat) (va : DWord) : State :=
  let s1 := s.dropCkpt x k
  let s2 := if (s1.cox x).wait = .checkpoint then s1.stopOp x 0x16 code va else s1.stopPacket x 0x16 code va
  s2.packetComplete x k.packet

/-- The cut (R338, R339): STATUS 1, the area's fields, POS where the context's last LAUNCH records, the marks. An automatic one is pending no longer (R457). -/
def State.takeCut (s00 : State) (x : CoxId) (k : Ckpt) : State :=
  let s := if k.auto then { s00 with sections := s00.sections.map (fun t => { t with autoPending := false }) } else s00
  let asid := s.ctxAsid x
  match s.ckptRanges x k.area with
  | (s1, .inl f) => s1.ckptFail x k f.1.code f.2
  | (s0, .inr ranges) =>
    let s1 := (List.range 6).foldl (fun (u : State) h => u.flushCyc h) s0
    match s1.ckptLines asid k.area ranges (ckptData ranges.length) with
    | none => s1.ckptFail x k 4 k.area
    | some lines =>
      let pos := (List.range 6).flatMap (fun h => leBytes 8 (if (s1.cox x).recording then (s1.hub h).recd.rrput.toNat else 0))
      let bytes := leBytes 4 1 ++ leBytes 8 k.number.toNat ++ leBytes 8 (s1.cox x).lastStep.toNat ++ leBytes 8 s1.time.toNat ++ pos
      let w := s1.unitWrite (s1.copyParty x) asid (k.area + 4) bytes 3
      let s2 := w.1.keepCopy x w.2.1
      match w.2.2 with
      | some f => s2.ckptFail x k f.1.code f.2
      | none =>
        let cut : Ckpt := { k with cut := true, marks := lines }
        let s3 := s2.modCox x (fun y => { y with ckpts := y.ckpts.map (fun q => if q = k then cut else q) })
        let s4 := if lines.isEmpty then s3.ckptEnd x cut else s3.soon (.checkpointLineCopy x)
        if k.stop || (s4.cox x).wait != .checkpoint then s4
        else (s4.modCox x (fun y => { y with actDone := true, wait := .none, state := 2 })).coxNext x

/-- A divergence of this cycle, or one that has halted the context: no automatic cut begins (R458). -/
def State.cutBarred (s : State) (a : BitVec 16) : Bool :=
  s.divsNow.any (fun e => e.asid == a) || ((s.asid a).halt && s.hubs.any (fun h => h.recd.diverged))

/-- CHECKPOINT_CUT: the cut point has come when every earlier packet is complete. -/
def execCheckpointCut (x : CoxId) (s : State) : Host.Outcome State Fault Refusal :=
  match (s.cox x).ckpts.find? (fun k => !k.cut) with
  | none => .next s
  | some k =>
    if k.auto && s.cutBarred (s.ctxAsid x) then
      .next ((s.modCox x (fun y => { y with ckpts := y.ckpts.filter (fun q => q != k) })).ckptOver x k)
    else if (s.cox x).openP.any (fun n => n < k.packet) then .next s else .next (s.takeCut x k)

/-- A number that stands at a VA, looked at without stamps. -/
def State.peekNat (s : State) (asid : BitVec 16) (va : DWord) (n : Nat) : Nat :=
  match s.unitPa asid va 1 0 with
  | .inr pa => s.physNat pa n
  | .inl _ => 0

/-- The VA in a checkpoint's ranges of the line at a physical address. -/
def State.ckptVa (s : State) (asid : BitVec 16) (area : DWord) (line : Nat) : Option DWord :=
  (List.range (min 4096 (s.peekNat asid area 4))).findSome? (fun i =>
    let at_ := area + BitVec.ofNat 64 (128 + 16 * i)
    let rva := s.peekNat asid at_ 8
    (List.range (s.peekNat asid (at_ + 8) 8 / 128)).findSome? (fun j =>
      let va := BitVec.ofNat 64 (rva + 128 * j)
      match s.unitPa asid va 128 0 with
      | .inr pa => if pa = line then some va else none
      | .inl _ => none))

/-- The copy of a context's checkpoint goes on after a while, where it does not already. -/
def State.copyOn (s : State) (x : CoxId) : State :=
  if s.agenda.any (fun (t : Turn) => t.act == .event (.checkpointLineCopy x)) then s else s.soon (.checkpointLineCopy x)

/-- CHECKPOINT_LINE_COPY: the copy engine, a reader (R254), copies the next marked line and clears its mark; a line that cannot be read stops the context
(R414, R445). -/
def execCheckpointLineCopy (x : CoxId) (s : State) : Host.Outcome State Fault Refusal :=
  match (s.cox x).ckpts.find? (fun k => k.cut) with
  | none => .next s
  | some k =>
    let s1 := match k.marks with
      | [] => s
      | m :: _ => s.saveMark m.1
    match (s1.cox x).ckpts.find? (fun q => q.packet == k.packet && q.auto == k.auto && q.cut) with
    | none => .next s1
    | some q =>
      match q.lost with
      | some pa =>
        let s2 := s1.ckptFail x q 8 ((s1.ckptVa (s1.ctxAsid x) q.area pa).getD q.area)
        .next (if (s2.cox x).ckpts.any (fun r => r.cut) then s2.copyOn x else s2)
      | none =>
        if q.marks.isEmpty then
          let s2 := s1.ckptEnd x q
          .next (if (s2.cox x).ckpts.any (fun r => r.cut) then s2.copyOn x else s2)
        else .next (s1.copyOn x)

/-- A checkpoint enters the context: it is cut at once where nothing earlier is under way, an automatic one at the end of the cycle (R458). -/
def State.addCkpt (s : State) (x : CoxId) (area number : DWord) (packet : Nat) (auto : Bool) : State :=
  let k : Ckpt := { area := area, number := number, packet := packet, cut := false, stop := (s.cox x).cutStop, auto := auto, marks := [] }
  let s1 := s.modCox x (fun y => { y with ckpts := y.ckpts ++ [k], state := 3, wait := .checkpoint })
  if auto then s1.inCycle s.cycle (.checkpointCut x) else s1.schedule 0 (.event (.checkpointCut x))

/-- The section whose warning names the context for an automatic cut (R457). -/
def State.autoCut (s : State) (x : CoxId) : Option Section :=
  s.sections.find? (fun t => t.autoPending && field t.warn 5 2 = x.ctx && field t.warn 8 6 = x.hub)

/-- STEP: the number goes to the recorder; an automatic cut follows where one is pending (R338, R457). Under a stop cut the packet is
complete with every earlier one, which whatever waits for it waits for anyway. -/
def State.actStep (s : State) (x : CoxId) (n : DWord) : State :=
  let c := s.cox x
  let s1 := s.coxRecord x [slotOfFields [(0, 9), (4, x.hub), (7, x.ctx), (64, n.toNat)]]
  let s2 := s1.modCox x (fun y => { y with lastStep := n })
  match s2.autoCut x with
  | some t => s2.addCkpt x t.ckarea (0x8000000000000000 + n) (c.packets - 1) true
  | none => s2.actComplete x

def State.actCheckpoint (s : State) (x : CoxId) (area number : DWord) : State :=
  let s1 := s.coxRecord x [slotOfFields [(0, 9), (4, x.hub), (7, x.ctx), (11, 1), (64, number.toNat)]]
  s1.addCkpt x area number ((s1.cox x).packets - 1) false

/-! ## ACT -/

/-- The action of the packet's current TYPE, its fields checked first (R312); PAD has no effect (log entry 36). -/
def State.act (s : State) (x : CoxId) : State :=
  let c := s.cox x
  let w := fun (i : Nat) => (c.packet[i]?).getD 0
  let len := hdrLen (w 0)
  let ty := hdrType (w 0)
  let bad := fun (u : State) => u.stopOp x 0x12 ty (u.packetVa x)
  match ty with
  | 0 => s.actComplete x
  | 1 =>
    if !launchGood c.packet then bad s
    else (s.modCox x (fun y => { y with state := 3, wait := .launch (parseLaunch c.packet) })).schedule (9 - s.now % 9) (.event (.launchAccept x))
  | 2 =>
    if len ≠ 5 || w 3 = 0 || 2 ^ 40 < (w 3).toNat || (w 4).toNat % 8 ≠ 0 then bad s
    else
      let k : Copy := { src := w 1, dst := w 2, left := (w 3).toNat, ctr := w 4, packet := c.packets - 1, packetVa := s.packetVa x }
      (s.modCox x (fun y => { y with copies := y.copies ++ [k], actDone := true })).copyNext x.hub
  | 3 => if len ≠ 3 || (w 1).toNat % 8 ≠ 0 then bad s else s.actAdd x (w 1) (w 2)
  | 4 =>
    if len ≠ 3 || (w 1).toNat % 8 ≠ 0 then bad s
    else (s.modCox x (fun y => { y with state := 3, wait := .counter (w 1) (w 2) })).inCycle s.cycle (.counterWaitSatisfied x)
  | 5 => if len ≠ 2 then bad s else s.actStep x (w 1)
  | 6 => if len ≠ 3 then bad s else s.actCheckpoint x (w 1) (w 2)
  | _ => bad s

/-- COX_ACT (R310): only the first ACT of a packet acts. -/
def execCoxAct (s : State) : Host.Outcome State Fault Refusal :=
  coxOp (fun x c s1 => if c.acted then s1 else (s1.modCox x (fun y => { y with acted := true })).act x) s

end Sys2Proof.Machine
end

