-- ==== Sys2Proof/Machine/Marchc.lean ====
section
/-!
DEFINITION. The self-test program `marchc` of R470, word for word: the listing of 26_fabric_boot_selftest.md laid out by the rules of the assembler (R86 lengths and
fetch blocks, R87 stall counts), from its kernel entry on.
-/
namespace Sys2Proof.Machine.Marchc

/-- An instruction with nothing set: no flag, no wait, the guard *always*. -/
def plain : Ops :=
  { len := .w64, flag := none, wait := 0, stall := 0, guard := ⟨0, 0, false⟩, vd := ⟨false, 0⟩, vs1 := ⟨false, 0⟩, vs2 := ⟨false, 0⟩, vs3 := ⟨false, 0⟩,
    vs4 := ⟨false, 0⟩, mod := 0, mod2 := 0, imm := 0 }

def v (n : BitVec 7) : Reg := ⟨false, n⟩
def k (n : BitVec 7) : Reg := ⟨true, n⟩

/-- The listing from byte 0x0. -/
def part0 : List Instr := [
  .movs { plain with len := .w64, flag := some 0, vd := v 1, vs1 := v 0 },
  .isetbI { plain with len := .w128, wait := 0x001, stall := 3, vd := v 14, vs1 := v 1, mod := 0x0D400, imm := 0x20 },
  .exit { plain with len := .w64, guard := ⟨14, 3, false⟩ },
  .shlI { plain with len := .w128, vd := v 2, vs1 := v 1, imm := 0x2 },
  .mov64I { plain with len := .w128, vd := v 24, imm := 0xFF00000000000000 },
  .movi { plain with len := .w96, stall := 1, vd := v 8, imm := 0x80 },
  .mov { plain with len := .w64, vd := v 9, vs1 := v 2 },
  .movi { plain with len := .w96, vd := v 13, imm := 0x2 },
  .call { plain with len := .w96, stall := 3, vd := v 20, imm := 0xA2 },
  .region { plain with len := .w64 },
  .movi { plain with len := .w96, vd := v 13, imm := 0x3 },
  .movi { plain with len := .w96, vd := v 7, imm := 0xFFFFFFFF }]

/-- The listing from byte 0x8C. -/
def part1 : List Instr := [
  .call { plain with len := .w96, stall := 3, vd := v 20, imm := 0x97 },
  .region { plain with len := .w64 },
  .movi { plain with len := .w96, vd := v 6, imm := 0xFFFFFFFF },
  .movi { plain with len := .w96, vd := v 7 },
  .nop { plain with len := .w64 },
  .call { plain with len := .w96, stall := 3, vd := v 20, imm := 0x8A },
  .region { plain with len := .w64 },
  .movi { plain with len := .w96, vd := v 6 },
  .movi { plain with len := .w96, vd := v 7, imm := 0xFFFFFFFF },
  .movi { plain with len := .w96, vd := v 8, imm := 0xFFFFFF80 },
  .nop { plain with len := .w64 },
  .iaddI { plain with len := .w96, vd := v 9, vs1 := v 2, imm := 0xFFF80 }]

/-- The listing from byte 0x10C. -/
def part2 : List Instr := [
  .call { plain with len := .w96, stall := 3, vd := v 20, imm := 0x77 },
  .region { plain with len := .w64 },
  .movi { plain with len := .w96, vd := v 6, imm := 0xFFFFFFFF },
  .movi { plain with len := .w96, vd := v 7 },
  .nop { plain with len := .w64 },
  .call { plain with len := .w96, stall := 3, vd := v 20, imm := 0x6A },
  .region { plain with len := .w64 },
  .movi { plain with len := .w96, vd := v 6 },
  .movi { plain with len := .w96, vd := v 8, imm := 0x80 },
  .mov { plain with len := .w64, vd := v 9, vs1 := v 2 },
  .movi { plain with len := .w96, vd := v 13, imm := 0x1 },
  .call { plain with len := .w96, stall := 3, vd := v 20, imm := 0x5A }]

/-- The listing from byte 0x18C. -/
def part3 : List Instr := [
  .region { plain with len := .w64 },
  .movi { plain with len := .w96, stall := 3, vd := v 30 },
  .mov { plain with len := .w64, guard := ⟨11, 0, false⟩, vd := v 30, vs1 := v 10 },
  .bitop { plain with len := .w128, stall := 3, vd := v 31, vs1 := v 11, vs2 := v 11, mod := 0x00C00, mod2 := 0x000020 },
  .nop { plain with len := .w64 },
  .setbit { plain with len := .w96, stall := 3, guard := ⟨31, 0, false⟩, vd := v 30, mod := 0x7C000 },
  .setbit { plain with len := .w96, guard := ⟨11, 1, false⟩, vd := v 30, mod := 0x78000 },
  .movs { plain with len := .w64, flag := some 2, vd := v 22, vs1 := v 15 },
  .movs { plain with len := .w64, flag := some 3, vd := v 23, vs1 := v 16 },
  .movi { plain with len := .w96, stall := 3, vd := v 29, imm := 0x60 },
  .imad { plain with len := .w96, wait := 0x00C, stall := 3, vd := v 28, vs1 := v 22, vs2 := v 29, vs3 := v 23 },
  .shlI { plain with len := .w96, stall := 3, vd := v 27, vs1 := v 28, imm := 0x8 }]

/-- The listing from byte 0x20C. -/
def part4 : List Instr := [
  .iadd { plain with len := .w64, stall := 3, vd := v 26, vs1 := v 27, vs2 := v 2 },
  .st { plain with len := .w96, vd := v 30, vs1 := k 0, vs2 := v 26, mod := 0x20000 },
  .movi { plain with len := .w96, stall := 3, vd := v 33 },
  .movi { plain with len := .w96, guard := ⟨11, 0, false⟩, vd := v 33, imm := 0x1 },
  .nop { plain with len := .w64 },
  .movi { plain with len := .w96, stall := 3, vd := v 35 },
  .setbit { plain with len := .w64, stall := 3, guard := ⟨31, 0, false⟩, vd := v 35 },
  .setbit { plain with len := .w96, guard := ⟨11, 1, false⟩, vd := v 35, mod := 0x04000 },
  .barSync { plain with len := .w96, mod := 0x00400 },
  .redux { plain with len := .w64, stall := 1, vd := v 34, vs1 := v 33 },
  .redux { plain with len := .w96, vd := v 36, vs1 := v 35, mod := 0x08000 },
  .elect { plain with len := .w64, stall := 2, vd := v 37, vs1 := v 0 }]

/-- The listing from byte 0x288. -/
def part5 : List Instr := [
  .mov { plain with len := .w64, stall := 3, vd := v 38, vs1 := v 34 },
  .setbit { plain with len := .w128, stall := 3, guard := ⟨36, 0, false⟩, vd := v 38, mod := 0x78000 },
  .setbit { plain with len := .w128, stall := 3, guard := ⟨36, 1, false⟩, vd := v 38, mod := 0x7C000 },
  .st { plain with len := .w128, guard := ⟨37, 0, false⟩, vd := v 38, vs1 := k 0, vs2 := v 27, mod := 0x20000, imm := 0xC0 },
  .red { plain with len := .w128, guard := ⟨37, 0, false⟩, vs1 := k 2, vs2 := v 34, mod := 0x00C00 },
  .red { plain with len := .w128, guard := ⟨37, 0, false⟩, vs1 := k 2, vs2 := v 36, mod := 0x00CA0, imm := 0x4 },
  .exit { plain with len := .w64 }]

/-- The listing from byte 0x2E8, label `elem`. -/
def part6 : List Instr := [
  .mov { plain with len := .w64, vd := v 3, vs1 := v 9 },
  .movi { plain with len := .w128, stall := 3, vd := v 4, imm := 0x2000 }]

/-- The listing from byte 0x300, label `e_loop`. -/
def part7 : List Instr := [
  .region { plain with len := .w64 },
  .ld { plain with len := .w96, flag := some 1, guard := ⟨13, 0, false⟩, vd := v 5, vs1 := v 24, vs2 := v 3, mod := 0x20000 },
  .isetb { plain with len := .w96, wait := 0x002, stall := 3, vd := v 14, vs1 := v 5, vs2 := v 6, mod := 0x00400 },
  .bitop { plain with len := .w96, vd := v 14, vs1 := v 14, vs2 := v 13, mod := 0x08000 },
  .region { plain with len := .w64 },
  .st { plain with len := .w96, guard := ⟨13, 1, false⟩, vd := v 7, vs1 := v 24, vs2 := v 3, mod := 0x20000 },
  .iadd { plain with len := .w64, vd := v 15, vs1 := v 3, vs2 := v 8 },
  .isubI { plain with len := .w96, vd := v 16, vs1 := v 4, imm := 0x1 },
  .shrI { plain with len := .w96, stall := 3, vd := v 12, vs1 := v 3, imm := 0x7 },
  .isetb { plain with len := .w96, stall := 3, vd := v 17, vs1 := v 12, vs2 := v 10, mod := 0x00400 },
  .bitop { plain with len := .w96, stall := 3, vd := v 17, vs1 := v 17, vs2 := v 11, mod := 0x04000 },
  .nop { plain with len := .w64 }]

/-- The listing from byte 0x380. -/
def part8 : List Instr := [
  .bitop { plain with len := .w128, vd := v 17, vs1 := v 17, vs2 := v 14, mod := 0x08000, mod2 := 0x000041 },
  .bitop { plain with len := .w128, stall := 3, vd := v 19, vs1 := v 11, vs2 := v 14, mod := 0x00400, mod2 := 0x000040 },
  .bitop { plain with len := .w128, vd := v 19, vs1 := v 11, vs2 := v 17, mod := 0x04400, mod2 := 0x000041 },
  .sel { plain with len := .w128, vd := v 18, vs1 := v 11, vs2 := v 10, vs3 := v 12 },
  .region { plain with len := .w64 },
  .mov { plain with len := .w64, vd := v 3, vs1 := v 15 },
  .mov { plain with len := .w64, vd := v 4, vs1 := v 16 },
  .mov { plain with len := .w64, vd := v 10, vs1 := v 18 },
  .mov { plain with len := .w64, stall := 1, vd := v 11, vs1 := v 19 },
  .isetbI { plain with len := .w128, stall := 3, vd := v 14, vs1 := v 4, mod := 0x04400 },
  .nop { plain with len := .w64 },
  .bra { plain with len := .w96, guard := ⟨14, 1, false⟩, imm := 0xFFFFFFC0 }]

/-- The listing from byte 0x40C. -/
def part9 : List Instr := [
  .ret { plain with len := .w64, vs1 := v 20 }]

/-- The kernel, from its entry. -/
def code : List Instr :=
  part0 ++ part1 ++ part2 ++ part3 ++ part4 ++ part5 ++ part6 ++ part7 ++ part8 ++ part9

/-- Its bytes in memory (R470). -/
def image : List Byte := wordsBytes (code.flatMap encode)

end Sys2Proof.Machine.Marchc
end

