-- ==== Sys2Proof/Machine/System.lean ====
section
/-!
DEFINITION. System instructions (R230 to R244, R398, R444): special registers, YIELD, TMARK, ENQ, CCTL and INVI.
-/
namespace Sys2Proof.Machine

/-! ## Special registers (R58, R61, R233) -/

/-- The PLACE records of a thread's crew in the ring of hub `h`, in their order (R331). -/
def State.placesAt (s : State) (t : TRef) (h : Nat) : List RRec :=
  let seq := ((s.launchOf t.g).map (fun l => l.seq)).getD 0
  (s.hub h).recd.replay.filter (fun r => r.kind == 5 && r.launch == seq && r.block == s.blockIndex t.block && r.crew == t.c)

/-- The identity that the recorded placement in force gave the thread, else the present one (R61): that of the last PLACE record before the
thread's present chunk. -/
def State.placeIdent (s : State) (t : TRef) : Word :=
  if recordMode (s.modesOf t.g) = 2 then
    let first := (List.range 6).findSome? (fun h => (s.placesAt t h).head?)
    let last := (s.chunkRec t).bind (fun c => ((s.placesAt t c.1).filter (fun r => r.index.toNat < c.2.index.toNat)).getLast?)
    (last.or first).elim (s.identOf t) (fun r => r.ident)
  else s.identOf t

/-- Bits of the resources that a crew owns. -/
def ownedBits (ns : List Nat) : Nat := ns.eraseDups.foldl (fun m n => m + 2 ^ n) 0

/-- The value of special register `n` for a lane of a pass (Table 2 of 10_system_instructions.md). -/
def State.sregValue (s : State) (p : Pass) (l : Lane) (n : Nat) : Nat :=
  let t := l.ref
  let co := s.coordsOf t.block
  match s.launchOf t.g, s.thread? t with
  | some la, some x =>
    let g := gangPlace la.p t.k
    let size := la.p.grows * la.p.gcols
    let id := s.placeIdent t
    (match n with
     | 0x00 => 128 * t.c + t.t
     | 0x01 => t.t
     | 0x02 => t.c
     | 0x03 => la.p.crews
     | 0x04 => co.1
     | 0x05 => co.2.1
     | 0x06 => co.2.2
     | 0x07 => la.p.x
     | 0x08 => la.p.y
     | 0x09 => la.p.z
     | 0x0A => t.k
     | 0x0B => if size = 0 then 0 else t.k / size
     | 0x0C => if size = 0 then 0 else g.1
     | 0x0D => if size = 0 then 0 else g.2.1
     | 0x0E => (id.extractLsb' 23 8).toNat
     | 0x0F => (id.extractLsb' 20 3).toNat
     | 0x10 => (id.extractLsb' 13 7).toNat
     | 0x11 => (id.extractLsb' 7 6).toNat
     | 0x12 => l.lane
     | 0x13 => 2 ^ p.lanes.length - 1
     | 0x14 => la.seq.toNat
     | 0x15 => la.p.modes.toNat
     | 0x16 => x.o.toNat
     | 0x17 => x.s.toNat
     | 0x18 => x.syncscope.toNat
     | 0x19 => l.t.flagz.toNat
     | 0x1A => ownedBits (((s.core (s.coreOf t.block)).slots.filter (fun y => y.owner == t.crew)).map (fun y => y.num))
     | 0x1B => ownedBits (((s.core (s.coreOf t.block)).accs.filter (fun y => y.owner == t.crew)).map (fun y => y.num))
     | 0x1C => x.regionPc.toNat
     | 0x1D => x.regionCount.toNat
     | 0x1E => x.trapvec.toNat
     | 0x1F => x.trapcause.toNat
     | 0x20 => x.trapaddr.toNat
     | 0x21 => x.trappc.toNat
     | 0x22 => s.time.toNat
     | 0x23 => s.cycle
     | _ => 0)
  | _, _ => 0

/-- Reads that the recorder logs (R61). -/
def loggedSreg (n : Nat) : Bool := n == 0x12 || n == 0x13 || n == 0x19 || n == 0x22 || n == 0x23

/-- Reads that wait for a read point (R233). -/
def waitsSreg (n : Nat) : Bool := n == 0x16 || n == 0x17 || n == 0x18 || n == 0x1A || n == 0x1B

/-- A logged read: its VALUE record in record mode, the recorded value in replay (R61, R452). -/
def State.logSreg (s : State) (t : TRef) (n v : Nat) : State × Nat :=
  if !loggedSreg n then (s, v)
  else if s.replays t.g then
    let pc := ((s.thread? t).map (fun x => x.pc)).getD 0
    match s.chunkOwn t 3 with
    | some r =>
      if r.2.sreg = n then (s.modRRec r.1 r.2.index (fun y => { y with complete := true }), r.2.value.toNat)
      else (s.divergeAt t 3 1 pc r.2.value (BitVec.ofNat 64 v) (own := some r.2), v)
    | none => (s.divergeAt t 3 3 pc 0 (BitVec.ofNat 64 v), v)
  else
    let c := s.coreOf t.block
    (s.putOne t.g (c / 96) true [slotOfFields [(0, 3), (4, c % 96), (11, s.slotOf t.crew), (17, t.t), (24, n), (64, v % 2 ^ 64)]], v)

/-- A CCTL of one line: it is a reader, so an update-only line is merged and converted first (R243, R254), and no fault comes of that (R409); what the core's copy
holds goes to its home, and `inv` drops the copy too. -/
def State.cctlLine (s : State) (core : Nat) (inv : Bool) (l : LineId) : State :=
  let s1 := if (s.uoKind l).isSome then (s.convertLine l).1 else s
  if inv then s1.dropL1 core l else s1.writeBack core l

/-- The line that holds a global address, where it translates (R243). -/
def State.cctlTarget (s : State) (t : TRef) (a : DWord) : Option LineId :=
  match s.resolve (s.asker t) a with
  | .inr (.global, .va none va) => (match s.translate (some (s.coreOf t.block)) (s.asidOf t.g) va 0 with
    | .inr (pa, _) => (lineOf pa).map (fun x => x.1)
    | .inl _ => none)
  | _ => none

/-- An earlier access of the thread to the line that a CCTL names is over; for `.wball` and `.invall`, every earlier global one (R243). -/
def State.cctlReady (s : State) (t : TRef) (p : Pend) (op : Nat) (a : DWord) : Bool :=
  let line := if 2 ≤ op then none else s.cctlTarget t a
  (((s.thread? t).map (fun x => x.pend)).getD []).all (fun q => !(q.seq < p.seq) || !(q.todo.any (fun b => match s.placeOf t b with
    | .inr (.phys pa _) => 2 ≤ op || ((lineOf pa).map (fun x => x.1) == line && line.isSome)
    | _ => false)))

/-- Performs a CCTL of a thread on its core's L1 (R243). -/
def State.cctlDo (s : State) (t : TRef) (op : Nat) (a : DWord) : State :=
  let core := s.coreOf t.block
  if 2 ≤ op then ((s.core core).l1.map (fun x => x.line)).foldl (fun (u : State) l => u.cctlLine core (op % 2 = 1) l) s
  else match s.cctlTarget t a with
    | some l => s.cctlLine core (op % 2 = 1) l
    | none => s

/-- Performs a waiting CCTL where its earlier accesses are over; it completes once its write-backs are acknowledged, after a free latency. -/
def State.cctlTry (s : State) (t : TRef) (id : Nat) : State :=
  match (s.thread? t).bind (fun x => x.pend.find? (fun p => p.id == id)) with
  | none => s
  | some p => match p.cctl with
    | none => s
    | some c =>
      if !s.stands t.g || !s.cctlReady t p c.1 c.2 then s.again (.resultWritten t id)
      else ((s.cctlDo t c.1 c.2).modThread t (fun y => { y with pend := y.pend.map (fun (z : Pend) => if z.id = id then { z with cctl := none } else z) })).soon
        (.resultWritten t id)

/-- The invalidation of an INVI is complete: its thread goes on (R244). -/
def Thread.invalDone (t : Thread) (id : Nat) : Thread := if t.wait = .inval id then { t with wait := .none } else t

/-- RESULT_WRITTEN (R138, R234): a variable-latency result reaches its registers and its flag falls; a MOVS at a read point reads first, a MOVSW
that waits for earlier acquires clears STICKY, and a CCTL that waits is performed. A MOVS at a read point of a group that does not stand on its cores reads once
it does. -/
def execResultWritten (t : TRef) (id : Nat) (s : State) : Host.Outcome State Fault Refusal :=
  match (s.thread? t).bind (fun x => x.pend.find? (fun p => p.id == id)) with
  | none => .next s
  | some p =>
    match p.sreg, s.thread? t with
    | some q, some x =>
      if !s.stands t.g || !s.sregReady t p q.1 then .next (s.again (.resultWritten t id))
      else if q.1 = 0x80 then
        .next (s.modThread t (fun y => { y with syncscope := y.syncscope &&& ~~~(1 : Word), pend := y.pend.filter (fun z => z.id != id) }))
      else
        let l : Lane := { ref := t, lane := p.lane, t := x, exec := true, src := { a := 0, b := 0, c := 0, e := 0, d := 0, poisoned := false } }
        let v := s.sregValue { crew := t.crew, lanes := [], pc := x.pc, num := p.pass, defer := false, collective := false } l q.1
        let ws := resultWords q.2 (sregWidth q.1) v
        let s1 := s.modThread t (fun y => { y with pend := y.pend.map (fun (z : Pend) =>
          if z.id = id then { z with sreg := none, writes := if q.2.crew then [] else ws, kwrites := if q.2.crew then ws else [] } else z) })
        .next ((s1.completePend t id).sampleDone t.crew)
    | _, _ => if p.cctl.isSome then .next (s.cctlTry t id)
      else .next (((s.completePend t id).modThread t (fun y => y.invalDone id)).sampleDone t.crew)

def execMovs (o : Ops) (s : State) : Host.Outcome State Fault Refusal :=
  runPass 0x1C8 o noFaults (fun e ls s1 =>
    let n := o.vs1.num.toNat
    ls.foldl (fun (u : State) l =>
      if waitsSreg n then
        let k := u.serial
        (({ u with serial := k + 1 }.modThread l.ref (fun t =>
          { t with pend := t.pend ++ [{ Pend.plain k e.pass.num l.t.issued l.lane o.flag with sreg := some (n, o.vd) }] })).schedule 0 (.event (.resultWritten l.ref k)))
      else
        let r := u.logSreg l.ref n (u.sregValue e.pass l n)
        r.1.addLate e o l [⟨o.vd, sregWidth n, r.2⟩] false) s1) s

/-- ROWRITE (R398). -/
def movswFaults (o : Ops) (_ : Env) (_ : Lane) : List IssueFault :=
  let n := o.vd.num.toNat
  if n = 0x18 || (0x1E ≤ n && n ≤ 0x21) then [] else [class1 5 n 0]

/-- MOVSW's effect (R235). $trapcause takes the written value but for bits 13:12, which R375 reserves: a write of a reserved bit is ignored (R11; DEDUCED, log
entry 72). -/
def Thread.writeSreg (t : Thread) (n : Nat) (v : DWord) : Thread :=
  match n with
  | 0x18 => if v.getLsbD 0 then { t with syncscope := t.syncscope &&& ~~~(1 : Word) } else t
  | 0x1E => { t with trapvec := v &&& ~~~(3 : DWord) }
  | 0x1F => { t with trapcause := v.extractLsb' 0 32 &&& ~~~(0x3000 : Word) }
  | 0x20 => { t with trapaddr := v }
  | 0x21 => { t with trappc := v }
  | _ => t

/-- A MOVSW that clears STICKY behind an acquire of its thread that is not over waits for it (R60). -/
def State.clearLater (s : State) (e : Env) (l : Lane) : State :=
  let n := s.serial
  (({ s with serial := n + 1 }.modThread l.ref (fun t =>
    { t with pend := t.pend ++ [{ Pend.plain n e.pass.num l.t.issued l.lane none with sreg := some (0x80, ⟨false, 0⟩) }] }))).again (.resultWritten l.ref n)

def execMovsw (o : Ops) (s : State) : Host.Outcome State Fault Refusal :=
  runPass 0x1C9 o (movswFaults o) (fun e ls s1 =>
    let n := o.vd.num.toNat
    let waits := fun (l : Lane) => n == 0x18 && l.src.a % 2 == 1 && l.t.pend.any (fun q => q.access && q.acquire)
    let s2 := s1.onLanes (ls.filter (fun l => !waits l)) (fun l t => t.writeSreg n (BitVec.ofNat 64 l.src.a))
    ((ls.filter waits).foldl (fun (u : State) l => u.clearLater e l) s2).flagPends e o ls 1) s

/-! ## YIELD and TMARK (R236, R239) -/

/-- A group with a yield request that has not been answered (R290). -/
def State.yieldPending (s : State) (g : Nat) : Bool := ((s.group? g).map (fun x => x.st == .requested && x.deadline.isSome)).getD false

def execYield (o : Ops) (s : State) : Host.Outcome State Fault Refusal :=
  runPass 0x1CA o noFaults (fun e ls s1 =>
    let acts := modField o.mod 13 13 = 0 || s1.yieldPending e.pass.crew.g
    let s2 := if acts then
        ls.foldl (fun (u : State) l => (u.modThread l.ref (fun t => { t with yielded := some e.cyc })).atCycle (e.cyc + 2048) (.yieldExpiry l.ref)) s1
      else s1
    s2.flagPends e o ls 1) s

/-- YIELD_EXPIRY (R236): 2,048 cycles after it yielded, a thread is no longer yielded. -/
def execYieldExpiry (t : TRef) (s : State) : Host.Outcome State Fault Refusal :=
  .next (s.modThread t (fun x => match x.yielded with
    | some c => if c + 2048 ≤ s.cycle then { x with yielded := none } else x
    | none => x))

def execTmark (o : Ops) (s : State) : Host.Outcome State Fault Refusal :=
  runPass 0x1CB o noFaults (fun e ls s1 =>
    let s2 := match ls with
      | l :: _ =>
        if traceOn e.modes then
          s1.tracePacket e.pass.crew e.pass.pc true false (fun st _ => passPacket 3 e.pass.lanes st 0 [] (leBytes 4 (l.src.a % 2 ^ 32)))
        else s1
      | [] => s1
    s2.flagPends e o ls 1) s

/-! ## ENQ (R241, R242, R444) -/

/-- One of ENQ's accesses. -/
def enqAccess (kind : AccKind) (pc ea : DWord) (size scope : Nat) : Access :=
  { kind := kind, pc := pc, ea := ea, size := size, scope := scope, data := 0, dest := [], ldt := none }

/-- Takes an ENQ off its thread with a region fault. -/
def State.enqFault (s : State) (t : TRef) (p : Pend) (pc addr : DWord) (cause : Word) : State :=
  ((s.modThread t (fun x => { x with wait := .none })).dropPend t p.id).standFault t
    { how := .region, order := p.seq, cause := cause, addr := addr, pc := pc, rpc := p.rpc, rcount := p.rcount, queue := none }

/-- The plain stores of an ENQ and its publication, word by word, in the crew's digest (R242, R336; log entry 16). -/
def State.digestWords (s : State) (t : TRef) (ea : DWord) (bs : List Byte) : State :=
  (List.range (bs.length / 8)).foldl (fun (u : State) i => u.addDigest t (ea + BitVec.ofNat 64 (8 * i)) 8 ((bs.drop (8 * i)).take 8)) s

def AccKind.stores (k : AccKind) : Bool := match k with | .store _ => true | _ => false

/-- One access of a thread, performed at once; none where it has given a fault instead. -/
def State.threadDo (s : State) (t : TRef) (p : Pend) (a : Access) (align : Nat) (ok : Ap → Bool) (bytes : List Byte) (v : Nat) :
    State × Option (List Byte) :=
  match s.locate (s.asker t) a.ea a.size align a.kind.need ok false with
  | .inl f => (s.enqFault t p a.pc a.ea (mkCause 2 f.code (f.detail + a.kind.detail) false true), none)
  | .inr pl =>
    let core := s.coreOf t.block
    match s.locOf pl core a.scope a.kind with
    | none => (s, none)
    | some (loc, off) =>
      let rd := s.prepare loc (some core) (s.slotOf t.crew / 16) a.kind
      match rd.st.thread? t with
      | none => (s, none)
      | some x =>
        let l : Lact := ⟨t, p, a, pl⟩
        let r := { rd.st.reqOf l x off with bytes := bytes, v := v }
        if rd.poisonedAt loc (s.hitAt loc) r then
          (rd.st.enqFault t p a.pc a.ea (mkCause 2 8 (16 * rd.st.badUnit loc + a.kind.detail) false true), none)
        else if rd.ovf then (rd.st.enqFault t p a.pc a.ea (mkCause 2 9 a.kind.detail false true), none)
        else
          let w := rd.st.threadRaces (rd.st.stampAt loc) [(l, r)]
          if w.2.isEmpty then (w.1.modThread t (fun y => { y with wait := .none }), none)
          else
            let g := w.1.performGroup loc (some core) rd.converted (w.2.map (fun q => q.2))
            let s1 := g.1.commitClks (g.2.map (fun q => ⟨t, q.clk, p.seq, a.pc⟩))
            (if a.kind.stores then s1.digestWords t a.ea bytes else s1, (g.2.head?).map (fun q => q.old))

def onGlobal (ap : Ap) : Bool := ap == .global

/-- Reads or writes a run of bytes for an ENQ, line by line. -/
def State.enqRead (s : State) (t : TRef) (p : Pend) (pc ea : DWord) (n : Nat) (ok : Ap → Bool) : State × Option (List Byte) :=
  (piecesOf ea.toNat n).foldl (fun (w : State × Option (List Byte)) q =>
    match w.2 with
    | none => w
    | some got =>
      let r := w.1.threadDo t p (enqAccess (.load false false) pc (BitVec.ofNat 64 q.1) q.2 0) 8 ok [] 0
      (r.1, r.2.map (fun bs => got ++ bs))) (s, some [])

def State.enqWrite (s : State) (t : TRef) (p : Pend) (pc ea : DWord) (bs : List Byte) : State × Bool :=
  (piecesOf ea.toNat bs.length).foldl (fun (w : State × Bool) q =>
    if !w.2 then w
    else
      let r := w.1.threadDo t p (enqAccess (.store false) pc (BitVec.ofNat 64 q.1) q.2 3) 8 onGlobal ((bs.drop (q.1 - ea.toNat)).take q.2) 0
      (r.1, r.2.isSome)) (s, true)

/-- An ENQ of a thread: its operation, packet image, result pair, whether it blocks, and the thread's region before it ($regionpc, $regioncount, and whether a new
one begins). -/
structure EnqIn where
  ref : TRef
  pend : Nat
  packet : DWord
  dest : BitVec 7
  nb : Bool
  region : DWord × Word × Bool
  deriving DecidableEq, Repr

def State.pendOf (s : State) (t : TRef) (id : Nat) : Option Pend := (s.thread? t).bind (fun x => x.pend.find? (fun p => p.id == id))

/-- What ENQ finds wrong with its handle or image (R444). -/
def enqBad (h : Handle) (n : Nat) : Option Nat :=
  if h.log < 9 || 21 < h.log then some 1 else if 5 < h.hub then some 2 else if n = 0 || 512 < n then some 3
  else if h.size < n then some 4 else if h.base.toNat % 4096 ≠ 0 then some 5 else none

/-- LEN in the header of an ENQ's image. -/
def State.imageLen (s : State) (t : TRef) (packet : DWord) : AFault ⊕ Nat :=
  match s.locate (s.asker t) packet 8 8 0 (fun ap => ap == .global || ap == .own) false with
  | .inl f => .inl f
  | .inr pl => match s.locOf pl (s.coreOf t.block) 0 (.load false false) with
    | some (loc, off) =>
      let rd := s.prepare loc (some (s.coreOf t.block)) (s.slotOf t.crew / 16) (.load false false)
      let r : Req := { id := s.identOf t, kind := .load false false, off := off, size := 8, scope := 0, bytes := [], v := 0, w := 0, pc := 0, clk := unitClk 0 0 0,
                       engine := false }
      if rd.poisonedAt loc (s.hitAt loc) r then .inl ⟨8, 16 * rd.st.badUnit loc⟩
      else if rd.ovf then .inl ⟨9, 0⟩
      else .inr (hdrLen (BitVec.ofNat 64 (leNat (rd.st.readAt loc off 8))))
    | none => .inl (apertureFault 8)

/-- The result is in hand: the flag falls when it is written. -/
def State.enqResult (s : State) (t : TRef) (id : Nat) (dest : BitVec 7) (v : DWord) : State :=
  (s.modThread t (fun x =>
    { x with wait := .none, pend := x.pend.map (fun (q : Pend) =>
        if q.id = id then { q with writes := (groupRegs dest 2).mapIdx (fun i r => (r, wordAtIdx v.toNat i)) } else q) })).soon (.resultWritten t id)

/-- The reserved words are filled: PAD header and image; then the thread waits to publish. The words of a PAD packet behind its header, which nothing reads (R300),
stay as they are (DESIGN CHOICE, log entry 72). -/
def State.enqFill (s : State) (x : EnqIn) (p : Pend) (pc handle : DWord) (h : Handle) (start : DWord) (pad n : Nat) : State :=
  let s1 := if pad = 0 then (s, true) else s.enqWrite x.ref p pc (h.wordVa start.toNat) (leBytes 8 (256 * pad))
  if !s1.2 then s1.1
  else
    let img := s1.1.enqRead x.ref p pc x.packet (8 * n) (fun ap => ap == .global || ap == .own)
    match img.2 with
    | none => img.1
    | some bs =>
      let w := img.1.enqWrite x.ref p pc (h.wordVa (start.toNat + pad)) bs
      if !w.2 then w.1
      else
        let v := start + BitVec.ofNat 64 pad
        (w.1.modThread x.ref (fun t => { t with wait := .enqPub pc handle start (v + BitVec.ofNat 64 n) v x.dest x.pend })).soon (.enqPublish x.ref)

/-- What the lanes of a group find before the access: the LEN of each image, or its fault. -/
def State.enqChecked (s : State) (pc handle : DWord) (h : Handle) (xs : List EnqIn) : State × List (EnqIn × Pend × Nat) :=
  xs.foldl (fun (w : State × List (EnqIn × Pend × Nat)) x =>
    match w.1.pendOf x.ref x.pend with
    | none => w
    | some p => match w.1.imageLen x.ref x.packet with
      | .inl f => (w.1.enqFault x.ref p pc x.packet (mkCause 2 f.code f.detail false true), w.2)
      | .inr n => match enqBad h n with
        | some d => (w.1.enqFault x.ref p pc handle (mkCause 4 6 d false true), w.2)
        | none => (w.1, w.2 ++ [(x, p, n)])) (s, [])

/-- The reservation of one lane: RESV before, pad words, and RESV after; none where there is no room. -/
def enqRoom (h : Handle) (resv n : Nat) : Option (Nat × Nat) :=
  let pad := if h.size < resv % h.size + n then h.size - resv % h.size else 0
  if h.size < resv + pad + n - h.read.toNat then none else some (pad, resv + pad + n)

/-- The lanes of a pass that name one handle reserve in one access, in lane order (R242). -/
def State.enqReserve (s : State) (pc handle : DWord) (xs : List EnqIn) : State :=
  match xs with
  | [] => s
  | x0 :: _ =>
    let each := fun (u : State) (cause : Word) => xs.foldl (fun (v : State) x => match v.pendOf x.ref x.pend with
      | some p => v.enqFault x.ref p pc handle cause
      | none => v) u
    match s.locate (s.asker x0.ref) handle 64 64 2 onGlobal false with
    | .inl f => each s (mkCause 2 f.code (f.detail + 2) false true)
    | .inr pl => match s.locOf pl (s.coreOf x0.ref.block) 3 (.atom 7 8 false false) with
      | none => s
      | some (loc, off) =>
        let core := s.coreOf x0.ref.block
        let kind : AccKind := .atom 7 8 false false
        let rd := s.prepare loc (some core) (s.slotOf x0.ref.crew / 16) kind
        let a := enqAccess kind pc (handle + 8) 8 3
        let bs := rd.st.readAt loc off 64
        let h := handleOf bs
        let good := rd.st.enqChecked pc handle h xs
        if (match loc with | .home l => (rd.st.homeLine l).bad.isSome | _ => false) then each rd.st (mkCause 2 8 (16 * rd.st.badUnit loc + 2) false true)
        else if rd.ovf then each rd.st (mkCause 2 9 2 false true)
        else
          let reqs := good.2.filterMap (fun g => (good.1.thread? g.1.ref).map (fun t =>
            ((⟨g.1.ref, g.2.1, a, pl⟩ : Lact), good.1.reqOf ⟨g.1.ref, g.2.1, a, pl⟩ t (off + 8))))
          let w := good.1.threadRaces (good.1.stampAt loc) reqs
          let live := good.2.filter (fun g => w.2.any (fun q => q.1.ref == g.1.ref))
          let resv0 := leNat ((bs.drop 8).take 8)
          let plan := live.foldl (fun (acc : Nat × List ((EnqIn × Pend × Nat) × Nat × Option Nat × Nat)) g =>
            match enqRoom h acc.1 g.2.2 with
            | some r => (r.2, acc.2 ++ [(g, acc.1, some r.1, r.2)])
            | none => (acc.1, acc.2 ++ [(g, acc.1, none, acc.1)])) (resv0, [])
          let rs := w.2.filterMap (fun q => (plan.2.find? (fun z => z.1.1.ref == q.1.ref)).map (fun z => { q.2 with v := z.2.2.2 }))
          let g := w.1.performGroup loc (some core) rd.converted rs
          let s2 := g.1.commitClks ((w.2.zip g.2).map (fun d => ⟨d.1.1.ref, d.2.clk, d.1.1.p.seq, pc⟩))
          plan.2.foldl (fun (u : State) z =>
            let x := z.1.1
            match z.2.2.1 with
            | some pad => u.enqFill x z.1.2.1 pc handle h (BitVec.ofNat 64 z.2.1) pad z.1.2.2
            | none =>
              if x.nb then u.enqResult x.ref x.pend x.dest (BitVec.allOnes 64)
              else (u.modThread x.ref (fun t => { t with wait := .enqRoom pc handle x.packet x.dest h.read x.pend x.region })).again (.enqRetry x.ref)) s2

/-- Handles that the lanes name, each once. -/
def execEnq (o : Ops) (s : State) : Host.Outcome State Fault Refusal :=
  runPass 0x1CC o noFaults (fun e ls s1 =>
    let r := ls.foldl (fun (u : State × List (DWord × EnqIn)) l =>
      let n := u.1.serial
      let r := l.t.regionAt e.pass.pc e.row.ends
      let p := { Pend.plain n e.pass.num l.t.issued l.lane o.flag with access := true, rpc := r.1, rcount := r.2 }
      ({ u.1 with serial := n + 1 }.modThread l.ref (fun t => { t with pend := t.pend ++ [p] }),
       u.2 ++ [(BitVec.ofNat 64 l.src.a, ⟨l.ref, n, BitVec.ofNat 64 l.src.b, o.vd.num, modField o.mod 13 13 = 1, (l.t.regionPc, l.t.regionCount, l.t.regionNew)⟩)])) (s1, [])
    let handles := (r.2.map (fun x => x.1)).eraseDups
    (handles.foldl (fun (u : State) h => u.enqReserve e.pass.pc h ((r.2.filter (fun x => x.1 == h)).map (fun x => x.2))) r.1).pokeFaults
      (ls.map (fun l => l.ref))) s

/-- ENQ_RETRY: READ has changed, and the reservation is tried again. -/
def execEnqRetry (t : TRef) (s : State) : Host.Outcome State Fault Refusal :=
  match s.thread? t with
  | none => .next s
  | some x =>
    match x.wait with
    | .enqRoom pc handle packet dest seen pend region =>
      match s.peekHandle (s.asidOf t.g) handle with
      | some h =>
        if h.read = seen then .next (s.again (.enqRetry t))
        else .next ((s.enqReserve pc handle [⟨t, pend, packet, dest, false, region⟩]).pokeFaults [t])
      | none => .next ((s.enqReserve pc handle [⟨t, pend, packet, dest, false, region⟩]).pokeFaults [t])
    | _ => .next s

/-- ENQ_PUBLISH: WRITE has come to the reservation; it moves past it as ST.rel.dev, and the serving context wakes. -/
def execEnqPublish (t : TRef) (s : State) : Host.Outcome State Fault Refusal :=
  match s.thread? t with
  | none => .next s
  | some x =>
    match x.wait with
    | .enqPub pc handle start next result dest pend =>
      match s.pendOf t pend, s.peekHandle (s.asidOf t.g) handle with
      | some p, some h =>
        if h.write != start then .next (s.again (.enqPublish t))
        else
          let s1 := s.releaseL1 (s.coreOf t.block)
          let w := s1.threadDo t p (enqAccess (.store true) pc (handle + 16) 8 3) 8 onGlobal (leBytes 8 next.toNat) 0
          (match w.2 with
           | none => .next (w.1.pokeFaults [t])
           | some _ => .next ((w.1.enqResult t pend dest result).coxLook ⟨h.hub, h.ctx⟩))
      | some p, none =>
        .next ((s.enqFault t p pc handle (mkCause 2 4 0 false true)).pokeFaults [t])
      | none, _ => .next (s.modThread t (fun y => { y with wait := .none }))
    | _ => .next s

/-! ## CCTL and INVI (R243, R244) -/

/-- CCTL (R243): each lane is performed now, or once its thread's earlier accesses are over. -/
def execCctl (o : Ops) (s : State) : Host.Outcome State Fault Refusal :=
  runPass 0x1CE o noFaults (fun e ls s1 =>
    let op := modField o.mod 16 14
    ls.foldl (fun (u : State) l =>
      let n := u.serial
      ({ u with serial := n + 1 }.modThread l.ref (fun t =>
        { t with pend := t.pend ++ [{ Pend.plain n e.pass.num l.t.issued l.lane o.flag with cctl := some (op, BitVec.ofNat 64 l.src.a) }] })).cctlTry l.ref n) s1) s

/-- A fetch block overlaps a range of `n` bytes. -/
def blockMeets (b : ILine) (lo n : Nat) : Bool := b.va.toNat < lo + n && lo < b.va.toNat + 32

/-- INVI (R244): the thread waits until the invalidation is complete, after a free latency, and its flag falls then. -/
def execInvi (o : Ops) (s : State) : Host.Outcome State Fault Refusal :=
  runPass 0x1CF o noFaults (fun e ls s1 =>
    let asid := s1.asidOf e.pass.crew.g
    let s2 := ls.foldl (fun (u : State) l =>
      let n := l.src.b % 2 ^ 32
      u.modCore e.core (fun c => { c with icache :=
        if n = 0 then [] else c.icache.filter (fun b => !(b.asid == asid && blockMeets b (l.src.a % 2 ^ 64) n)) })) s1
    ls.foldl (fun (u : State) l =>
      let n := u.serial
      ({ u with serial := n + 1 }.modThread l.ref (fun t =>
        { t with pend := t.pend ++ [Pend.plain n e.pass.num l.t.issued l.lane o.flag], wait := .inval n })).soon (.resultWritten l.ref n)) s2) s

end Sys2Proof.Machine
end

