-- ==== Sys2Proof/Machine/Debug.lean ====
section
/-!
DEFINITION. Debug stops (R240, R342 to R346): the stop of a block at a boundary (R291, R343), stop records, triggers, BKPT and
watchpoints.
-/
namespace Sys2Proof.Machine

/-! ## Instruction boundaries (R291, R343) -/

/-- Two accesses of one pass stand or fall together: those on one line or one line of another package (R168), and all of an LDT (R357). -/
def State.mates (s : State) (core : Nat) (a b : Access) (p q : Place) : Bool :=
  a.ldt.isSome || (match p, q with
    | .peer c v, .peer d w => c == d && v / 128 == w / 128
    | .peer _ _, _ => false
    | _, .peer _ _ => false
    | _, _ => (s.locOf p core a.scope a.kind).map (fun l => l.1) == (s.locOf q core b.scope b.kind).map (fun l => l.1))

/-- An operation of a thread that cannot go on while the engines stand (log entry 40): an access that an engine operation holds (R170, R229) or that stands behind such
a one, it or one of its pass with which it is performed; a CCTL behind such an access (R243); a MOVS or MOVSW whose read point has not come (R60, R233). -/
def State.pendHeld (s : State) (t : TRef) (p : Pend) : Bool :=
  match p.sreg, p.cctl, p.todo with
  | some r, _, _ => !s.sregReady t p r.1
  | none, some c, _ => !s.cctlReady t p c.1 c.2
  | none, none, some a => (match s.placeOf t a with
    | .inl _ => false
    | .inr pl => p.peer.isNone && (s.passActs t.crew p.pass).any (fun q => match s.placeOf q.1 q.2.2 with
      | .inr r => s.mates (s.coreOf t.block) a q.2.2 pl r && (!(s.holders q.2.2 r).isEmpty || s.orderBlocked q.1 q.2.1 q.2.2 r)
      | .inl _ => false))
  | none, none, none => false

/-- Everything that stops at a boundary has come to it (R291): issued accesses are performed and checked, results written, accepted products finished, and the
engines at the end of their chunks. What stands behind an engine operation, which stops at the end of its chunk, stays under way (R229; log entry 40). -/
def State.blockStill (s : State) (b : BRef) (x : Block) : Bool :=
  let ops := (s.core x.core).ops.filter (fun o => o.crew.block == b)
  let engine := ops.map (fun o => o.id) ++ x.cmds.map (fun c => c.id)
  !ops.any (fun o => o.accepted)
  && !s.peerOut.any (fun q => q.cox.isNone && q.who.block == b && x.cmds.any (fun c => c.id == q.pend))
  && !s.peerChunks.any (fun p => p.b == b)
  && !x.cmds.any (fun c => c.op == 4 && c.slices.any (fun y => s.l3.any (fun h => h.staged.any (fun t => t.1 == chunkKey s c y (y.pos / y.chunkElems)))))
  && (x.allCrews b).all (fun c =>
    (c.2.allThreads c.1).all (fun (t : TRef × Thread) =>
      (t.2.faults.isEmpty || t.2.haltFault.isSome || !t.2.settled)
      && t.2.pend.all (fun (p : Pend) =>
        engine.contains p.id || (match t.2.wait with
          | .bar _ _ n => n == p.id
          | _ => false)
        || s.pendHeld t.1 p)))

/-! ## Stop records (R346) -/

/-- Bits 4g+3:4g of the stroke pointers. -/
def strokeWord (rs : List Ring) : Nat := (rs.mapIdx (fun g (r : Ring) => r.stroke.toNat * 16 ^ g)).foldl (· + ·) 0

/-- PC bits 31:0 of the lowest thread of crew 0 that has not exited. -/
def lowPc (x : Block) : Nat :=
  (((x.crews.head?).bind (fun c => c.threads.find? (fun t => !t.exited))).map (fun t => t.pc.toNat % 2 ^ 32)).getD 0

def sminList (a : Word) (l : List Word) : Word := l.foldl smin a

/-- What a stop is: its cause, N, and the stopping pass with its hits. -/
structure StopInfo where
  cause : Nat
  n : Nat
  crew : Option Nat
  hits : Nat
  mask : Nat
  pc : DWord
  ea : DWord
  deriving DecidableEq, Repr

/-- A stop that no pass of the block brought about. -/
def StopInfo.from (cause : Nat) : StopInfo := ⟨cause, 0, none, 0, 0, 0, 0⟩

/-- The 128 bytes of a stop record (Table 2 of 16_debug_trace_profiling.md). -/
def State.stopBytes (s : State) (b : BRef) (i : StopInfo) : List Byte :=
  match s.block? b, s.group? b.g, s.launchOf b.g with
  | some x, some g, some l =>
    let ts := x.crews.flatMap (fun (c : Crew) => c.threads)
    let os := ts.map (fun (t : Thread) => t.o)
    leBytes 1 i.cause ++ leBytes 1 i.n ++ leBytes 1 (i.crew.getD 0xFF) ++ leBytes 1 0 ++ leBytes 4 i.hits ++ leBytes 8 l.seq.toNat
      ++ leBytes 8 (s.blockIndex b) ++ leBytes 8 s.time.toNat ++ leBytes 16 i.mask ++ leBytes 8 i.pc.toNat ++ leBytes 8 i.ea.toNat
      ++ x.bars.flatMap (fun (r : Barrier) => leBytes 2 r.phase.toNat) ++ leBytes 4 (strokeWord x.rings) ++ leBytes 4 (lowPc x)
      ++ g.bars.flatMap (fun (r : Barrier) => leBytes 1 r.phase.toNat) ++ leBytes 4 (sminList (os.headD 0) os).toNat
      ++ leBytes 4 (smaxList (os.headD 0) os).toNat
      ++ leBytes 4 (smaxList ((ts.head?).elim 0 Thread.s) (ts.map (fun (t : Thread) => t.s))).toNat ++ leBytes 4 0
  | _, _, _ => []

/-! ## Triggers (R342 to R344) -/

/-- A block latches: nothing of it issues from now on, and its record is written when it has come to its boundary. A fault's halt writes
none (R387). -/
def State.latchBlock (s : State) (b : BRef) (i : Option StopInfo) : State :=
  match s.block? b with
  | none => s
  | some x =>
    if x.ended || x.stop != .run then s
    else
      let u := s.unwindBlock b
      (u.modBlock b (fun y => { y with stop := .latched ((i.map (u.stopBytes b)).getD []) })).soon (.stopRecordWrite b)

/-- The trigger reaches core `n`: every running block of the debugged context latches. -/
def State.triggerCore (s : State) (n cause : Nat) : State :=
  (s.debugged.filter (fun b => b.2.core == n)).foldl (fun (u : State) b => u.latchBlock b.1 (some (StopInfo.from cause))) s

/-- A cross-trigger is on its way to a core. -/
def State.triggerFlies (s : State) : Bool := s.agenda.any (fun (t : Turn) => match t.act with
  | .event (.debugTrigger _) => true
  | _ => false)

/-- A trigger is over once it has reached every core and, a RESUME having come before, not every block has stopped for it: what is placed later does not stop, and
the next trigger has its own cause (R344). -/
def State.endTrigger (s : State) : State :=
  if s.dbg.trigger.isSome && !s.triggerFlies && s.debugged.any (fun b => b.2.stop == .run) then { s with dbg := { s.dbg with trigger := none } } else s

/-- A trigger arises (R342): the stopping block latches at once, the rest of its core behind the passes of this cycle, which may name causes of
their own (R344), and then every core and chip that the network reaches. -/
def State.raiseTrigger (s : State) (own : Option (BRef × StopInfo)) (cause : Nat) (chips : Bool) : State :=
  let s1 := match own with
    | some b => (s.latchBlock b.1 (some b.2)).inCycle s.cycle (.debugTrigger (s.coreOf b.1))
    | none => s
  let s2 := { s1 with dbg := { s1.dbg with trigger := some (s1.dbg.trigger.getD cause) } }
  let cores := ((s2.debugged.filter (fun b => b.2.stop == .run && some b.2.core != own.map (fun o => s.coreOf o.1))).map (fun b => b.2.core)).eraseDups
  (s2.crossTrigger cores chips .none).checkHalted

/-- DEBUG_TRIGGER (R343, R387): the cross-trigger reaches a core. -/
def execDebugTrigger (core : Nat) (s : State) : Host.Outcome State Fault Refusal :=
  let s1 := match s.dbg.trigger with
    | some c => s.triggerCore core c
    | none => s
  let stopped := s1.allBlocks.filter (fun b => b.2.core == core && !b.2.ended && (s1.asid (s1.asidOf b.1.g)).halt)
  .next (stopped.foldl (fun (u : State) b => u.latchBlock b.1 none) s1).endTrigger

/-- STOP_RECORD_WRITE (R343, R346): a block that has come to its boundary writes its record and is halted. -/
def execStopRecordWrite (b : BRef) (s : State) : Host.Outcome State Fault Refusal :=
  match s.block? b with
  | none => .next s.checkHalted
  | some x =>
    match x.stop with
    | .latched bytes =>
      if s.stands b.g && !s.blockStill b x then .next (s.again (.stopRecordWrite b))
      else
        let d := s.dbg
        let s1 := if bytes.isEmpty || d.stopsize = 0 then s
          else { s.physWrite (d.stopbase.toNat + 128 * (d.stopput.toNat % d.stopsize.toNat)) bytes with dbg := { d with stopput := d.stopput + 1 } }
        let s2 := s1.modBlock b (fun y => { y with stop := .halted })
        .next (s2.bbox (coreDie x.core) 5 (x.core % 32) (s.asidOf b.g) 0 0 0).checkHalted
    | _ => .next s

/-- A thread that a fault halted goes on: from its region entry after a region or poison fault, else from the faulting instruction (R390). -/
def Thread.unhalt (t : Thread) : Thread :=
  match t.haltFault with
  | none => t
  | some f =>
    if f.how = .region || f.how = .poison then
      { t with haltFault := none, pc := f.rpc, regionPc := f.rpc, regionCount := f.rcount, regionNew := true, poison := [], poisonRec := none, skip := 0 }
    else { t with haltFault := none, pc := if f.how = .issue then f.pc else t.pc }

/-- A stopped block goes on from its boundary (R344, R390), and a thread that a fault halted goes on in a block that no trigger has reached yet; asynchronous faults
that still stand are delivered (R377). -/
def State.resumeBlock (s : State) (b : BRef) : State :=
  match s.block? b with
  | none => s
  | some x =>
    if x.stop == .run && x.crews.all (fun (c : Crew) => c.threads.all (fun (t : Thread) => t.haltFault.isNone)) then s
    else
      let s0 := s.modBlock b (fun y => { y with stop := .run, crews := y.crews.map (fun (c : Crew) =>
        { c with threads := c.threads.map Thread.unhalt }) })
      let s1 := ((x.allCrews b).flatMap (fun c => c.2.allThreads c.1)).foldl (fun (u : State) t => if t.2.faults.isEmpty then u else u.soon (.trapDelivery t.1)) s0
      if x.stop == .run then s1
      else (if s.stands b.g then s1.wakeEngines b else s1).bbox (coreDie x.core) 6 (x.core % 32) (s.asidOf b.g) 0 0 0

/-! ## BKPT and watchpoints (R240, R345) -/

/-- The threads of a pass, as a mask. -/
def passMask (p : Pass) : Nat := p.lanes.foldl (fun m t => m + 2 ^ t) 0

/-- Breakpoints are enabled for the context of a group. -/
def State.bkptOn (s : State) (g : Nat) : Bool := s.dbg.bpen && s.asidOf g == s.dbg.asid

def execBkpt (o : Ops) (s : State) : Host.Outcome State Fault Refusal :=
  let nop := runPass 0x1CD o noFaults (fun e ls s1 => s1.flagPends e o ls 1)
  match s.focus with
  | .pass p =>
    match s.env? p 0x1CD o with
    | none => .next { s with focus := .none }
    | some e =>
      let stops := (e.issuing o (fun _ => [])).filter (fun l => l.exec && s.bkptOn p.crew.g && l.t.passBkpt != some p.pc)
      if stops.isEmpty then nop s
      else
        let rest := p.lanes.filter (fun n => !stops.any (fun l => l.ref.t == n))
        let s1 := stops.foldl (fun (u : State) l => u.modThread l.ref (fun t => { t with passBkpt := some p.pc })) s
        let go := fun (u : State) => u.raiseTrigger (some (p.crew.block, ⟨1, o.vd.num.toNat, some p.crew.c, 0, passMask p, p.pc, 0⟩)) 5 true
        if rest.isEmpty then .next (go { s1 with focus := .none })
        else match nop { s1 with focus := .pass { p with lanes := rest } } with
          | .next u => .next (go u)
          | r => r
  | _ => .next s

/-- The bytes and kind (1 read, 2 write, 3 both) of an access instruction's lane; none for other instructions (R345). -/
def watchAccess (code : Nat) (row : Row) (o : Ops) (l : Lane) : Option (DWord × Nat × Nat) :=
  let n := typeBits (opType row o) / 8
  let m := memBytes (opType row o)
  match code with
  | 0x100 => some (effAddr o n l, n, 1)
  | 0x101 => some (effAddr o n l, n, 2)
  | 0x102 => if l.lane < 16 then some (effAddr o (4 * n) l, 4 * n, 1) else none
  | 0x140 => some (BitVec.ofNat 64 l.src.a + immSext o, m, 3)
  | 0x141 => some (BitVec.ofNat 64 l.src.a + immSext o, m, 2)
  | _ => none

/-- Watchpoint `i` matches an access at global VA `va`. -/
def Debug.matches (d : Debug) (i va n kind : Nat) : Bool :=
  let base := ((d.wpbase[i]?).getD 0).toNat % 2 ^ 56
  let c := ((d.wpctl[i]?).getD 0).toNat
  d.wpen.getLsbD i && (kind &&& (c / 2 ^ 32 % 4)) != 0 && va < base + c % 2 ^ 32 && base < va + n

/-- The lanes of a pass that hit watchpoint `i`, with their effective addresses. -/
def State.watchHits (s : State) (e : Env) (o : Ops) (i : Nat) : List (Lane × DWord) :=
  ((e.issuing o (fun _ => [])).filter (fun l => l.exec && !l.t.passWatch.contains i)).filterMap (fun l =>
    (watchAccess e.code e.row o l).bind (fun (a : DWord × Nat × Nat) =>
      match s.vaOf (s.asker l.ref) a.1 with
      | some va => if s.dbg.matches i va a.2.1 a.2.2 then some (l, a.1) else none
      | none => none))

/-- A pass that hits a watchpoint stops before its instruction; none where it does not. -/
def State.watchStop (s : State) (p : Pass) (code : Nat) (o : Ops) : Option State :=
  if s.asidOf p.crew.g != s.dbg.asid || s.dbg.wpen = 0 then none
  else match s.env? p code o with
    | none => none
    | some e =>
      ((List.range 4).findSome? (fun i => match s.watchHits e o i with
        | [] => none
        | h :: hs => some (i, h, hs))).map (fun r =>
          let all := r.2.1 :: r.2.2
          let s1 := all.foldl (fun (u : State) h => u.modThread h.1.ref (fun t => { t with passWatch := r.1 :: t.passWatch })) s
          let mask := all.foldl (fun m h => m + 2 ^ h.1.lane) 0
          { s1 with focus := .none }.raiseTrigger (some (p.crew.block, ⟨2, r.1, some p.crew.c, mask, passMask p, p.pc, r.2.1.2⟩)) 5 true)

end Sys2Proof.Machine
end

