-- ==== Sys2Proof/Machine/Sched.lean ====
section
/-!
DEFINITION. Placement, yielding, time slicing and pre-emption of section groups (R236 to R238, R277 to R296, R442, R443).
-/
namespace Sys2Proof.Machine

/-! ## Heads (R280) -/

/-- The next group of a waiting list: its entry, its launch, the group when it is saved, and its walk number. -/
structure Head where
  entry : WEntry
  launch : Launch
  group : Option Group
  walk : Nat
  deriving DecidableEq, Repr

/-- The head of the list of a priority. -/
def State.head (s : State) (prio : Nat) : Option Head :=
  match ((s.waiting[prio]?).getD []).head? with
  | none => none
  | some (.launch i) => (s.launch? i).map (fun l => ⟨.launch i, l, none, l.next⟩)
  | some (.saved g) => (s.group? g).bind (fun x => (s.launch? x.launch).map (fun l => ⟨.saved g, l, some x, x.walk⟩))

/-- No group of a context that a fault or the debugger has halted is placed (R343, R387). -/
def State.barred (s : State) (h : Head) : Bool :=
  (s.asid h.launch.asid).halt || (s.dbg.halted && h.launch.asid == s.dbg.asid)

/-! ## Sections in order (R282) -/

/-- The section that a home argument names, none when its tile address cannot be translated; a lookup that meets a memory-poisoned line of the table counts as
one of those, though R282 does not list it (log entry 67). -/
def State.homeSection (s : State) (l : Launch) (walk : Nat) : Option Nat :=
  let u := l.p.walkCoords walk
  let c := l.p.coords u.1 u.2.1 u.2.2 0
  let ks := argRegs l.p.args
  let arg := ((ks[l.p.harg]?).getD 0).toNat + 2 ^ 32 * ((ks[l.p.harg + 1]?).getD 0).toNat
  let a := (arg + c.1 * l.p.stridex.toNat + c.2.1 * l.p.stridey.toNat) % 2 ^ 64
  if a / 2 ^ 56 ≠ 0 then none
  else (s.recordOf l.asid).bind (fun r => match s.walk r l.asid a with
    | .inr [e] => if !e.r then none else if e.homev then some e.home else (lineOf (e.pa a)).map (fun x => x.1.hub)
    | _ => none)

def State.preferred (s : State) (h : Head) : Nat :=
  if h.launch.p.homev then (s.homeSection h.launch h.walk).getD h.launch.rr else h.launch.rr

def State.sectionOrder (s : State) (h : Head) : List Nat := (List.range 6).map (fun i => (s.preferred h + i) % 6)

/-- The first section that can hold a head, and where its blocks stand. -/
def State.fit (s : State) (h : Head) : Option (Nat × List (Nat × Spot)) :=
  (s.sectionOrder h).findSome? (fun n => (s.fitIn h.launch h.group h.entry.key n).map (fun r => (n, r)))

/-- What the sequencer of hub `n` places now: heads in descending priority (R281). -/
def State.walkTarget (s : State) (n : Nat) : Option (Nat × Head × Nat × List (Nat × Spot)) :=
  [7, 6, 5, 4, 3, 2, 1, 0].findSome? (fun p => (s.head p).bind (fun h =>
    if h.launch.cox.hub ≠ n || s.barred h then none else (s.fit h).map (fun r => (p, h, r.1, r.2))))

/-! ## Taking the place -/

/-- The reservation of a head ends (R289). -/
def State.endReservation (s : State) (e : WEntry) : State :=
  { s with reserved := s.reserved.filter (fun r => r.head != e),
           groups := s.groups.map (fun g => if g.victimOf = some e.key then { g with victimOf := none } else g) }

/-- The PLACE record of each crew of a group, which a replay has to hold (R448), and the cross-trigger that may be under way on its new cores. -/
def State.recordPlaces (s : State) (gid : Nat) : State :=
  match s.group? gid with
  | none => s
  | some g =>
    let s1 := (g.blocks.mapIdx (fun k (b : Block) => (k, b))).foldl (fun (u : State) kb =>
      if kb.2.ended then u
      else (List.range kb.2.crews.length).foldl (fun (v : State) c =>
        let t : TRef := ⟨gid, kb.1, c, 0⟩
        if v.replays gid then
          if v.hubs.any (fun h => h.recd.replay.any (fun r => r.kind == 5 && r.block == v.blockIndex ⟨gid, kb.1⟩ && r.crew == c)) then v
          else v.divergeAt t 5 1 (((v.thread? t).map Thread.pc).getD 0) 0 0
        else v.putOne gid (kb.2.core / 96) false
          [slotOfFields [(0, 5), (4, kb.2.core % 96), (11, v.slotOf ⟨gid, kb.1, c⟩), (17, c), (24, v.chip.toNat), (32, v.blockIndex ⟨gid, kb.1⟩)]]) u) s
    if s.dbg.trigger.isSome && s.asidOf gid == s.dbg.asid then
      g.blocks.foldl (fun (u : State) b => u.triggerSoon b.core) s1
    else s1

/-- A saved group takes its new place; its state is loaded (R292, R294): slots, accumulators and class 6 operations stand on the new cores at
once, under their numbers and in their order (log entry 40). -/
def State.startRestore (s : State) (gid h : Nat) (spots : List (Nat × Spot)) : State :=
  match s.group? gid, s.launchOf gid with
  | some g, some l =>
    let move := fun (k : Nat) (b : Block) => match spots.find? (fun p => p.1 == k) with
      | some p => { b with core := p.2.core, base := p.2.base, placeNo := (s.core p.2.core).places,
                           crews := b.crews.mapIdx (fun i (c : Crew) => { c with slot := (p.2.slots[i]?).getD 0, wait := 0 }) }
      | none => b
    let s1 := s.modGroup gid (fun x => { x with st := .restoring, sect := h, saveFrom := s.now, victimOf := none, blocks := x.blocks.mapIdx move,
                                                savedOps := [], savedSlots := [], savedAccs := [] })
    let s2 := spots.foldl (fun (u : State) p => (u.modCore p.2.core (fun c =>
      { c with places := c.places + 1, slots := c.slots ++ g.savedSlots.filter (fun y => y.owner.k == p.1),
               accs := c.accs ++ g.savedAccs.filter (fun y => y.owner.k == p.1), ops := c.ops ++ g.savedOps.filter (fun o => o.crew.k == p.1) })).tagBlock
        l g.walk (u.blockIndex ⟨gid, p.1⟩) p.2) s1
    s2.soon (.restoreComplete gid)
  | _, _ => s

/-- Places a head in section `h`. -/
def State.placeHead (s : State) (prio : Nat) (hd : Head) (h : Nat) (spots : List (Nat × Spot)) : State :=
  let s1 := match hd.entry with
    | .launch i =>
      let last := hd.launch.next + 1 = hd.launch.p.groupCount
      let u := s.placeNew hd.launch h (spots.map (fun (p : Nat × Spot) => p.2))
      let v := { u with waiting := if last then u.waiting.modify prio (fun w => w.drop 1) else u.waiting }
      (v.modLaunch i (fun l => { l with next := l.next + 1, rr := (h + 1) % 6 })).recordPlaces u.serial
    | .saved g =>
      ({ s with waiting := s.waiting.modify prio (fun w => w.drop 1) }.startRestore g h spots).modLaunch hd.launch.idx (fun l =>
        { l with rr := (h + 1) % 6 })
  s1.endReservation hd.entry

/-- The hubs whose walk step falls into this hub cycle, `n` the one that steps now. -/
def State.walkers (s : State) (n : Nat) : List Nat :=
  let due := s.agenda.takeWhile (fun (t : Turn) => t.dt == 0)
  (List.range 6).filter (fun g => g == n || due.any (fun (t : Turn) => t.act == .event (.walkStep g)))

/-- The first walk step of a hub cycle fixes what every sequencer that steps in it has chosen (R26). -/
def State.chooseWalks (s : State) (n : Nat) : State :=
  if s.walks.any (fun w => w.now == s.now) then s
  else { s with walks := (s.walkers n).map (fun g => ⟨g, (s.walkTarget g).map (fun r => (r.1, r.2.2.1)), s.now⟩) }

/-- The grant order of a section: its own hub first, then ascending hubs (R26). -/
def Walk.before (a b : Walk) : Bool :=
  match a.pick, b.pick with
  | some p, some q => p.2 == q.2 && a.hub != b.hub && (a.hub == p.2 || (b.hub != p.2 && a.hub < b.hub))
  | _, _ => false

/-- The list holds a group of a launch that the hub accepted. -/
def State.walkOn (s : State) (hub : Nat) : Bool :=
  s.waiting.any (fun w => w.any (fun e => match e with
    | .launch i => ((s.launch? i).map (fun l => l.cox.hub == hub)).getD false
    | .saved g => ((s.launchOf g).map (fun l => l.cox.hub == hub)).getD false))

/-- WALK_STEP (R281): the sequencer of a hub places at most one head, the one it has chosen before any other sequencer has placed in this hub cycle, and steps
again while a list holds a group of a launch it accepted. One that finds its resources taken in this hub cycle waits for its next step (R26). -/
def execWalkStep (hub : Nat) (s : State) : Host.Outcome State Fault Refusal :=
  let s1 := s.chooseWalks hub
  let again := fun (u : State) => if u.walkOn hub then u.schedule 72 (.event (.walkStep hub)) else u
  match s1.walks.find? (fun w => w.hub == hub && w.now == s.now) with
  | some ⟨g, some (prio, sect), now⟩ =>
    if s1.walks.any (fun v => v.now == s.now && v.before ⟨g, some (prio, sect), now⟩) then .next (s1.schedule 0 (.event (.walkStep hub)))
    else
      let s2 := { s1 with walks := s1.walks.map (fun (v : Walk) => if v.hub = hub then { v with pick := none } else v) }
      match s2.head prio with
      | none => .next (again s2)
      | some h => match s2.fitIn h.launch h.group h.entry.key sect with
        | none => .next (again s2)
        | some spots => .next (again (s2.placeHead prio h sect spots))
  | _ => .next (again s1)

/-! ## Stop and save (R291 to R293) -/

/-- The debugger or a fault holds a block of the group, which keeps its resources (R343, R387). -/
def Group.heldUp (g : Group) : Bool := g.blocks.any (fun b => !b.ended && b.stop != .run)

/-- A group enters Stopping, or Saving where its offer is taken (R292): no pass issues from now on, and the packet that its queue's context runs now
comes to its end (R291). -/
def State.leaveResident (s : State) (gid : Nat) (st : GState) : State :=
  match s.group? gid with
  | none => s
  | some g =>
    if g.st != .resident && g.st != .requested then s
    else
      let pkt := (s.launchOf gid).bind (fun l => if (s.cox l.cox).state = 2 then some (s.cox l.cox).packets else none)
      let s1 := s.modGroup gid (fun x => { x with st := st, deadline := none, stopPkt := pkt, storing := false })
      ((List.range g.blocks.length).foldl (fun (u : State) k => u.unwindBlock ⟨gid, k⟩) s1).soon (.preemptStopComplete gid)

/-- A group enters Stopping. -/
def State.beginStop (s : State) (gid : Nat) : State := s.leaveResident gid .stopping

/-- The context of the group's queue has come to the end of the packet that it ran when the stop began, or waits in it (R291, R308). -/
def State.packetOver (s : State) (gid : Nat) (g : Group) : Bool :=
  match s.launchOf gid, g.stopPkt with
  | some l, some n => (s.cox l.cox).state != 2 || (s.cox l.cox).packets != n
  | _, _ => true

/-- A save ends the chunk of every thread, which raises o to o + 1 (R327). -/
def State.saveChunks (s : State) (gid : Nat) (g : Group) : State :=
  let ts := (g.blocks.mapIdx (fun k (b : Block) => if b.ended then [] else (b.allCrews ⟨gid, k⟩).flatMap (fun c =>
    (c.2.allThreads c.1).filter (fun t => !t.2.exited)))).flatten
  let ends := ts.map (fun (t : TRef × Thread) =>
    ({ ref := t.1, clock := t.2.o, count := t.2.chunkCount, pch := pcHash t.2.pc, trap := false } : ChunkEnd))
  let s1 := s.putChunks false ends
  if s.replays gid then s1
  else ts.foldl (fun (u : State) t => u.modThread t.1 (fun x => { x with o := x.o + 1, chunkStart := x.issued })) s1

/-- What a save leaves behind of a thread: return-address hints are not saved (R132). -/
def Block.dropHints (b : Block) : Block :=
  { b with crews := b.crews.map (fun (c : Crew) => { c with threads := c.threads.map (fun (t : Thread) => { t with hints := [] }) }) }

/-- The crews of a group whose blocks have not ended. -/
def Group.allCrews (g : Group) (gid : Nat) : List CRef :=
  (g.blocks.mapIdx (fun k (b : Block) => if b.ended then [] else (b.allCrews ⟨gid, k⟩).map (fun c => c.1))).flatten

/-- The stop is complete: unfinished trace frames go out under the identities of the cores (R352), the group's state is stored, and its cores' L1s go home (R269). -/
def State.beginSave (s : State) (gid : Nat) (g : Group) : State :=
  let s0 := (g.allCrews gid).foldl (fun (u : State) c => u.traceFlush c) (s.saveChunks gid g)
  let cores := ((g.blocks.filter (fun b => !b.ended)).map (fun b => b.core)).eraseDups
  let s1 := cores.foldl (fun (u : State) n => u.releaseL1 n) s0
  let mine := fun (c : CRef) => c.g == gid
  let held := cores.map s1.core
  let s2 := s1.modGroup gid (fun x =>
    { x with st := .saving, storing := true, saveFrom := s.now, blocks := x.blocks.map Block.dropHints, savedHwx := (s.hub x.sect).hwx,
             savedOps := held.flatMap (fun c => c.ops.filter (fun o => mine o.crew)),
             savedSlots := held.flatMap (fun c => c.slots.filter (fun y => mine y.owner)),
             savedAccs := held.flatMap (fun c => c.accs.filter (fun y => mine y.owner)) })
  let s3 := cores.foldl (fun (u : State) n => u.modCore n (fun c =>
    { c with ops := c.ops.filter (fun o => !mine o.crew), slots := c.slots.filter (fun y => !mine y.owner),
             accs := c.accs.filter (fun y => !mine y.owner) })) s2
  s3.soon (.saveComplete gid)

/-- PREEMPT_STOP_COMPLETE (R291): the collector has every acknowledgement. A group that the debugger or a fault holds keeps its resources (R343), unless the
debugger swaps it out (R347). -/
def execPreemptStopComplete (g : Nat) (s : State) : Host.Outcome State Fault Refusal :=
  match s.group? g with
  | none => .next s
  | some x =>
    if x.st != .stopping && (x.st != .saving || x.storing) then .next s
    else if x.heldUp && !x.swapped then .next (s.again (.preemptStopComplete g))
    else if s.packetOver g x && (x.blocks.mapIdx (fun k (b : Block) => b.ended || s.blockStill ⟨g, k⟩ b)).all id then .next (s.beginSave g x)
    else .next (s.again (.preemptStopComplete g))

/-- A group's slice below the measured time of its save and its last restore rises to twice that time (R442). -/
def State.checkSlice (s : State) (g : Nat) : State :=
  match s.group? g with
  | none => s
  | some x =>
    let took := x.saveTook + x.restoreTook
    if took ≤ x.slice * usTicks then s
    else (s.modGroup g (fun y => { y with slice := (2 * took + usTicks - 1) / usTicks })).modAsid (s.asidOf g) (fun a => { a with sliceRaised := true })

/-- SAVE_COMPLETE (R292): the group is saved; its entry joins the tail of its list, unless the debugger swapped it out (R347). -/
def execSaveComplete (g : Nat) (s : State) : Host.Outcome State Fault Refusal :=
  match s.group? g, s.launchOf g with
  | some x, some l =>
    if x.st != .saving || !x.storing then .next s
    else
      let s1 := s.modGroup g (fun y => { y with st := .saved, storing := false, stopPkt := none, saveTook := s.now - y.saveFrom })
      let s2 := if x.swapped then s1 else { s1 with waiting := s1.waiting.modify l.p.prio (fun w => w ++ [WEntry.saved g]) }.pokeWalk l.cox.hub
      .next ((s2.checkSlice g).bbox (hubDie x.sect) 3 0 l.asid 0 (BitVec.ofNat 64 (s.blockIndex ⟨g, 0⟩)) 0)
  | _, _ => .next s

/-! ## Restore (R260, R294) -/

/-- The clocks of a block after a restore in a section whose HWX has run 2^28 or more ahead: all stand at the floor `f`, and its stamps are settled at the
settle clock `sc`. -/
def Block.settleAt (f sc : Word) (b : Block) : Block :=
  { b with settle := sc, stamps := [],
           crews := b.crews.map (fun (c : Crew) => { c with threads := c.threads.map (fun (t : Thread) => { t with o := f, s := f, pa := f }) }),
           cmds := b.cmds.map (fun (c : Cmd) => { c with oC := f, sC := f }),
           rings := b.rings.map (fun (r : Ring) => { r with stamp := settledStamp sc }) }

/-- RESTORE_COMPLETE (R294): the group is resident, or, where the debugger has swapped it out meanwhile, stops (R295). Its cores drop their Shared lines, so that its blocks see their own earlier stores (R269; log entry
68). -/
def execRestoreComplete (g : Nat) (s : State) : Host.Outcome State Fault Refusal :=
  match s.group? g with
  | none => .next s
  | some x =>
    if x.st != .restoring then .next s
    else
      let f := s.floorOf x.sect
      let old := x.savedHwx.toNat + 2 ^ 28 ≤ (s.hub x.sect).hwx.toNat
      let wake := fun (b : Block) =>
        { b with crews := b.crews.map (fun (c : Crew) =>
            { c with trace := { c.trace with started := false }, threads := c.threads.map (fun (t : Thread) => { t with yielded := none }) }) }
      let sc := (s.hub x.sect).sc
      let s1 := ((x.blocks.filter (fun b => !b.ended)).foldl (fun (u : State) b => u.acquireL1 b.core) s).modGroup g (fun y =>
        { y with st := .resident, since := s.time, restoreTook := s.now - y.saveFrom,
                 blocks := y.blocks.map (fun b => wake (if old then b.settleAt f sc else b)) })
      let s2 := if old then
          x.blocks.foldl (fun (u : State) b => u.modCore b.core (fun c =>
            { c with ops := c.ops.map (fun o => if o.crew.g = g then { o with oC := f, sC := f } else o) })) s1
        else s1
      let s3 := (List.range x.blocks.length).foldl (fun (u : State) k => match u.block? ⟨g, k⟩ with
        | some b => if b.ended then u else if b.stop == .run then u.wakeEngines ⟨g, k⟩ else u
        | none => u) (s2.recordPlaces g)
      let s4 := (s3.checkSlice g).bbox (hubDie x.sect) 4 0 (s.asidOf g) 0 (BitVec.ofNat 64 (s.blockIndex ⟨g, 0⟩)) 0
      .next (if x.swapped then s4.beginStop g else s4)

/-! ## Yielding (R236 to R238, R290) -/

/-- A block offers. -/
def Block.offers (b : Block) : Bool :=
  let ts := (b.crews.flatMap (fun (c : Crew) => c.threads)).filter (fun t => !t.exited)
  ts.all (fun (t : Thread) => t.yielded.isSome || (match t.wait with
    | .bar .. => true
    | .ctr .. => true
    | _ => false)) && ts.any (fun t => t.yielded.isSome)

def Group.offers (g : Group) : Bool :=
  let bs := g.blocks.filter (fun b => !b.ended)
  !bs.isEmpty && bs.all Block.offers

/-- The State without the groups listed: what would be free without them. -/
def State.without (s : State) (gids : List Nat) : State :=
  let out := fun (c : CRef) => !gids.contains c.g
  { s with groups := s.groups.filter (fun g => !gids.contains g.gid),
           cores := s.cores.map (fun (c : Core) =>
             { c with slots := c.slots.filter (fun y => out y.owner), accs := c.accs.filter (fun y => out y.owner), ops := c.ops.filter (fun o => out o.crew) }) }

/-- A waiting group of equal or higher priority fits where the offering group stands (R237). -/
def State.wanted (s : State) (g : Group) : Bool :=
  match s.launch? g.launch with
  | none => false
  | some l => (List.range 8).any (fun p => l.p.prio ≤ p && (match s.head p with
    | none => false
    | some h => !s.barred h && ((s.without [g.gid]).fitIn h.launch h.group h.entry.key g.sect).isSome))

/-- A group offers: it is saved, in Saving at once (R292), or its yielded threads are candidates again (R237). -/
def State.takeOffer (s : State) (g : Group) : State :=
  if s.wanted g then s.leaveResident g.gid .saving
  else s.modGroup g.gid (fun x => { x with blocks := x.blocks.map (fun (b : Block) => { b with crews := b.crews.map (fun (c : Crew) =>
    { c with threads := c.threads.map (fun (t : Thread) => { t with yielded := none }) }) }) })

/-- The groups that have come to offer in the cycle that has ended. -/
def State.checkOffers (s : State) : State :=
  (s.groups.filter (fun g => (g.st == .resident || g.st == .requested) && g.offers)).foldl (fun (u : State) g => u.takeOffer g) s

/-- YIELD_DEADLINE (R238, R290, R443), at the end of its cycle: an offer of the same cycle is taken, as a yield; otherwise the save is forced. Over a halt the
deadline waits (R343). -/
def execYieldDeadline (g : Nat) (s : State) : Host.Outcome State Fault Refusal :=
  match s.group? g with
  | none => .next s
  | some x =>
    if x.st != .requested || (x.deadline.map (fun d => decide (s.now < d))).getD true then .next s
    else if x.heldUp then .next (s.again (.yieldDeadline g))
    else if x.offers then .next (s.leaveResident g .saving)
    else .next ((s.beginStop g).modAsid (s.asidOf g) (fun a => { a with yforced := true }))

/-! ## The slice arbiter (R288 to R290) -/

/-- A group that may give way to a head of priority `prio`. One with a block that has latched, or that a fault has halted, is none, whether HALTED reads 1 or not
(R343; log entry 67). -/
def State.mayGive (s : State) (prio : Nat) (g : Group) : Bool :=
  g.st == .resident && g.victimOf.isNone && !g.heldUp &&
  (match s.launch? g.launch with
   | none => false
   | some l =>
     let age := (s.time - g.since).toNat
     (l.p.prio < prio && l.p.minres * 1000 ≤ age) || (l.p.prio == prio && g.slice * 1000 ≤ age))

/-- Victims in the order in which the arbiter adds them: ascending priority, then longest resident, then as `State.groups` lists them (log entry 67). -/
def State.victimOrder (s : State) (prio h : Nat) : List Group :=
  let pr := fun (g : Group) => ((s.launch? g.launch).map (fun l => l.p.prio)).getD 0
  (s.groups.filter (fun g => g.sect == h && s.mayGive prio g)).mergeSort (fun a b =>
    pr a < pr b || (pr a == pr b && (s.time - b.since).toNat ≤ (s.time - a.since).toNat))

/-- Adds victims until the head fits in section `h`. -/
def State.victims (s : State) (hd : Head) (h : Nat) : List Nat → List Group → Option (List Nat)
  | taken, [] => if ((s.without taken).fitIn hd.launch hd.group hd.entry.key h).isSome then some taken else none
  | taken, g :: gs =>
    if ((s.without taken).fitIn hd.launch hd.group hd.entry.key h).isSome then some taken else State.victims s hd h (taken ++ [g.gid]) gs

/-- A victim enters pre-emption (R290). -/
def State.preempt (s : State) (key gid : Nat) : State :=
  let s1 := s.modGroup gid (fun g => { g with victimOf := some key })
  match s.launchOf gid with
  | none => s1
  | some l =>
    if l.p.coop then
      (s1.modGroup gid (fun g => { g with st := .requested, deadline := some (s.now + l.p.grace * usTicks) })).inCycle ((s.now + l.p.grace * usTicks) / 10)
        (.yieldDeadline gid)
    else s1.beginStop gid

/-- The arbiter has nothing to choose for a head now: it fits; victims chosen for it have not all been saved; or a group that gives way to another head is in
Saving, whose save completes first (R295). -/
def State.arbiterWaits (s : State) (hd : Head) : Bool :=
  (s.fit hd).isSome
  || s.groups.any (fun g => g.victimOf == some hd.entry.key && g.placed && g.st != .restoring)
  || s.groups.any (fun g => g.st == .saving && g.victimOf.isSome && g.victimOf != some hd.entry.key)

/-- A head's reservation in section `h` of what its victims hold, with what an earlier choice for it there has set aside (R289; log entry 67). -/
def State.reserve (s : State) (hd : Head) (h : Nat) (v : List Nat) : State :=
  let own := s.reserved.filter (fun r => r.head == hd.entry && r.sect == h)
  { s with reserved := s.reserved.filter (fun r => r.head != hd.entry) ++
      [{ head := hd.entry, sect := h, victims := own.flatMap (fun r => r.victims) ++ v, held := own.flatMap (fun r => r.held) ++ s.holdings v }] }

/-- SLICE_ARBITER_RUN: room for the first head that is not placed by the walk itself, chosen anew where the room that an earlier choice made has gone. -/
def execSliceArbiterRun (s : State) : Host.Outcome State Fault Refusal :=
  let s0 := if s.waiting.all (fun w => w.isEmpty) then s else s.schedule usTicks (.event .sliceArbiterRun)
  match [7, 6, 5, 4, 3, 2, 1, 0].findSome? (fun p => (s.head p).bind (fun h => if s.barred h then none else some (p, h))) with
  | none => .next s0
  | some r =>
    let hd := r.2
    if s.arbiterWaits hd then .next s0
    else match (s.sectionOrder hd).findSome? (fun h => (s.victims hd h [] (s.victimOrder r.1 h)).map (fun v => (h, v))) with
      | none => .next s0
      | some c => .next (c.2.foldl (fun (u : State) g => u.preempt hd.entry.key g) (s0.reserve hd c.1 c.2))

end Sys2Proof.Machine
end

