-- ==== Sys2Proof/Machine/Pass.lean ====
section
/-!
DEFINITION. The issue packer (R29 to R33, R285 to R287, R380, R399): which pass a quarter issues in a cycle, and the events beside it.
-/
namespace Sys2Proof.Machine

/-! ## Readiness (R29) -/

/-- What stands at the PC of a thread: nothing the instruction cache holds, no instruction, or an instruction with its entry. -/
inductive AtPc where
  | missing
  | notInstr
  | instr (code : Nat) (o : Ops) (row : Row)
  deriving DecidableEq, Repr

def State.atPc (s : State) (core : Nat) (asid : BitVec 16) (pc : DWord) : AtPc :=
  match s.fetchBytes core asid pc with
  | none => .missing
  | some b => match decodeThread b with
    | .inl _ => .notInstr
    | .inr i => match opcodeOf i with
      | none => .notInstr
      | some (code, o) => match rowOf code o with
        | none => .notInstr
        | some r => .instr code o r

/-- The words at the PCs of a crew's threads. -/
def State.seenPcs (s : State) (c : CRef) (x : Crew) : List (DWord × AtPc) :=
  ((x.threads.filter (fun t => !t.exited)).map (fun t => t.pc)).eraseDups.map (fun p => (p, s.atPc (s.coreOf c.block) (s.asidOf c.g) p))

def lookPc (l : List (DWord × AtPc)) (pc : DWord) : AtPc := ((l.find? (fun x => x.1 == pc)).map (fun x => x.2)).getD .missing

/-- A record of the end of a chunk of thread `n` of a crew slot. -/
def chunkNames (core slot n : Nat) (xs : List (BitVec 128)) : Bool := slotField (xs.headD 0).toNat 3 0 ≤ 2 && recordNames core slot n xs

/-- The end of a chunk of the thread waits for room in its ring: the thread is held there, and at no record before (R333, R450). -/
def State.recordHolds (s : State) (t : TRef) : Bool :=
  let n := s.coreOf t.block
  let r := (s.hub (coreSection n)).recd
  let named := chunkNames (n % 96) (s.slotOf t.crew) t.t
  (!r.held.isEmpty && r.held.any (fun x => named x.2))
  || (!r.cyc.isEmpty && (!r.held.isEmpty || r.size - r.used < 4096) && r.cyc.any (fun x => x.canWait && !s.wrapOf x.launch && named x.record))

/-- What replay lets the thread do (R334): run its chunk, or find whether the recorded trap arises at its next instruction. -/
def State.replayLets (s : State) (t : TRef) (x : Thread) : Bool :=
  !s.replays t.g || (match x.grant with
    | none => false
    | some g => 0 < g.left || (g.trap && x.settled && x.faults.isEmpty))

/-- No standing fault keeps the thread from issuing; in replay those that wait for the end of the chunk do not. -/
def State.faultFree (s : State) (t : TRef) (x : Thread) : Bool :=
  x.haltFault.isNone && (x.faults.isEmpty || (s.replays t.g && x.faults.all (fun f => f.how == .region || f.how == .async)))

/-- The conditions of R29 apart from the instruction itself. -/
def State.mayGo (s : State) (t : TRef) (x : Thread) : Bool :=
  !x.exited && x.readyAt ≤ s.cycle && x.wait == .none && x.yielded.isNone && s.faultFree t x

/-- A thread that has arrived in the open phase is not ready to arrive again (R186). -/
def State.arrived (s : State) (t : TRef) (x : Thread) (code : Nat) (o : Ops) : Bool :=
  (code == 0x144 || code == 0x146) && !x.handler && guardTrue o.guard x s.cycle t.t s.fresh &&
  (let r := s.barOf o t.crew
   x.arrivals.any (fun a => a.bar == r && a.phase == (s.bar r).phase))

/-- The instruction waits for the close of the region (R43), or for the handler's accesses (R385). -/
def closesRegion (code : Nat) (row : Row) : Bool := row.ends || code == 0x0C7 || code == 0x0CA

/-- EXIT waits until its region has closed and all twelve flags read zero (R134). -/
def exitReady (t : Thread) (code : Nat) : Bool := code != 0x0C5 || (t.settled && (List.finRange 12).all (fun i => t.flag i == 0))

/-- R29. -/
def State.ready (s : State) (t : TRef) (x : Thread) (w : AtPc) : Bool :=
  s.mayGo t x && s.replayLets t x && !s.recordHolds t &&
  (match w with
   | .missing => false
   | .notInstr => true
   | .instr code o row =>
     flagsReady x o.wait o.flag && (!closesRegion code row || x.settled) && exitReady x code && !s.arrived t x code o)

/-! ## Parking, holding, forming (R30, R32, R33) -/

/-- A thread of a crew in this cycle. -/
structure Seen where
  ref : TRef
  t : Thread
  at_ : AtPc
  ready : Bool
  deriving DecidableEq, Repr

def State.seen (s : State) (c : CRef) (x : Crew) : List Seen :=
  let pcs := s.seenPcs c x
  (x.allThreads c).map (fun r =>
    let w := lookPc pcs r.2.pc
    { ref := r.1, t := r.2, at_ := w, ready := s.ready r.1 r.2 w })

/-- R33. -/
def parked (cyc : Nat) (all : List Seen) (x : Seen) : Bool :=
  x.t.meet == some x.t.pc && (x.t.meetAt.map (fun m => decide (cyc < m + 2048))).getD false
  && all.any (fun u => !u.t.exited && u.t.meet == x.t.meet && u.t.pc != x.t.pc)

def Seen.collective (x : Seen) : Bool :=
  match x.at_ with
  | .instr _ _ row => row.collective
  | _ => false

/-- Held at a crew-collective instruction (R32); a thread in handler state is not (R380). -/
def Seen.held (x : Seen) : Bool := x.ready && !x.t.handler && x.collective

/-- All 128 threads are ready at one crew-collective instruction. -/
def gathered (all : List Seen) : Bool :=
  match all with
  | [] => false
  | x :: _ => all.all (fun y => y.held && y.t.pc == x.t.pc)

/-- A gathered crew's guard is true in some of its threads and false in others, where no fault of lower code comes before (R393, R399). -/
def mixedGuard (cyc base : Nat) (all : List Seen) : Bool :=
  match all with
  | [] => false
  | x :: _ => match x.at_ with
    | .instr _ o row =>
      let gs := all.map (fun y => guardTrue o.guard y.t cyc y.ref.t base)
      gs.any (fun g => g) && gs.any (fun g => !g) && all.all (fun y => (regRange row o y.t.regs.length).isNone)
    | _ => false

/-- CONVERGE's DETAIL for a mixed guard, exited threads and split holds (R399). -/
def converge (cyc base : Nat) (all : List Seen) : Option Nat :=
  let live := all.filter (fun x => !x.t.exited)
  if live.isEmpty || !live.all Seen.held then none
  else if live.length < all.length then some 1
  else if gathered all then (if mixedGuard cyc base all then some 0 else none)
  else some 2

/-- Instructions whose pass composition the recorder logs at every pass: lane exchange, LDT and MATCH (R159, R178, R183). -/
def passLogged (code : Nat) : Bool := (0x088 ≤ code && code ≤ 0x08B) || code == 0x102 || code == 0x142

/-- The PASS record that a replaying thread at its PC belongs to: of those instructions, or of a store whose lanes overlapped (R334). -/
def State.formOf (s : State) (x : Seen) : Option RRec :=
  match x.at_ with
  | .instr code _ _ =>
    if s.replays x.ref.g && (passLogged code || code == 0x101) then
      (s.chunkOwn x.ref 4).bind (fun r => if r.2.pch == pcHash x.t.pc then some r.2 else none)
    else none
  | _ => none

/-- A replaying thread at the end of its chunk, which only looks for its recorded trap, stands at an instruction of a recorded pass that its chunk does not hold:
that pass is the next chunk's (R159, R334). -/
def State.pastChunk (s : State) (x : Seen) : Bool :=
  s.replays x.ref.g && x.t.left = 0 && (match x.at_ with
    | .instr code _ _ => passLogged code
    | _ => false)

/-- A candidate: its place in the crew's choice, and its recorded pass. -/
structure Cand where
  seen : Seen
  form : Option DWord
  deriving DecidableEq, Repr

/-- The candidates of a crew (R29, R32, R33); threads of a recorded pass only once all of them are ready (R159). -/
def State.candidates (s : State) (all : List Seen) : List Cand :=
  let free := all.filter (fun x => x.ready && !parked s.cycle all x && !x.held)
  let forms := free.map (fun x => (x, s.formOf x))
  forms.filterMap (fun f => match f.2 with
    | none => if s.pastChunk f.1 then none else some ⟨f.1, none⟩
    | some r =>
      let mates := forms.filter (fun g => g.2.any (fun q => q.index == r.index) && g.1.t.pc == f.1.t.pc)
      if (List.range 128).all (fun n => !r.mask.getLsbD n || mates.any (fun g => g.1.ref.t == n)) then some ⟨f.1, some r.index⟩ else none)

/-- A pass-forming group: PC, handler state, recorded pass. -/
structure GroupKey where
  pc : DWord
  handler : Bool
  form : Option DWord
  deriving DecidableEq, Repr

def Cand.key (c : Cand) : GroupKey := ⟨c.seen.t.pc, c.seen.t.handler, c.form⟩

/-- The lower PC, and at one PC the group not in handler state. -/
def GroupKey.lower (a b : GroupKey) : Bool := a.pc.toNat < b.pc.toNat || (a.pc == b.pc && (!a.handler && b.handler))

/-- Better by number, ties to the lower group. -/
def betterBy (a b : Nat × GroupKey) : Bool := b.1 < a.1 || (a.1 == b.1 && a.2.lower b.2)

def bestBy : List (Nat × GroupKey) → Option GroupKey
  | [] => none
  | x :: xs => some (xs.foldl (fun b y => if betterBy y b then y else b) x).2

/-- The group that forms the pass (R30, R380). -/
def chooseGroup (cs : List Cand) : Option GroupKey :=
  let late := cs.filter (fun c => 1024 ≤ c.seen.t.skip)
  if late.isEmpty then bestBy ((cs.map Cand.key).eraseDups.map (fun k => ((cs.filter (fun c => c.key == k)).length, k)))
  else bestBy (late.map (fun c => (c.seen.t.skip, c.key)))

/-- The pass that a crew would issue: its threads, its PC, the word there, whether it is collective. -/
structure Forming where
  crew : CRef
  lanes : List Nat
  pc : DWord
  at_ : AtPc
  collective : Bool
  /-- The crew's candidates, whose skip counts the pass changes. -/
  cands : List Nat
  deriving DecidableEq, Repr

def State.form (s : State) (c : CRef) (x : Crew) : Option Forming :=
  let all := s.seen c x
  if gathered all then
    (all.head?).map (fun y => { crew := c, lanes := List.range all.length, pc := y.t.pc, at_ := y.at_, collective := true,
                                cands := List.range all.length })
  else
    let cs := s.candidates all
    (chooseGroup cs).map (fun k =>
      let ms := (cs.filter (fun y => y.key == k)).take 32
      { crew := c, lanes := ms.map (fun y => y.seen.ref.t), pc := k.pc, at_ := ((ms.head?).map (fun y => y.seen.at_)).getD .missing,
        collective := false, cands := cs.map (fun y => y.seen.ref.t) })

/-! ## The quarter's choice (R285 to R287) -/

/-- The crews of a quarter whose blocks run. -/
def State.quarterCrews (s : State) (core q : Nat) : List (BRef × Block × CRef × Crew) :=
  (s.allBlocks.filter (fun b => b.2.core == core && !b.2.ended && s.engineRuns b.1)).flatMap (fun b =>
    (b.2.allCrews b.1).filterMap (fun c => if !c.2.released && c.2.slot / 16 == q then some (b.1, b.2, c.1, c.2) else none))

/-- Scoreboard entries that an instruction takes at issue (Table 8 of 09_matrix_and_transfer_instructions.md). -/
def sbNeeds (p : LaunchP) (k code : Nat) : Nat :=
  match code with
  | 0x182 => 1
  | 0x183 => 2
  | 0x187 => 1
  | 0x188 => 1
  | 0x18A => 2
  | 0x18B => 2
  | 0x18C => (if (gangPlace p k).2.1 = 0 then 1 else 0) + (if (gangPlace p k).1 = 0 then 1 else 0)
  | 0x18D => (if (gangPlace p k).2.1 = 0 then 1 else 0) + (if (gangPlace p k).1 = 0 then 1 else 0)
  | 0x1C0 => 1
  | 0x1C1 => 1
  | 0x1C2 => 1
  | 0x1C3 => 1
  | 0x1C4 => 1
  | _ => 0

def usesSfu (code : Nat) : Bool := 0x049 ≤ code && code ≤ 0x050
def usesFp64 (code : Nat) : Bool := 0x068 ≤ code && code ≤ 0x06D

/-- LD, ST, LDT, PREF, ATOM and RED, which the throttle holds (R287). -/
def throttled (code : Nat) : Bool := (0x100 ≤ code && code ≤ 0x103) || code == 0x140 || code == 0x141

/-- The cap C of a lost-locality score. -/
def tokenCap (score : Nat) : Nat := if score < 32 then 16 else if score < 64 then 8 else if score < 128 then 4 else 2

/-- A crew of the quarter in this cycle: its pass, age, priority, and what holds it. -/
structure Turner where
  f : Forming
  wait : Nat
  place : Nat
  prio : Nat
  /-- Held outside the counting (R286). -/
  blocked : Bool
  /-- Held by the throttle. -/
  noToken : Bool
  deriving DecidableEq, Repr

/-- `a` is older than `b`. -/
def Turner.older (a b : Turner) : Bool := a.place < b.place || (a.place == b.place && a.f.crew.c < b.f.crew.c)

def AtPc.code (w : AtPc) : Nat :=
  match w with
  | .instr code _ _ => code
  | _ => 0

/-- The crews in the slots of a quarter, whether their blocks run or stand still: placement number and crew index. -/
def State.slotCrews (s : State) (core q : Nat) : List (Nat × Nat) :=
  (s.allBlocks.filter (fun b => b.2.core == core && !b.2.ended && ((s.group? b.1.g).map Group.placed).getD false)).flatMap (fun b =>
    (b.2.allCrews b.1).filterMap (fun c => if !c.2.released && c.2.slot / 16 == q then some (b.2.placeNo, c.1.c) else none))

def State.turners (s : State) (core q : Nat) (crews : List (BRef × Block × CRef × Crew)) : List Turner :=
  let qs := ((s.core core).quarters[q]?).getD (Quarter.reset core q)
  let room := 64 - s.sbUsed core
  let slots := s.slotCrews core q
  let older := fun (b : Block) (c : CRef) => (slots.filter (fun y => y.1 < b.placeNo || (y.1 == b.placeNo && y.2 < c.c))).length
  crews.filterMap (fun x =>
    (s.form x.2.2.1 x.2.2.2).map (fun f =>
      let l := s.launchOf x.1.g
      let code := f.at_.code
      { f := f, wait := x.2.2.2.wait, place := x.2.1.placeNo, prio := (l.map (fun y => y.p.prio)).getD 0,
        blocked := (usesSfu code && s.cycle < qs.sfuFree) || (usesFp64 code && s.cycle < qs.fpFree)
          || room < (l.map (fun y => sbNeeds y.p x.1.k code)).getD 0,
        noToken := throttled code && tokenCap qs.score ≤ older x.2.1 x.2.2.1 && x.2.2.2.wait < 4 }))

/-- R285. -/
def chooseCrew (ts : List Turner) : Option Turner :=
  let e := ts.filter (fun t => !t.blocked && !t.noToken)
  match e with
  | [] => none
  | t :: rest =>
    let p := rest.foldl (fun m x => max m x.prio) t.prio
    let top := e.filter (fun x => x.prio == p)
    let due := top.filter (fun x => 4 ≤ x.wait)
    match due, top with
    | d :: ds, _ => some (ds.foldl (fun b x => if b.wait < x.wait || (b.wait == x.wait && x.older b) then x else b) d)
    | [], x :: xs => some (xs.foldl (fun b y => if y.older b then y else b) x)
    | [], [] => none

/-- The wait counts of the crews that are counted in this cycle (R285, R286): `c` issues, the others wait on. -/
def State.countWaits (s : State) (ts : List Turner) (c : Option CRef) : State :=
  (ts.filter (fun x => !x.blocked)).foldl (fun (u : State) x =>
    u.modCrew x.f.crew (fun y => { y with wait := if c = some x.f.crew then 0 else y.wait + 1 })) s

/-- Issues the chosen pass: skip and wait counts, the quarter's slot, and the pass that the next step runs. -/
def State.issuePass (s : State) (core q : Nat) (ts : List Turner) (t : Turner) (deferred : Bool) : State :=
  let f := t.f
  let s1 := s.countWaits ts (some f.crew)
  let s2 := s1.modThreads f.crew (fun i x =>
    if f.lanes.contains i then { x with skip := 0 } else if f.cands.contains i then { x with skip := x.skip + 1 } else x)
  let s3 := s2.modCore core (fun c => { c with quarters := c.quarters.modify q (fun z =>
    { z with freeAt := if f.collective then s.cycle + 4 else z.freeAt }) })
  let p : Pass := { crew := f.crew, lanes := f.lanes, pc := f.pc, num := s.serial, defer := deferred, collective := f.collective }
  let s4 := { s3 with serial := s.serial + 1 }
  match f.at_ with
  | .instr code o _ => (s4.watchStop p code o).getD { s4 with focus := .pass p }
  | _ => { s4 with focus := .pass p }

/-! ## Before the choice -/

/-- A thread has reached its meet target, or left it (R33): the event that ends its waiting is due 2,048 cycles after the issue that took it
there, its own cycle of a collective pass (R32). -/
def State.markMeets (s : State) (c : CRef) (x : Crew) : State :=
  let late := (x.allThreads c).filter (fun t => !t.2.exited && t.2.meet == some t.2.pc && t.2.meetAt.isNone)
  let gone := x.threads.any (fun t => t.meetAt.isSome && t.meet != some t.pc)
  let s1 := if gone then s.modThreads c (fun _ t => if t.meet = some t.pc then t else { t with meetAt := none }) else s
  late.foldl (fun (u : State) t =>
    (u.modThread t.1 (fun y => { y with meetAt := some t.2.issuedAt })).atCycle (t.2.issuedAt + 2048) (.meetTargetExpiry t.1)) s1

/-- Fetches what the instruction cache lacks, for the lowest thread at each such PC (R29). -/
def State.askFetch (s : State) (c : CRef) (x : Crew) : State :=
  let pcs := s.seenPcs c x
  (pcs.filter (fun p => p.2 == AtPc.missing)).foldl (fun (u : State) p =>
    match (x.allThreads c).find? (fun t => t.2.pc == p.1 && s.mayGo t.1 t.2) with
    | none => u
    | some t => if u.agenda.any (fun (z : Turn) => z.act == .event (.instructionFetchComplete t.1)) then u else u.soon (.instructionFetchComplete t.1)) s

/-- The threads of a crew that are to converge and cannot (R399); with a mixed guard, one that consumes poison takes that before (R377). -/
def State.giveConverge (s : State) (c : CRef) (d : Nat) (all : List Seen) : State :=
  all.foldl (fun (u : State) x =>
    let poisoned : Option PFault := match x.at_ with
      | .instr code o _ =>
        (s.env? { crew := c, lanes := List.range all.length, pc := x.t.pc, num := 0, defer := false, collective := true } code o).bind (fun e =>
          ((e.lanes o).find? (fun l => l.ref == x.ref && e.consumes o l)).bind (fun l => e.standing o l (fun _ => [])))
      | _ => none
    if x.t.exited then u
    else u.addFault x.ref ((if d = 0 then poisoned else none).getD
        { how := .issue, order := 6, cause := mkCause 1 6 d false false, addr := 0, pc := x.t.pc, rpc := x.t.regionPc, rcount := x.t.regionCount,
          queue := none })) s

/-! ### Replay (R334, R335, R452) -/

/-- An engine operation of the crew is not over. -/
def State.crewWorks (s : State) (c : CRef) : Bool :=
  (s.core (s.coreOf c.block)).ops.any (fun o => o.crew == c)
  || ((s.block? c.block).map (fun b => b.cmds.any (fun x => x.live && x.slices.any (fun y => y.crew == c.c)))).getD false

/-- The recorded trap of a thread that has run its chunk, stands at a barrier and has no fault: BARCOUNT DETAIL 2, whatever replay's own arrivals would meet (R408);
an engine operation of its crew that is under way may bring another. -/
def State.replayBarTrap (s : State) (t : TRef) (x : Thread) : State :=
  match x.wait with
  | .bar r _ pend => if s.crewWorks t.crew then s else { s with serial := s.serial + 1 }.barStuck t r x pend s.serial
  | _ => s

/-- The end of a replayed thread's chunk, its recorded trap, and the next chunk that the frontier has released to it. -/
def State.replayThread (s : State) (t : TRef) : State :=
  match s.thread? t with
  | none => s
  | some x =>
    if x.exited then s
    else match x.grant with
    | none =>
      (match s.chunkRec t with
       | some r =>
         if r.2.released then
           let g : Grant := ⟨r.2.clock, r.2.count.toNat, r.2.pch, r.2.trap, r.2.index, r.2.count⟩
           s.modThread t (fun y => { y with o := r.2.clock, chunkStart := y.issued, grant := some g })
         else s
       | none => s)
    | some g =>
      if 0 < g.left || !x.settled then s
      else if g.trap then (if x.faults.isEmpty then s.replayBarTrap t x else s.deliver t)
      else if (s.chunkOwn t 4).isSome then s
      else s.endChunk t x.pc

/-- A thread of a recorded pass stands at its PC, or has ended its chunk elsewhere. -/
def State.formEnded (s : State) (r : RRec) (t : TRef) : Option Bool :=
  match s.thread? t with
  | none => none
  | some x =>
    if x.exited then some true
    else if ((s.chunkOwn t 4).map (fun q => q.2.index)) != some r.index then none
    else if r.pch == pcHash x.pc then some false
    else if x.grant.isSome && x.left = 0 then some true
    else none

/-- A recorded pass of a crew that cannot form (R452): its lowest thread. -/
def State.cannotForm (s : State) (c : CRef) : Option TRef :=
  let block := s.blockIndex c.block
  s.hubs.findSome? (fun h => h.recd.replay.findSome? (fun r =>
    if r.kind != 4 || r.complete || r.block != block || r.crew != c.c then none
    else
      let ts := ((List.range 128).filter (fun n => r.mask.getLsbD n)).map (fun n => c.thread n)
      let st := ts.map (s.formEnded r)
      if st.all Option.isSome && st.any (fun o => o == some true) then ts.head? else none))

def State.replayCrew (s : State) (c : CRef) : State :=
  if !s.replays c.g then s
  else
    let s1 := (List.range 128).foldl (fun (u : State) n => u.replayThread (c.thread n)) s
    match s1.cannotForm c with
    | some t =>
      let own := (s1.chunkOwn t 4).map (fun r => r.2)
      s1.divergeAt t 3 2 (((s1.thread? t).map Thread.pc).getD 0) (((own.map (fun (r : RRec) => r.mask)).getD 0).truncate 64) 0 (own := own)
    | none => s1

/-! ## Events -/

/-- QUARTER_ISSUE (R285): one cycle of a quarter. -/
def execQuarterIssue (core quarter : Nat) (deferred : Bool) (s : State) : Host.Outcome State Fault Refusal :=
  let s1 := (s.quarterCrews core quarter).foldl (fun (u : State) x => (u.markMeets x.2.2.1 x.2.2.2).replayCrew x.2.2.1) s
  let qs := ((s1.core core).quarters[quarter]?).getD (Quarter.reset core quarter)
  let s2 := (s1.quarterCrews core quarter).foldl (fun (u : State) x =>
    let v := u.askFetch x.2.2.1 x.2.2.2
    let all := u.seen x.2.2.1 x.2.2.2
    match converge u.cycle u.fresh all with
    | some d => v.giveConverge x.2.2.1 d all
    | none => v) s1
  let ts := s2.turners core quarter (s2.quarterCrews core quarter)
  match (if s1.cycle < qs.freeAt then none else chooseCrew ts) with
  | none => .next (s2.countWaits ts none)
  | some t => .next (s2.issuePass core quarter ts t deferred)

/-- MEET_TARGET_EXPIRY (R33): 2,048 cycles after the thread reached its meet target, the target returns to none. -/
def execMeetTargetExpiry (t : TRef) (s : State) : Host.Outcome State Fault Refusal :=
  .next (s.modThread t (fun x => match x.meetAt with
    | some m => if m + 2048 ≤ s.cycle && x.meet == some x.pc then { x with meet := none, meetAt := none } else x
    | none => x))

/-- INSTRUCTION_FETCH_COMPLETE (R29, R64, R409): the block of the thread's PC reaches the instruction cache; a fetch that fails faults the
threads of the crew that would issue there. -/
def execInstructionFetchComplete (t : TRef) (s : State) : Host.Outcome State Fault Refusal :=
  match s.thread? t, s.crew? t.crew with
  | some x, some c =>
    if !s.engineRuns t.block || x.exited then .next s
    else match s.fetch (s.coreOf t.block) (s.asidOf t.g) x.pc with
      | .inr r => .next r.2
      | .inl f => .next ((c.allThreads t.crew).foldl (fun (u : State) y =>
          if y.2.pc != x.pc || !s.mayGo y.1 y.2 then u
          else u.addFault y.1 (fetchFault f x.pc y.2)) s)
  | _, _ => .next s

/-- THROTTLE_SCORE_HALVE (R287): every 1,024 cycles the score halves. -/
def execThrottleScoreHalve (core quarter : Nat) (s : State) : Host.Outcome State Fault Refusal :=
  let half := ((((s.core core).quarters[quarter]?).map (fun z => z.score)).getD 0) / 2
  let s1 := s.modCore core (fun c => { c with quarters := c.quarters.modify quarter (fun z => { z with score := z.score / 2 }) })
  .next (if half = 0 then s1 else s1.atCycle (s.cycle + 1024) (.throttleScoreHalve core quarter))

end Sys2Proof.Machine
end

