-- ==== Sys2Proof/Machine/Frontier.lean ====
section
/-!
DEFINITION. The replay frontier (R334, R335, R448, R464).
-/
namespace Sys2Proof.Machine

/-- A gap that the rings leave (R448, R451): it is of no thread, so its records name the hub's host-link identity. -/
def State.ringGap (s : State) (h detail : Nat) : State :=
  let r := (s.hub h).recd
  match (if r.diverged then none else s.launches.find? (fun l => l.isOpen && recordMode l.p.modes == 2)) with
  | none => s
  | some l =>
    s.failCheck { hub := h, code := 5, detail := detail, asid := l.asid, who := none, owner := l.cox, pc := 0,
                  d := ⟨identity s.chip h 126 0 0, r.rrget, l.seq, 0, 0, 0, 0, 0, 0, 0, 0⟩ }

/-- PARAM of an LU flit: the clock, the hub, and whether the hub has a record left. -/
def luParam (h : Nat) (lu : Option Word) : BitVec 40 := BitVec.ofNat 40 ((lu.getD 0).toNat + h * 2 ^ 32 + (if lu.isNone then 2 ^ 35 else 0))

/-- A hub sends its LU when it has changed: to the package's other hubs, and over Sweep (R334). -/
def State.sendLu (s : State) (h : Nat) : State :=
  let lu := s.luOf h
  if (s.hub h).recd.lu = some lu then s
  else
    let s1 := s.modHub h (fun u => { u with recd := { u.recd with lu := some lu } })
    let s2 := ((List.range 6).filter (· != h)).foldl (fun (u : State) n => u.soon (.frontierUpdate n)) s1
    s2.routedChips.foldl (fun (u : State) c => u.sendFlit c 7 3 (luParam h lu) .none) s2

/-- The threads of a chunk record as it was read. -/
def RRec.named (x : RRec) : Nat :=
  if x.kind = 2 then ((x.words[0]?).getD 0).toNat + 2 ^ 64 * ((x.words[1]?).getD 0).toNat else 2 ^ (x.ident.toNat % 128)

/-- A chunk record of the target of a replay breakpoint (R335): a thread of crew 0 of the block, or a crew. -/
def Recorder.breaksAt (r : Recorder) (x : RRec) : Bool :=
  let target := field r.rbsel 63 56
  x.isChunk && !x.isUnit && x.sreg < 256 && x.block == field r.rbsel 55 0 &&
  (if r.rbchk.getLsbD 33 then x.crew == target else x.crew == 0 && x.named.testBit target)

/-- A released chunk of a context or of the host link may have run already, where it holds no instruction or write (R334, R337). -/
def State.settleUnit (s : State) (h : Nat) (r : RRec) : State :=
  if !r.isUnit || 256 ≤ r.sreg then s
  else if (r.ident.extractLsb' 13 7).toNat = 126 then s.settleHost
  else s.settleCox ⟨h, (r.ident.extractLsb' 7 6).toNat - 48⟩

/-- The PC of the lowest thread that a released record names. -/
def State.recPc (s : State) (b : BRef) (r : RRec) : DWord :=
  (((List.range 128).find? (fun n => r.threads.getLsbD n)).bind (fun n => (s.thread? ((b.crew r.crew).thread n)).map (fun t => t.pc))).getD 0

/-- One record is released. The chunk that a replay breakpoint names stops its block first, where its launch is of the debugged context (R341): the target's
chunks count from 0 at launch, in whichever rings they stand (R335). -/
def State.release (s : State) (h : Nat) (r : RRec) : State :=
  let s1 := (s.modRRec h r.index (fun y => { y with released := true })).settleUnit h r
  let d := (s.hub h).recd
  let before := (s.hubs.map (fun u => (u.recd.replay.filter (fun x => x.released && d.breaksAt x)).length)).foldl (· + ·) 0
  if !d.rbchk.getLsbD 32 || !d.breaksAt r || before ≠ field d.rbchk 31 0 then s1
  else if !s1.launches.any (fun l => l.isOpen && recordMode l.p.modes == 2 && l.asid == s1.dbg.asid) then s1
  else match s1.allBlocks.find? (fun b => recordMode (s1.modesOf b.1.g) == 2 && s1.blockIndex b.1 == r.block && !b.2.ended) with
    | some b => s1.raiseTrigger (some (b.1, ⟨4, 0, some r.crew, 0, r.threads.toNat, s1.recPc b.1 r, 0⟩)) 5 true
    | none => s1.raiseTrigger none 5 true

/-- The replaying context is under a debug halt (R343) or has diverged (R453). -/
def State.frontierStands (s : State) : Bool :=
  s.hubs.any (fun h => h.recd.diverged)
  || (s.dbg.halted && s.launches.any (fun l => l.isOpen && recordMode l.p.modes == 2 && l.asid == s.dbg.asid))

/-- FRONTIER_UPDATE (R334): a hub reads what its ring holds, sends LU, and releases what G allows. -/
def execFrontierUpdate (hub : Nat) (s : State) : Host.Outcome State Fault Refusal :=
  let r := (s.hub hub).recd
  if r.state ≠ 2 || s.frontierStands then .next s
  else match (if r.rrget = r.rrput then .inr s else s.loadRing hub) with
    | .inl d => .next (s.ringGap hub d)
    | .inr s1 =>
      let s2 := s1.sendLu hub
      match s2.frontier with
      | none => .next s2
      | some g =>
        let go := releasable g [] (s2.hub hub).recd.replay
        let s3 := go.foldl (fun (u : State) x => u.release hub x) s2
        .next (if s3.luOf hub = s2.luOf hub then s3 else s3.schedule 0 (.event (.frontierUpdate hub)))

/-- LU of a hub of another package arrives; from a lost chip none is received (R464). -/
def State.takeLu (s : State) (chip : BitVec 8) (param : BitVec 40) : State :=
  if s.chipLost chip then s
  else
  let h := (param.extractLsb' 32 3).toNat
  let e : RemoteLu := { chip := chip, hub := h, lu := if param.getLsbD 35 then none else some (param.extractLsb' 0 32), at_ := s.now }
  let s1 := { s with remoteLu := e :: s.remoteLu.filter (fun r => !(r.chip == chip && r.hub == h)) }
  (List.range 6).foldl (fun (u : State) n => u.schedule 0 (.event (.frontierUpdate n))) s1

/-- REPLAY_LU_TIMEOUT (R464): 20 ms after the last LU of a hub of a lost chip, every hub of the package gives RINGGAP. -/
def execReplayLuTimeout (hub : Nat) (chip : BitVec 8) (s : State) : Host.Outcome State Fault Refusal :=
  match s.remoteLu.find? (fun r => r.chip == chip && r.hub == hub) with
  | none => .next s
  | some r =>
    if s.now < r.at_ + luTicks || r.lu.isNone || !s.hubs.any (fun h => h.recd.state == 2) || !s.chipLost chip then .next s
    else .next ((List.range 6).foldl (fun (u : State) h => u.ringGap h 1) s)

end Sys2Proof.Machine
end

