-- ==== Sys2Proof/Machine/Fabric.lean ====
section
/-!
DEFINITION. Beacons, clock floors and sweepers (R258, R259), evictions (R250, R257), peer requests and their answers (R246, R462, R463), and
what a Sweep port receives (R320, R460, R464).
-/
namespace Sys2Proof.Machine

/-! ## Beacons (R258) -/

/-- A beacon that a port sends to the chip at its other end, none where that chip is lost (R464). -/
def State.portBeacon (s : State) (p : Nat) (hw : Word) (h : Nat) : State :=
  let x := s.port p
  if x.st ≠ 2 || s.chipLost x.peer then s
  else
    s.portSend p (newFlit x.peer s.chip 3 3 (BitVec.ofNat 40 (hw.toNat + h * 2 ^ 32)) .none)

/-- BEACON_SEND (R258): HW goes to the other five hubs, whose bridges take at most 1 µs, and through each of the hub's Sweep ports. -/
def execBeaconSend (hub : Nat) (s : State) : Host.Outcome State Fault Refusal :=
  let hw := (s.hub hub).hw
  let s1 := ((List.range 6).filter (· != hub)).foldl (fun (u : State) n =>
    { u.schedule (Config.latency u.fresh % (usTicks + 1)) (.tick (.beacon n hw)) with fresh := u.fresh + 1 }) s
  let s2 := ((s1.ports.map (fun x => x.num)).filter (fun p => portHub p == hub)).foldl (fun (u : State) p => u.portBeacon p hw hub) s1
  .next (s2.schedule usTicks (.event (.beaconSend hub)))

/-- BEACON_RECEIVE (R258). -/
def execBeaconReceive (hub : Nat) (hw : Word) (s : State) : Host.Outcome State Fault Refusal := .next (s.noteClock hub hw)

/-! ## Floors of resident threads (R258) -/

/-- Raises the clocks of every resident thread of a core to the floor. -/
def State.raiseCore (s : State) (n : Nat) : State :=
  let f := s.floorOf (coreSection n)
  let ts := (s.allBlocks.filter (fun b => b.2.core == n && !b.2.ended && s.stands b.1.g)).flatMap (fun b =>
    (b.2.allCrews b.1).flatMap (fun c => (c.2.allThreads c.1).filter (fun t => !t.2.exited)))
  s.commitClks (ts.map (fun t => ⟨t.1, t.2.clk.floor f, t.2.issued, t.2.pc⟩))

/-- CORE_FLOOR_RAISE. -/
def execCoreFloorRaise (core : Nat) (s : State) : Host.Outcome State Fault Refusal := .next (s.raiseCore core)

/-! ## Settling (R257, R259) -/

/-- A clock of the stamp stands below the floor. -/
def Stamp.old (l : Stamp) (f : Word) : Bool := above f l.wo || above f l.ro || above f l.ws || above f l.rs


/-- Settles a home line in place where its stamp stands below its hub's floor. -/
def State.settleHome (s : State) (l : LineId) : State :=
  match s.l3.find? (fun h => h.line == l) with
  | none => s
  | some h =>
    if !h.stamp.old (s.floorOf l.hub) then s
    else
      let sc := absorb (s.hub l.hub).sc h.stamp
      (s.modHub l.hub (fun u => { u with sc := sc })).modHome l (fun y => { y with stamp := settledStamp sc })

/-- SWEEPER_VISIT (R259). -/
def execSweeperVisit (line : LineId) (s : State) : Host.Outcome State Fault Refusal := .next (s.settleHome line)

/-- One round of a hub's sweeper over the lines that its L3 holds. -/
def State.sweepHub (s : State) (h : Nat) : State :=
  ((s.l3.filter (fun x => x.line.hub == h)).map (fun x => x.line)).foldl State.settleHome s

/-- Settles an L1 line of a core; the settle clock is that of the core's section. -/
def State.settleL1 (s : State) (n : Nat) (l : LineId) : State :=
  let h := coreSection n
  match s.l1Line n l with
  | none => s
  | some x =>
    if !x.stamp.old (s.floorOf h) then s
    else
      let sc := absorb (s.hub h).sc x.stamp
      (s.modHub h (fun u => { u with sc := sc })).modL1 n l (fun y => { y with stamp := settledStamp sc, readDirty := true })

/-- The stamps of a block that stand below `f`: its listed and unlisted lines' and its rings'. -/
def Block.oldStamps (x : Block) (f : Word) : List Stamp :=
  ((x.stamps.map (fun y => y.2)) ++ [settledStamp x.settle] ++ x.rings.map (fun r => r.stamp)).filter (fun y => y.old f)

/-- Settles the scratchpad stamps of a block, and its rotation stamps. -/
def State.settleBlock (s : State) (b : BRef) (x : Block) : State :=
  let h := coreSection x.core
  let f := s.floorOf h
  let olds := x.oldStamps f
  if olds.isEmpty then s
  else
    let sc := olds.foldl absorb (s.hub h).sc
    (s.modHub h (fun u => { u with sc := sc })).modBlock b (fun (y : Block) =>
      { y with stamps := y.stamps.map (fun z => if z.2.old f then (z.1, settledStamp sc) else z),
               settle := if (settledStamp y.settle).old f then sc else y.settle,
               rings := y.rings.map (fun r => if r.stamp.old f then { r with stamp := settledStamp sc } else r) })

/-- A core's sweep over its L1 and scratchpad stamps. -/
def State.sweepCore (s : State) (n : Nat) : State :=
  let s1 := ((s.core n).l1.map (fun x => x.line)).foldl (fun u l => u.settleL1 n l) s
  (s1.allBlocks.filter (fun b => b.2.core == n && !b.2.ended && s1.stands b.1.g)).foldl (fun u b => u.settleBlock b.1 b.2) s1

/-- CORE_STAMP_SWEEP. -/
def execCoreStampSweep (core : Nat) (s : State) : Host.Outcome State Fault Refusal := .next (s.sweepCore core)

/-! ## Evictions -/

/-- L1_EVICTION (R250, R287). -/
def execL1Eviction (core : Nat) (line : LineId) (s : State) : Host.Outcome State Fault Refusal :=
  if (s.l1Line core line).isSome then .next (s.evictL1 core line) else .next s

/-- L3_EVICTION. -/
def execL3Eviction (line : LineId) (s : State) : Host.Outcome State Fault Refusal := .next (s.evictL3 line)

/-! ## The home chip of a peer request (R246, R410, R418, R430) -/

def peerAcc : PeerKind → AccKind
  | .read acq => .load acq false
  | .write rel _ => .store rel
  | .atomic op ty _ _ acq rel => .atom op ty acq rel
  | .reduce op ty _ => .red op ty
  | .counter _ => .load true false
  | .counterAdd _ => .atom 7 8 false true

def peerBytes : PeerKind → List Byte
  | .write _ d => d
  | _ => []

def peerVals : PeerKind → Nat × Nat
  | .atomic _ _ v w _ _ => (v.toNat, w.toNat)
  | .reduce _ _ v => (v.toNat, 0)
  | _ => (0, 0)

/-- The answer to a request: a fault (CODE + 256 × DETAIL), or data and clocks. -/
def peerAns (r : PeerReq) (err v : Nat) (c : Clk) (race : Option PeerRace) : PeerAns :=
  { id := r.id, dst := r.src, err := err, data := BitVec.ofNat 64 v, hi := BitVec.ofNat 64 (v / 2 ^ 64), o := c.o, s := c.s, pa := c.pa,
    dropped := if c.sync.getLsbD 0 then some ((c.sync.extractLsb' 5 3).toNat) else none, race := race }

/-- The race of a peer access as the response reports it. -/
def peerRaceOf (st : Stamp) (r : Req) (k : Race) : PeerRace :=
  let x := raceRecord st r k 0 0 0 0 0
  { code := k.code, oth := x.oth, oid := x.oid, opc := x.opc, os := x.os, oo := x.oo, s := r.clk.s, o := r.clk.o }

def peerClk (r : PeerReq) : Clk := { o := r.o, s := r.s, pa := r.pa, fs := r.fs, sync := 0, ended := false }

/-- What an access writes of itself: an add to a counter stops at top (R439). -/
def State.peerVal (s : State) (l : LineId) (off : Nat) (k : PeerKind) : Nat :=
  match k with
  | .counterAdd n => min (leNat (s.mem.readN (l.key + off) 8) + n.toNat) counterTop
  | k => (peerVals k).1

/-- The access of a peer request on its line, its clocks raised to the home's floor. -/
def State.peerReq (s : State) (l : LineId) (x : PeerReq × Nat) : Req :=
  let r := x.1
  { id := r.ident, kind := (peerAcc r.kind), off := x.2, size := r.size, scope := r.scope, bytes := peerBytes r.kind, v := s.peerVal l x.2 r.kind,
    w := (peerVals r.kind).2, pc := r.pc.extractLsb' 0 32, clk := (peerClk r).floor (s.floorOf l.hub), engine := r.engine }

/-- A CTRWAIT's read that does not satisfy it, with the value read (R190). -/
def State.peerWaits (s : State) (l : LineId) (x : PeerReq × Nat) : Option Nat :=
  let now := leNat (s.mem.readN (l.key + x.2) x.1.size)
  match x.1.kind with
  | .counter t => if now < t.toNat || now = counterTop then some now else none
  | _ => none

/-- Performs a group of peer requests on a line (R168): the checks of all on the stamp before them. One whose race traps is not performed (R427). -/
def State.peerPerform (s : State) (l : LineId) (xs : List (PeerReq × Nat)) : State × List PeerAns :=
  match xs with
  | [] => (s, [])
  | x0 :: _ =>
    let s0 := xs.foldl (fun (u : State) x => u.noteClk l.hub (!x.1.engine) (peerClk x.1)) s
    let rd := s0.prepare (.home l) none 0 (peerAcc x0.1.kind)
    let u := rd.st
    let bad := xs.filter (fun x => rd.poisonedAt (.home l) true (u.peerReq l x))
    let rest := xs.filter (fun x => !rd.poisonedAt (.home l) true (u.peerReq l x))
    let bads := bad.map (fun x => peerAns x.1 (8 + 256 * (16 * u.badUnit (.home l))) 0 (peerClk x.1) none)
    if rd.ovf then (u, bads ++ rest.map (fun x => peerAns x.1 9 0 (peerClk x.1) none))
    else
      let waits := rest.filterMap (fun x => (u.peerWaits l x).map (fun v => peerAns x.1 0 v (peerClk x.1) none))
      let go := rest.filter (fun x => (u.peerWaits l x).isNone)
      let st := u.stampAt (.home l)
      let raced := fun (x : PeerReq × Nat) => if x.1.precise then (u.raceOf st (u.peerReq l x)).map (peerRaceOf st (u.peerReq l x)) else none
      let races := go.filterMap (fun x => (raced x).map (fun k => peerAns x.1 0 0 (peerClk x.1) (some k)))
      let go := go.filter (fun x => (raced x).isNone)
      let g := u.performGroup (.home l) none rd.converted (go.map (u.peerReq l))
      (g.1, bads ++ waits ++ races ++ (go.zip g.2).map (fun d =>
        let q := u.peerReq l d.1
        peerAns d.1.1 0 (leNat d.2.old) d.2.clk ((u.raceOf st q).map (peerRaceOf st q))))

/-- The response to a request leaves; hub `h` handles it (R258). -/
def State.peerReply (s : State) (h : Nat) (r : PeerReq) (a : PeerAns) : State :=
  ({ s with peerSent := s.peerSent ++ [a], fresh := s.fresh + 1 }.noteClk h (!r.engine) (unitClk a.o a.s a.pa)).sendFlit a.dst 1 1 (Config.flitParam s.fresh)
    (.response a)

/-- The hub that a request of another package comes through: that of the port of its chip's route. -/
def State.chipHub (s : State) (c : BitVec 8) : Nat := portHub ((s.routePort c).getD 0)

/-- The fault of a request on its way to its line, or the line and offset (R246, R410). -/
def State.peerPlace (s : State) (r : PeerReq) : Nat ⊕ (LineId × Nat) :=
  match s.translate none r.asid r.va.toNat (needOf (peerAcc r.kind).need) with
  | .inl f => .inl (f.code + 256 * f.detail)
  | .inr (pa, _) => match lineOf pa with
    | none => .inl 7
    | some x => .inr x

/-- A home chip serves a group of requests that was complete at tick `since`: it translates with the ASID's tables and applies the stamp
procedure; contributions wait for a spill entry for at most 100 µs. -/
def State.peerGroup (s : State) (rs : List PeerReq) (since : Nat) : State :=
  let s1 := rs.foldl (fun (u : State) r => match s.peerPlace r with
    | .inl err => u.peerReply (s.chipHub r.src) r (peerAns r err 0 (peerClk r) none)
    | .inr _ => u) s
  let xs := rs.filterMap (fun r => match s.peerPlace r with
    | .inl _ => none
    | .inr x => some (r, x))
  match xs with
  | [] => s1
  | (r0, l, _) :: _ =>
    if (peerAcc r0.kind).isRed && !s1.canBuffer l (((peerAcc r0.kind).redKind.map (fun q => q.2)).getD 3) then
      if since + 100 * usTicks ≤ s1.now then
        xs.foldl (fun (u : State) x => u.peerReply l.hub x.1 (peerAns x.1 (10 + 256 * (16 * l.hub)) 0 (peerClk x.1) none)) s1
      else (s1.noteFull l.hub).schedule 9 (.tick (.peer (xs.map (fun x => x.1)) since))
    else
      let w := s1.peerPerform l (xs.map (fun x => (x.1, x.2.2)))
      w.2.foldl (fun (u : State) a => u.peerReply l.hub (((xs.find? (fun x => x.1.id == a.id)).map (fun x => x.1)).getD r0) a) w.1

/-- A request comes: with the last of its group (R168) the group is served. -/
def State.peerServe (s : State) (r : PeerReq) : State :=
  let mine := fun (q : PeerReq) => q.src == r.src && q.group == r.group
  let rs := s.peerHeld.filter mine ++ [r]
  if rs.length < r.group.2 then { s with peerHeld := s.peerHeld ++ [r] }
  else { s with peerHeld := s.peerHeld.filter (fun q => !mine q) }.peerGroup rs s.now

/-- PEER_REQUEST (R246). -/
def execPeerRequest (r : PeerReq) (s : State) : Host.Outcome State Fault Refusal := .next (s.peerServe r)

/-! ## XRED chunks of other packages (R227, R441) -/

/-- The acknowledgement of a chunk, or its fault, which an access at `va` has met. -/
def State.redReply (s : State) (h : Nat) (r : RedPart) (err : Nat) (va : BitVec 48) (c : Clk) (races : List (BitVec 48 × PeerRace)) : State :=
  ({ s with fresh := s.fresh + 1 }.noteClk h false c).sendFlit r.req.src 1 1 (Config.flitParam s.fresh)
    (.ack { id := r.req.id, dst := r.req.src, err := err, va := va, o := c.o, s := c.s, races := races })

/-- Discards what a chunk has staged. -/
def State.dropForeign (s : State) (key : ChunkKey) : State :=
  { s with foreign := s.foreign.filter (fun f => f.part.key != key),
           l3 := s.l3.map (fun h => { h with staged := h.staged.filter (fun t => t.1 != key) }) }

/-- The merge of a line for a chunk of another package, whose clocks have come to `c`. -/
def State.foreignMerge (s : State) (f : Foreign) (c : Clk) (l : LineId) : Merged :=
  let r := f.part.req
  s.mergeStaged none f.part.key l (fun u k n =>
    { id := r.ident, kind := k, off := 0, size := n, scope := r.scope, bytes := [], v := 0, w := 0, pc := r.pc.extractLsb' 0 32,
      clk := c.floor (u.floorOf l.hub), engine := true }) c

/-- One line of a chunk commits; the last part names a line that waits for a spill entry. -/
def foreignLine (f : Foreign) (w : State × Clk × List (BitVec 48 × PeerRace) × Option (LineId × BitVec 48)) (x : LineId × BitVec 48) :
    State × Clk × List (BitVec 48 × PeerRace) × Option (LineId × BitVec 48) :=
  if w.2.2.2.isSome then w
  else
    let m := w.1.foreignMerge f w.2.1 x.1
    let race := m.met.bind (fun y => (w.1.raceOf y.1 y.2).map (peerRaceOf y.1 y.2))
    (m.st, m.clk, w.2.2.1 ++ (race.map (fun k => (x.2, k))).toList, if m.waits then some x else none)

/-- Every contribution that the header counts has come: the chunk commits, all its lines or none, or waits for a spill entry for at most 100 µs. -/
def State.foreignCommit (s : State) (f : Foreign) : State :=
  let key := f.part.key
  let clk := peerClk f.part.req
  match f.lines.findSome? (fun x => let m := s.foreignMerge f clk x.1; m.fail.map (fun e => (m.st, e, x))) with
  | some y => (y.1.dropForeign key).redReply y.2.2.1.hub f.part (y.2.1.code + 256 * y.2.1.detail) y.2.2.2 clk []
  | none =>
    let w := f.lines.foldl (foreignLine f) (s, clk, [], none)
    match w.2.2.2 with
    | some x =>
      let since := f.since.getD s.now
      if since + 100 * usTicks ≤ s.now then (s.dropForeign key).redReply x.1.hub f.part (10 + 256 * (16 * x.1.hub)) x.2 clk []
      else ({ s with foreign := s.foreign.map (fun (g : Foreign) => if g.part.key = key then { g with since := some since } else g) }.noteFull x.1.hub).schedule 9 (.tick (.foreign key))
    | none =>
      let s1 := ((f.lines.map (fun x => x.1.hub)).eraseDups).foldl (fun (u : State) h => u.modHub h (fun y => { y with commits := key :: y.commits }))
        (w.1.dropForeign key)
      s1.redReply (((f.lines.head?).map (fun x => x.1.hub)).getD 0) f.part 0 f.part.req.va w.2.1 w.2.2.1

/-- The chunk `key` looks again whether it can commit. -/
def State.foreignAgain (s : State) (key : ChunkKey) : State :=
  match s.foreign.find? (fun f => f.part.key == key) with
  | some f => s.foreignCommit f
  | none => s

/-- Stages a part's contributions on their line (R441, item 1). -/
def State.stagePart (s : State) (r : RedPart) (l : LineId) (off : Nat) : State :=
  match (peerAcc r.req.kind).redKind with
  | none => s
  | some (op, ty) =>
    let part := (r.vals.mapIdx (fun j v => (j, v))).foldl (fun (p : Partial) q => p.contribute (off / max 1 r.req.size + q.1) q.2) ⟨op, ty, []⟩
    s.modHome l (fun h =>
      { h with staged := (match h.staged.find? (fun t => t.1 == r.key) with
          | some t => (r.key, t.2.1.merge part, t.2.2.1, t.2.2.2) :: h.staged.filter (fun t => t.1 != r.key)
          | none => (r.key, part, r.req.o, r.req.s) :: h.staged) })

/-- A part of a chunk arrives at its home: discarded where the chunk is committed, which is then acknowledged again; held back while the commit
table is full; else staged, once. -/
def State.homePart (s : State) (r : RedPart) : State :=
  if s.hubs.any (fun h => h.commits.contains r.key) then
    if r.first = 0 then s.redReply (s.chipHub r.req.src) r 0 r.req.va (peerClk r.req) [] else s
  else if s.hubs.any (fun h => 4096 ≤ h.commits.length) && !s.foreign.any (fun f => f.part.key == r.key) then s.schedule 9 (.tick (.part r))
  else match s.peerPlace r.req with
  | .inl err => (s.dropForeign r.key).redReply (s.chipHub r.req.src) r err r.req.va (peerClk r.req) []
  | .inr (l, off) =>
    let old := s.foreign.find? (fun f => f.part.key == r.key)
    if ((old.map (fun f => f.got)).getD []).any (fun g => g.1 == r.first) then s
    else
      let f : Foreign := match old with
        | some f => { f with got := f.got ++ [(r.first, r.vals.length)], lines := if f.lines.any (fun x => x.1 == l) then f.lines else f.lines ++ [(l, r.req.va)] }
        | none => { part := r, got := [(r.first, r.vals.length)], lines := [(l, r.req.va)], since := none }
      let s1 := ({ s with foreign := s.foreign.filter (fun (g : Foreign) => g.part.key != r.key) ++ [f] }.noteClk l.hub false (peerClk r.req)).stagePart r l off
      if r.total ≤ (f.got.map (fun g => g.2)).sum then s1.foreignCommit f else s1

/-- The issuing core reports a command complete: its keys are freed, and nothing of it stays staged (R441, item 4). -/
def State.freeKeys (s : State) (key : ChunkKey) : State :=
  { s with hubs := s.hubs.map (fun h => { h with commits := h.commits.filter (fun k => !sameCmd k key) }),
           l3 := s.l3.map (fun h => { h with staged := h.staged.filter (fun t => !sameCmd t.1 key) }),
           foreign := s.foreign.filter (fun f => !sameCmd f.part.key key) }

/-! ## The issuing chip (R246, R430, R462) -/

/-- The record of a race that a home chip found. -/
def peerRaceRec (flags : Nat) (a : Access) (sync : Bool) (r : PeerReq) (x : PeerRace) (launch : DWord) (where_ : Nat) : RaceRec :=
  { kind := x.code, flags := flags, acc := (match a.kind with | .load .. => 0 | .store _ => 1 | .atom .. => 2 | .red .. => 3) + 4 * r.scope
      + (if sync then 32 else 0),
    oth := x.oth, id := r.ident, pc := if r.engine then (r.pc.extractLsb' 0 32).zeroExtend 64 else r.pc, ea := a.ea, oid := x.oid, opc := x.opc,
    s := x.s, os := x.os, o := x.o, oo := x.oo, launch := launch, block := where_ }

/-- The request's access as the issuing party made it. -/
def peerAccess (r : PeerReq) (chip : BitVec 8) : Access :=
  { kind := peerAcc r.kind, pc := r.pc, ea := reqEa r chip, size := r.size, scope := r.scope, data := 0, dest := [], ldt := none }

/-- The flags of a peer race record: TRAPPED, ENGINE, PEER, REPLAY, STICKY. -/
def peerRaceFlags (trapped engine replay sticky : Bool) : Nat :=
  (if trapped then 1 else 0) + (if engine then 2 else 0) + 4 + (if replay then 8 else 0) + (if sticky then 32 else 0)

def AccKind.syncs (k : AccKind) (fs : Option Nat) : Bool := k.isAtom || k.acquires || k.releases || (k.writes && fs.isSome)

/-- A satisfying or unsatisfying read of a peer counter (R190, R439). -/
def State.peerCounter (s : State) (t : TRef) (p : Pend) (v : Nat) (go : State → State) : State :=
  match (s.thread? t).map (fun x => x.wait) with
  | some (Wait.ctr ea target dest scope last n) =>
    let pc := (p.todo.map (fun a => a.pc)).getD 0
    (match ctrVerdict target last v with
     | .inl c => s.ctrFault t p ea pc (mkCause 4 (c.getD 4) 0 false true)
     | .inr true => (go s).ctrDone t p dest v
     | .inr false => (s.modThread t (fun z => { z with wait := .ctr ea target dest scope (some (BitVec.ofNat 64 v)) n })).inCycle (s.cycle + 1) (.ctrwaitReread t))
  | _ => s.dropPend t p.id

/-- New clocks of a thread from a response: none of its clocks falls. -/
def Thread.takeClk (t : Thread) (o s pa : Word) (dropped : Option Nat) (scope : Nat) : Clk :=
  let c := t.clk.raise o
  { c with s := smax c.s s, pa := smax c.pa pa, sync := match dropped with
    | some rel => dropAcquire c.sync rel scope
    | none => c.sync }

/-- The race of a thread's peer access: its record, and its trap under RACE 2 (R427, R428). Answers whether the access stands. -/
def State.peerThreadRace (s : State) (x : Lact) (q : PeerReq) (r : PeerRace) : State × Bool :=
  match s.thread? x.ref, s.launchOf x.ref.g with
  | some t, some l =>
    if !racesOn l.p.modes then (s, true)
    else
      let trapped := s.raceTraps x.ref t
      let flags := peerRaceFlags trapped false (recordMode l.p.modes == 2 && !trapped) (t.syncscope.getLsbD 0)
      (s.raceTrap x l.asid (peerRaceRec flags x.a (x.a.kind.syncs q.fs) q r l.seq (s.blockIndex x.ref.block + x.ref.c * 2 ^ 56)).bytes r.code
        trapped, !trapped)
  | _, _ => (s, true)

/-- What a thread's request comes to. A fault changes no clock (R462). -/
def State.threadAnswer (s : State) (w : PeerOut) (a : PeerAns) : State :=
  match (s.thread? w.who).bind (fun x => x.pend.find? (fun p => p.id == w.pend)) with
  | none => s
  | some p =>
    match p.todo with
    | none => s
    | some acc =>
      let s1 := s.modThread w.who (fun y => { y with pend := y.pend.map (fun (q : Pend) => if q.id = p.id then { q with peer := none } else q) })
      let x : Lact := ⟨w.who, { p with peer := none }, acc, .peer s.chip w.req.va.toNat⟩
      let isCtr := match w.req.kind with
        | .counter _ => true
        | _ => false
      if a.err ≠ 0 then
        if isCtr then s1.ctrFault w.who p acc.ea acc.pc (mkCause 2 (a.err % 256) (a.err / 256 + 8) false true)
        else s1.accessFault x ⟨a.err % 256, a.err / 256 + 8⟩
      else
        let g := match a.race with
          | some r => s1.peerThreadRace x w.req r
          | none => (s1, true)
        if !g.2 then g.1.modThread w.who (fun y => if isCtr then { y with wait := .none } else y)
        else
          let v := a.data.toNat + 2 ^ 64 * a.hi.toNat
          let go := fun (u : State) =>
            let c := ((u.thread? w.who).map (fun y => y.takeClk a.o a.s a.pa a.dropped acc.scope)).getD (unitClk a.o a.s a.pa)
            let u1 := u.commitClks [⟨w.who, c, p.seq, acc.pc⟩]
            if acc.kind.acquires && 2 ≤ acc.scope then u1.acquireL1 (u1.coreOf w.who.block) else u1
          if isCtr then g.1.peerCounter w.who p v go
          else
            let old := leBytes acc.size v
            let new := match acc.kind with
              | .atom op ty _ _ => some (atomNew op ty (leNat old) (acc.data.toNat % 2 ^ (8 * acc.size)) (acc.data.toNat / 2 ^ 64 % 2 ^ (8 * acc.size)))
              | _ => none
            (go g.1).accessDone x ⟨unitClk a.o a.s a.pa, old, new⟩

/-- What an engine's request comes to. -/
def State.cmdAnswer (s : State) (w : PeerOut) (c : Cmd) (a : PeerAns) : State :=
  let fault := a.err ≠ 0
  let s1 := match a.race, s.launchOf w.who.g with
    | some r, some l =>
      if fault || !racesOn l.p.modes then s
      else s.raceLog l.asid (peerRaceRec (peerRaceFlags false true (recordMode l.p.modes == 2) false) (peerAccess w.req w.chip) ((peerAcc w.req.kind).syncs none)
        w.req r l.seq (s.blockIndex w.who.block + w.who.c * 2 ^ 56)).bytes none
    | _, _ => s
  s1.engineAnswer w.who c.id w.req.kind (a.err % 256) (a.err / 256 + 8) (reqEa w.req w.chip) a.data (if fault then c.oC else smax c.oC a.o) (if fault then c.sC else a.s)

/-- What a cox context's request comes to (R310, R427). -/
def State.coxPeerAnswer (s : State) (w : PeerOut) (x : CoxId) (a : PeerAns) : State :=
  let c := s.cox x
  let fault := a.err ≠ 0
  let s1 := match a.race with
    | none => s
    | some r => (s.deciding [s.ctxAsid x]).foldl (fun (u : State) asid =>
        u.raceLog asid (peerRaceRec (peerRaceFlags false false false false + 16) (peerAccess w.req w.chip) ((peerAcc w.req.kind).syncs none) w.req r 0 0).bytes none) s
  if w.pend = 1 then
    if fault then s1.copyAnswer x (a.err % 256) a.data c.co c.cs else s1.copyAnswer x 0 a.data (smax c.co a.o) (smax c.cs a.s)
  else if fault then s1.coxAnswer x (a.err % 256) a.data c.o c.s c.pa
  else s1.coxAnswer x 0 a.data (smax c.o a.o) (smax c.s a.s) (smax c.pa a.pa)

/-- The acknowledgement of an XRED chunk, or its fault, from the home (R227, R441, R462). -/
def State.chunkAnswer (s : State) (a : RedAck) : State :=
  match s.peerChunks.find? (fun p => p.id == a.id) with
  | none => s
  | some p =>
    let s0 := { s with peerChunks := s.peerChunks.filter (fun q => q.id != a.id) }
    match s0.cmd? p.b p.cmd with
    | none => s0
    | some c => match c.slices.head? with
      | none => s0
      | some x =>
        if a.err ≠ 0 then s0.failCmd p.b c [(p.b.crew x.crew, accessCause (⟨a.err % 256, a.err / 256 + 8⟩, 2, 0), (0xE0 : BitVec 8) ++ p.chip ++ a.va)]
        else
          let e := cmdEng p.b c x
          let s1 := match s0.launchOf p.b.g with
            | some l =>
              if !racesOn l.p.modes then s0
              else a.races.foldl (fun (u : State) (k : BitVec 48 × PeerRace) => match p.parts.find? (fun (r : RedPart) => r.req.va == k.1) with
                | some r => u.raceLog l.asid (peerRaceRec (peerRaceFlags false true (recordMode l.p.modes == 2) false) (peerAccess r.req p.chip)
                    false r.req k.2 l.seq (u.blockIndex p.b + x.crew * 2 ^ 56)).bytes none
                | none => u) s0
            | none => s0
          let w := (s1.noteClk (coreSection (s1.coreOf p.b)) false (unitClk a.o a.s 0)).engAfter e [⟨engClk (smax c.oC a.o) (smax c.sC a.s), [], none⟩]
          let s2 := w.1.keepClk p.b c.id w.2
          if s2.chunkOpen p.b c x p.chunk then s2 else (s2.advanceSlice p.b c.id 0 (min x.chunkElems (x.count c.op - x.pos)) (x.count c.op)).cmdNext p.b c.id 0

/-- A response, or the want of one, ends a request. -/
def State.peerAnswer (s : State) (a : PeerAns) : State :=
  match s.peerOut.find? (fun w => w.req.id == a.id) with
  | none => s
  | some w =>
    let h := match w.cox with
      | some x => x.hub
      | none => coreSection (s.coreOf w.who.block)
    let s1 := { s with peerOut := s.peerOut.filter (fun y => y.req.id != a.id) }.noteClk h (!w.req.engine) (unitClk a.o a.s a.pa)
    match w.cox with
    | some x => s1.coxPeerAnswer w x a
    | none =>
      match s1.cmd? w.who.block w.pend with
      | some c => s1.cmdAnswer w c a
      | none => (s1.threadAnswer w a).pokeFaults [w.who]

/-- PEER_RESPONSE (R246). -/
def execPeerResponse (id err : Nat) (data hi : DWord) (o sc pa : Word) (dropped : Option Nat) (race : Option PeerRace) (s : State) :
    Host.Outcome State Fault Refusal :=
  .next (s.peerAnswer { id := id, dst := s.chip, err := err, data := data, hi := hi, o := o, s := sc, pa := pa, dropped := dropped, race := race })

/-- PEER_REQUEST_TIMEOUT (R462): NOBACK with DETAIL bit 3. -/
def execPeerRequestTimeout (id : Nat) (s : State) : Host.Outcome State Fault Refusal :=
  match s.peerOut.find? (fun w => w.req.id == id) with
  | none => .next s
  | some w =>
    if s.now < w.sent + peerTicks then .next s
    else .next (s.peerAnswer { id := id, dst := s.chip, err := 7, data := 0, hi := 0, o := w.req.o, s := w.req.s, pa := w.req.pa, dropped := none,
                               race := none })

/-! ## Flits that a port receives (R320) -/

/-- The unacknowledged flits after the one that `ack` names, where it names one. -/
def afterAck (ack : BitVec 12) : List Flit → Option (List Flit)
  | [] => none
  | f :: fs => if f.seq = ack then some fs else afterAck ack fs

/-- The ACK field of a flit advances the window. -/
def State.takeAck (s : State) (p : Nat) (f : Flit) : State :=
  match afterAck f.ack (s.port p).unacked with
  | none => s
  | some rest => (s.modPort p (fun x => { x with unacked := rest, ackAt := s.now })).pump p

/-- An acknowledgement on the wire, which asks for retry or not: it takes no sequence number of its own. -/
def State.sendAck (s : State) (p : Nat) (retry : Bool) : State :=
  s.modPort p (fun (x : Port) =>
    { x with wire := x.wire ++ [sealFlit { newFlit x.peer s.chip 5 3 (Config.ackParam retry) .none with seq := x.txNext, ack := x.rxNext - 1 }] })

/-- A retry request (R320, R459, R460). -/
def State.askRetry (s : State) (p : Nat) : State :=
  let s1 := (s.modPort p (fun x => { x with retries := satInc x.retries, run := x.run + 1 })).sendAck p true
  if 16 ≤ (s1.port p).run then s1.portDown p 1 else s1

/-- Records a cross-trigger flit for every recorded launch (R325). -/
def State.putFab (s : State) (h : Nat) (f : Flit) : State :=
  (s.launches.filter (fun l => l.isOpen && recordMode l.p.modes == 1)).foldl (fun (u : State) l =>
    u.putRecord h l.seq false [slotOfFields [(0, 8), (4, f.src.toNat), (12, f.kind.toNat), (20, f.param.toNat)]]) s

/-- What the payload of a request, a response or a contribution does (R246, R441). -/
def State.takeMsg (s : State) (m : FlitMsg) : State :=
  match m with
  | .none => s
  | .request r => s.peerServe r
  | .response a => s.peerAnswer a
  | .part r => s.homePart r
  | .ack a => s.chunkAnswer a
  | .complete key => s.freeKeys key
  | .halt _ => s

/-- What an accepted flit does. -/
def State.takeFlit (s : State) (p : Nat) (f : Flit) : State :=
  if f.dst ≠ s.chip then
    if s.chipLost f.dst then s
    else match s.routePort f.dst with
      | none => s
      | some q => s.portSend q f
  else if f.kind = Config.flitKind 3 then s.noteClock (portHub p) (f.param.extractLsb' 0 32)
  else if f.kind = Config.flitKind 4 then
    (s.modPort p (fun x => { x with paused := (List.range 4).filter (fun c => (Config.pausedBy f.param).getLsbD c) })).pump p
  else if f.kind = Config.flitKind 6 then
    let s1 := s.putFab (portHub p) f
    match Config.readPayload f.payload with
    | some (.halt a) => s1.stopContext a none false
    | _ => s1.raiseTrigger none 5 false
  else if f.kind = Config.flitKind 7 then s.takeLu f.src f.param
  else s.takeMsg ((Config.readPayload f.payload).getD .none)

/-! ### Receive buffers (R320) -/

/-- Free space of a class's receive buffer. -/
def Port.free (x : Port) (c : Nat) : Nat := 65 + Config.rxRoom c - (x.rx.filter (fun f => f.cls.toNat == c)).length

/-- The classes that a port has to pause: their free space has fallen to the headroom of 64 flits. -/
def Port.pauses (x : Port) : BitVec 4 :=
  BitVec.ofNat 4 (((List.range 4).filter (fun c => decide (x.free c ≤ 64))).map (fun c => 2 ^ c)).sum

/-- Tells the other end which classes are paused, where that has changed. -/
def State.tellPauses (s : State) (p : Nat) : State :=
  let x := s.port p
  if x.pauses = x.told then s
  else (s.modPort p (fun y => { y with told := x.pauses })).portSend p (newFlit x.peer s.chip 4 3 (Config.pauseParam x.pauses) .none)

/-- The oldest flit of a class leaves its receive buffer. -/
def State.drainRx (s : State) (p c : Nat) : State :=
  match (s.port p).rx.find? (fun f => f.cls.toNat == c) with
  | none => s
  | some f => ((s.modPort p (fun x => { x with rx := x.rx.erase f })).tellPauses p).takeFlit p f

/-- A flit is accepted: acknowledged, and held in its class's buffer until the package takes it up. -/
def State.acceptFlit (s : State) (p : Nat) (f : Flit) : State :=
  let s1 := ((s.modPort p (fun x => { x with rxNext := x.rxNext + 1, run := 0, rx := x.rx ++ [f] })).sendAck p false).tellPauses p
  { s1 with fresh := s1.fresh + 1 }.schedule (Config.latency s1.fresh) (.tick (.rx p f.cls.toNat))

/-- FLIT_RECEIVE (R320): a bad CRC is counted; it and a gap ask for retry; one of the 2,048 numbers before the next has been accepted already and is only
acknowledged again; the next flit in order is accepted and acknowledged, where its class's buffer has room. -/
def execFlitReceive (port : Nat) (f : Flit) (s : State) : Host.Outcome State Fault Refusal :=
  if (s.port port).st ≠ 2 then .next s
  else if !goodFlit f then .next ((s.modPort port (fun x => { x with crcerr := satInc x.crcerr })).askRetry port)
  else
    let s1 := s.takeAck port f
    if f.kind = Config.flitKind 5 then .next (if f.param = Config.ackParam true then s1.resend port else s1)
    else if 2048 ≤ (f.seq - (s1.port port).rxNext).toNat then .next (s1.sendAck port false)
    else if f.seq ≠ (s1.port port).rxNext then .next (s1.askRetry port)
    else if (s1.port port).free f.cls.toNat = 0 then .next s1
    else .next (s1.acceptFlit port f)

/-! ## Ports that go down and come up (R460) -/

/-- ACK_TIMEOUT: 100 µs without the ACK field advancing. -/
def execAckTimeout (port : Nat) (s : State) : Host.Outcome State Fault Refusal :=
  let x := s.port port
  if x.st ≠ 2 || x.unacked.isEmpty then .next s
  else if x.ackAt + ackTicks ≤ s.now then .next (s.portDown port 2)
  else .next (s.schedule (x.ackAt + ackTicks - s.now) (.event (.ackTimeout port)))

/-- SIGNAL_LOSS. -/
def execSignalLoss (port : Nat) (s : State) : Host.Outcome State Fault Refusal := .next (s.portDown port 3)

/-- PORT_TRAINED: a port that is enabled comes up; one that comes up within 10 ms of going down goes on where it stopped. -/
def execPortTrained (port : Nat) (peer : BitVec 8) (s : State) : Host.Outcome State Fault Refusal :=
  let x := s.port port
  let up := fun (y : Port) => { y with st := 2, peer := peer, downAt := none, ackAt := s.now, run := 0 }
  if !x.en then .next s
  else if x.st = 1 then .next ((s.modPort port up).pump port)
  else if x.st = 3 then
    let s1 := ((s.modPort port (fun y => { up y with pevent := y.pevent ||| 2 })).resend port).pump port
    .next (if x.unacked.isEmpty then s1 else s1.schedule ackTicks (.event (.ackTimeout port)))
  else .next s

/-- PORT_RECOVERY_TIMEOUT. -/
def execPortRecoveryTimeout (port : Nat) (s : State) : Host.Outcome State Fault Refusal :=
  let x := s.port port
  match x.downAt with
  | some d => .next (if x.st = 3 && d + recoveryTicks ≤ s.now then s.portLost port else s)
  | none => .next s

/-- The EN bit of PCTL: a port that is off or lost begins training with fresh sequence numbers; clearing EN takes it down or off. -/
def State.portEnable (s : State) (p : Nat) (en : Bool) : State :=
  let x := s.port p
  let s1 := s.modPort p (fun y => { y with en := en })
  if en && (x.st = 0 || x.st = 4) then s1.modPort p (fun y => { y with st := 1, rxNext := 0, txNext := 0, run := 0, paused := [], told := 0, rx := [] })
  else if !en && x.st = 1 then s1.modPort p (fun y => { y with st := 0 })
  else if !en && x.st = 2 then s1.portDown p 5
  else s1

end Sys2Proof.Machine
end

