-- ==== Sys2Proof/Machine/Errors.lean ====
section
/-!
DEFINITION. The trace ring and the gating of a section (R352, R455), corrected and uncorrectable storage errors (R414, R415), block kills
(R416, R419) and error-rate windows (R457).
-/
namespace Sys2Proof.Machine

/-! ## The trace ring (R352, R454, R455) -/

/-- 64-byte units that the trace ring holds. -/
def Section.ringSize (x : Section) : Nat := x.trsize.toNat * 2 ^ 24

def Section.ringRoom (x : Section) : Nat := x.ringSize - (x.trput - x.trget).toNat

/-- Writes one 64-byte unit to the trace ring. -/
def State.traceWrite (s : State) (h : Nat) (f : List Byte) : State :=
  let x := s.sect h
  (s.physWrite (x.trbase.toNat + 64 * (x.trput.toNat % max 1 x.ringSize)) f).modSect h (fun y => { y with trput := y.trput + 1 })

/-- Drains what the ring has room for, oldest first. -/
def State.drain (s : State) (h : Nat) : State :=
  let x := s.sect h
  let n := min x.ringRoom x.buffer.length
  ((x.buffer.take n).foldl (fun (u : State) f => u.traceWrite h f) s).modSect h (fun y => { y with buffer := y.buffer.drop n })

/-- The gate frame (R455). -/
def gateFrame (lost : Nat) (time : DWord) : List Byte := leBytes 1 3 ++ leBytes 3 0 ++ leBytes 4 lost ++ leBytes 8 time.toNat ++ leBytes 48 0

/-- The section is gated: the frames that remain are discarded, and its hub writes the gate frame. -/
def State.gate (s : State) (h : Nat) : State :=
  let n := (s.sect h).buffer.length
  let s1 := (s.modSect h (fun y =>
    { y with buffer := [], gating := none, gated := true, gateFrames := y.gateFrames ++ [gateFrame n s.time],
             trlost := BitVec.ofNat 64 (min (2 ^ 64 - 1) (y.trlost.toNat + n)) }))
  (s1.bbox (hubDie h) 0xD 0 0 (BitVec.ofNat 32 n) (s1.sect h).trlost 0).soon (.gateFrameWrite h)

/-- TRACE_DRAIN; a section that waits to be gated is gated once its buffer is empty. -/
def execTraceDrain (section_ : Nat) (s : State) : Host.Outcome State Fault Refusal :=
  let s1 := s.drain section_
  let x := s1.sect section_
  .next (if x.gating.isSome && x.buffer.isEmpty then s1.gate section_ else s1)

/-- SECTION_GATE: management asks for the gate. -/
def execSectionGate (section_ : Nat) (s : State) : Host.Outcome State Fault Refusal :=
  let x := s.sect section_
  if x.gated || x.gating.isSome then .next s
  else .next (((s.modSect section_ (fun y => { y with gating := some s.now })).soon (.traceDrain section_)).schedule (50 * usTicks)
    (.event (.traceGateTimeout section_)))

/-- TRACE_GATE_TIMEOUT. -/
def execTraceGateTimeout (section_ : Nat) (s : State) : Host.Outcome State Fault Refusal :=
  match (s.sect section_).gating with
  | some t => .next (if t + 50 * usTicks ≤ s.now then s.gate section_ else s)
  | none => .next s

/-- GATE_FRAME_WRITE: the gate frames wait for room in the ring, and are written in their order. -/
def execGateFrameWrite (section_ : Nat) (s : State) : Host.Outcome State Fault Refusal :=
  let x := s.sect section_
  .next (((x.gateFrames.take x.ringRoom).foldl (fun (u : State) f => u.traceWrite section_ f) s).modSect section_ (fun y =>
    { y with gateFrames := y.gateFrames.drop x.ringRoom }))

/-- SECTION_UNGATE. -/
def execSectionUngate (section_ : Nat) (s : State) : Host.Outcome State Fault Refusal :=
  let s1 := s.modSect section_ (fun y => { y with gated := false, gating := none })
  .next ((List.range 6).foldl State.pokeWalk s1)

/-! ## Error-rate windows (R457) -/

/-- ERROR_RATE_WINDOW: a rising window warns; while an automatic cut is pending it only sets RISING. -/
def execErrorRateWindow (section_ : Nat) (s : State) : Host.Outcome State Fault Refusal :=
  let x := s.sect section_
  let rising := x.cethr ≠ 0 && x.cethr.toNat < x.window
  let s1 := s.modSect section_ (fun y => { y with window := 0, warn := if rising then y.warn ||| 1 else y.warn })
  let s2 :=
    if !rising || s.sections.any (fun y => y.autoPending) then s1
    else ((s1.modSect section_ (fun y => { y with autoPending := y.warn.getLsbD 1 })).bbox (hubDie section_) 0xE 0 0 (BitVec.ofNat 32 x.window) x.cecnt 0).msix
      (field x.warn 14 9)
  .next (s2.schedule (1000 * usTicks) (.event (.errorRateWindow section_)))

/-! ## Repair of a stamp (R415) -/

/-- The hub's settle clock takes HW; the value settles the stamp. -/
def State.repairClock (s : State) (h : Nat) : State := s.modHub h (fun u => { u with sc := u.hw })

def State.repairHome (s : State) (l : LineId) : State :=
  let s1 := s.repairClock l.hub
  s1.modHome l (fun y => { y with stamp := settledStamp (s1.hub l.hub).sc })

def State.repairL1 (s : State) (n : Nat) (l : LineId) : State :=
  let s1 := s.repairClock (coreSection n)
  s1.modL1 n l (fun y => { y with stamp := settledStamp (s1.hub (coreSection n)).sc, readDirty := true })

/-- Repairs scratchpad line `line` of a block. -/
def State.repairPad (s : State) (b : BRef) (n line : Nat) : State :=
  let s1 := s.repairClock (coreSection n)
  s1.modBlock b (fun x => { x with stamps := (line, settledStamp (s1.hub (coreSection n)).sc) :: x.stamps.filter (fun y => y.1 != line) })

/-! ## Memory poison (R414) -/

/-- The home line is memory-poisoned: no byte has been written since. -/
def State.poisonHome (s : State) (l : LineId) (unit : Nat) : State := s.modHome l (fun y => { y with bad := some 0, badUnit := unit })

/-- A combine buffer or spill entry is lost. -/
def State.losePartial (s : State) (l : LineId) : State :=
  let h := s.homeLine l
  let s1 := (s.modHome l (fun y => { y with uo := none, spilled := false })).poisonHome l 3
  if h.spilled then (s1.modHub l.hub (fun u => { u with spill := u.spill + 1 })).spillFreed else s1

/-- An uncorrectable error in a core's copy of a line: a Shared copy goes, any other takes its bytes or partial with it. -/
def State.loseL1 (s : State) (n : Nat) (l : LineId) : State :=
  match s.l1Line n l with
  | none => s
  | some x =>
    match x.st with
    | .shared => s.dropL1 n l
    | .dirty => (s.removeL1 n l).poisonHome l 4
    | .updateOnly => ((s.modHome l (fun y => { y with holders := y.holders.filter (· != n) })).removeL1 n l).poisonHome l 4

/-! ## Block kills (R416, R419) -/

/-- The kill of a block takes in its section group (R416): it is a gang member, or its group declares a section barrier. -/
def LaunchP.killsGroup (p : LaunchP) : Bool := (p.grows ≠ 0 && p.gcols ≠ 0) || p.spart.any (fun n => n != 0)

/-- The blocks that a kill of `b` takes in. -/
def State.killed (s : State) (b : BRef) : List (BRef × Block) :=
  match s.group? b.g, s.launchOf b.g with
  | some g, some l =>
    let all := l.p.killsGroup || g.st == .saving || g.st == .restoring
    (g.blocks.mapIdx (fun k (x : Block) => ((⟨b.g, k⟩ : BRef), x))).filter (fun x => !x.2.ended && (all || x.1.k == b.k))
  | _, _ => []

/-- A block that starts again in place, as a new placement; it stands stopped where its context is halted, and a trigger that is under way reaches it (R343). -/
def State.relaunch (s : State) (l : Launch) (b : BRef) (x : Block) : State :=
  let spot : Spot := ⟨x.core, x.base, x.crews.map (fun c => c.slot)⟩
  let stopped := (s.asid l.asid).halt || (s.dbg.halted && s.dbg.asid == l.asid)
  let new := Block.launched l.p spot (s.core x.core).places (s.floorOf (coreSection x.core)) l.lb
  let s1 := s.modBlock b (fun _ => { new with kills := x.kills + 1, stop := if stopped then .halted else StopSt.run })
  let s2 := s1.modCore x.core (fun c => { c with places := c.places + 1 })
  if s.dbg.trigger.isSome && s.dbg.asid == l.asid && !stopped then s2.triggerSoon x.core else s2

/-- The fault log record of a kill, ESTAT bit 4 and the black-box entry. -/
def State.killRecord (s : State) (l : Launch) (b : BRef) (x : Block) (unit : Nat) (again : Bool) : State :=
  let h := coreSection x.core
  let detail := 16 * unit + (if again then 2 ^ 15 else 0)
  let cause := mkCause 2 0xC detail false false
  let low := ((x.crews.head?).map (fun c => identity s.chip h (x.core % 96) c.slot 0)).getD 0
  ((s.modSect h (fun y => { y with estat := y.estat ||| 16 })).faultLog l.asid h
    (faultRecord cause 0 l.seq (s.blockIndex b) 0 low 0 0 0 0 s.time)).bbox (coreDie x.core) 0xA (x.core % 32) l.asid (BitVec.ofNat 32 detail)
      (BitVec.ofNat 64 (s.blockIndex b)) 0

/-- Staged contributions of blocks that are gone never commit (R441). -/
def State.dropStaged (s : State) (bs : List (BRef × Block)) : State :=
  let dead := fun (k : ChunkKey) => k.chip == s.chip && bs.any (fun b => b.2.cmds.any (fun c => c.id == k.cmd))
  { s with l3 := s.l3.map (fun (h : HomeLine) => { h with staged := h.staged.filter (fun t => !dead t.1) }),
           peerChunks := s.peerChunks.filter (fun (p : PeerChunk) => !bs.any (fun b => b.1 == p.b)) }

/-- Kills blocks whose accesses and operations are still: what their cores hold goes home, their resources return, and they start again in
place or halt their context. -/
def State.doKill (s : State) (b : BRef) (unit : Nat) : State :=
  match s.block? b, s.group? b.g, s.launchOf b.g with
  | some x0, some g, some l =>
    let ks := s.killed b
    let again := l.p.idem && recordMode l.p.modes == 0 && ks.all (fun k => !k.2.gridArrived && k.2.kills < 3)
    let s1 := (ks.foldl (fun (u : State) k => (u.releaseL1 k.2.core).freeBlock k.1) s).dropStaged ks
    let whole := ks.length == (g.blocks.filter (fun y => !y.ended)).length
    let s2 := if whole then s1.modGroup b.g (fun y => { y with st := .resident, since := s.time, storing := false, stopPkt := none, savedOps := [], savedSlots := [], savedAccs := [],
                                                                bars := List.replicate 8 Barrier.reset }) else s1
    let s3 := s2.killRecord l b x0 unit again
    if again then ks.foldl (fun (u : State) k => u.relaunch l k.1 k.2) s3
    else
      let s4 := ks.foldl (fun (u : State) k => u.modBlock k.1 (fun y => { y with ended := true })) s3
      let s5 := if ((s4.group? b.g).map (fun y => y.blocks.all (fun z => z.ended))).getD false then
        { s4 with groups := s4.groups.filter (fun y => y.gid != b.g) } else s4
      s5.haltContext l.asid l.cox none
  | _, _, _ => s

/-- The kill proceeds once the blocks have stopped as at pre-emption, and looks again each cycle. -/
def State.killStep (s : State) (b : BRef) (unit : Nat) : State :=
  let ks := s.killed b
  if ks.all (fun k => !s.stands b.g || s.blockStill k.1 k.2) then s.doKill b unit else s.schedule 10 (.tick (.kill b unit))

/-- A block is to be killed: it stops. -/
def State.beginKill (s : State) (b : BRef) (unit : Nat) : State :=
  ((s.killed b).foldl (fun (u : State) k =>
    if k.2.stop != .run || !s.stands b.g then u else (u.unwindBlock k.1).modBlock k.1 (fun y => { y with stop := .latched [] })) s).killStep b unit

/-! ## Detection (R414) -/

/-- Of the crews listed the first one's block, where it stands on core `n`. -/
def State.savedOn (s : State) (n : Nat) (cs : List CRef) : Option BRef :=
  (cs.find? (fun c => ((s.block? c.block).map (fun b => b.core == n)).getD false)).map (fun c => c.block)

/-- The block that owns what failed on core `n`: scratchpad byte (unit 5), crew slot (6), operand slot, or accumulator from 1,024 up (7), those of a group that is
being saved with them (R419). -/
def State.ownerOf (s : State) (n unit x : Nat) : Option BRef :=
  if unit = 7 then
    let c := s.core n
    let saving := s.groups.filter (fun g => g.st == .saving)
    if x < 1024 then ((c.slots.find? (fun y => y.num == x)).map (fun y => y.owner.block)).or
      (s.savedOn n (saving.flatMap (fun g => (g.savedSlots.filter (fun y => y.num == x)).map (fun y => y.owner))))
    else ((c.accs.find? (fun y => y.num == x - 1024)).map (fun y => y.owner.block)).or
      (s.savedOn n (saving.flatMap (fun g => (g.savedAccs.filter (fun y => y.num == x - 1024)).map (fun y => y.owner))))
  else
    (s.allBlocks.find? (fun b => b.2.core == n && !b.2.ended && ((s.group? b.1.g).map Group.placed).getD false &&
      (if unit = 5 then 4096 * b.2.base ≤ x && x < 4096 * b.2.base + s.padBytes b.1.g
       else b.2.crews.any (fun c => c.slot == x && !c.released)))).map (fun b => b.1)

/-- The place on a core that `where_` names: the core of the section, and the place behind it. -/
def errCore (section_ where_ : Nat) : Nat × Nat := (96 * section_ + where_ % 128 % 96, where_ / 128)

/-- EADDR of an uncorrectable error. -/
def errAddr (unit where_ : Nat) : DWord := BitVec.ofNat 64 (unit % 16 * 2 ^ 48 + (if unit ≤ 3 then where_ % 2 ^ 48 else where_ % 128))

/-- The handling of an uncorrectable error by unit (Table 3 of 22_memory_faults.md). -/
def State.errUnit (s : State) (section_ unit where_ : Nat) : State :=
  let c := errCore section_ where_
  let line := lineOf (if unit ≤ 3 then where_ else if unit = 9 then c.2 / 2 else c.2)
  match unit, line with
  | 0, some l => s.poisonHome l.1 0
  | 1, some l => s.poisonHome l.1 1
  | 2, some l => s.repairHome l.1
  | 3, some l => s.losePartial l.1
  | 4, some l => s.loseL1 c.1 l.1
  | 8, _ => s.modCore c.1 (fun k => { k with icache := k.icache.filter (fun y => y.va.toNat != c.2) })
  | 9, l =>
    if c.2 % 2 = 0 then (match l with
      | some x => s.repairL1 c.1 x.1
      | none => s)
    else (match s.ownerOf c.1 5 (128 * (c.2 / 2)) with
      | some b => s.repairPad b c.1 (c.2 / 2 - 32 * (((s.block? b).map (fun x => x.base)).getD 0))
      | none => s)
  | _, _ => match s.ownerOf c.1 unit c.2 with
    | some b => s.beginKill b unit
    | none => s

/-- MEMORY_ERROR_DETECT. `where_`: the physical address for units 0 to 3; else the core in bits 6:0 and, above, the PA of the line (unit 4;
unit 9 with bit 7 clear and the PA from bit 8), the scratchpad line of the core (unit 9 with bit 7 set), the scratchpad byte (5), the crew
slot (6), the slot or accumulator (7), the VA of the fetch block (8). -/
def execMemoryErrorDetect (section_ unit where_ : Nat) (correctable : Bool) (s : State) : Host.Outcome State Fault Refusal :=
  if correctable then .next (s.modSect section_ (fun y => { y with cecnt := y.cecnt + 1, window := y.window + 1 }))
  else
    let a := errAddr unit where_
    let bit : DWord := if unit = 2 || unit = 9 then 2 else 1
    let s1 := (s.modSect section_ (fun y => { y with uecnt := y.uecnt + 1, eaddr := a, estat := y.estat ||| bit })).bbox (if unit ≤ 3 then hubDie section_ else coreDie (errCore section_ where_).1) 9
      (if unit ≤ 3 then 0 else (errCore section_ where_).1 % 32) 0
      (BitVec.ofNat 32 (unit % 16)) a 0
    .next (s1.errUnit section_ unit where_)

end Sys2Proof.Machine
end

