-- ==== Sys2Proof/Machine/Registers.lean ====
section
/-!
DEFINITION. What host software writes: the BAR 0 registers (R9 to R15, R317) with their own behaviour: queues and cox programs (R298, R305,
R307, R446), the fault state of a context (R389, R390, R453), the recorders (R330, R333), the debug block (R341 to R348), and the rest under
their access kinds.
-/
namespace Sys2Proof.Machine

/-- Recovery holds BAR 0 and BAR 2 (R467): boot ROM waits for a good image. -/
def State.inRecovery (s : State) : Bool := s.boot.rcvState ≠ 0 && !s.boot.firmware

/-- A write of `v` to the BAR 0 register at `off`, whose effect is `f`: a release of the host identity (R423); it is lost while the link is down (R465), no register
outside recovery's own answers in recovery (R467), and it waits for what the link delivered before it (R315). -/
def State.barWrite (s : State) (off : Nat) (v : DWord) (f : State → State) : State :=
  if !s.linkUp then s
  else if s.inRecovery then s.hostRelease
  else if s.hostHeld.isEmpty then f s.hostRelease
  else { s with hostHeld := s.hostHeld ++ [.register off v] }

/-- The BAR 0 offset of a register of a context's block (Table 7 of 14_queues_host_fabric.md). -/
def ctxOff (x : CoxId) (o : Nat) : Nat := 0x100000 + 0x1000 * (16 * x.hub + x.ctx) + o

/-! ## Queues (R298, R423) -/

/-- QWRITE: the index is published to the handle's WRITE as a release of the host identity; ignored for a device queue. -/
def State.writeQwrite (s : State) (x : CoxId) (v : DWord) : State :=
  if (s.cox x).kind then s.hostRelease
  else
    let s1 := s.modCox x (fun c => { c with qwrite := v, pubs := c.pubs ++ [(v, s.hostS)] })
    let va := (s.cox x).qhandle + 16
    let r := s1.unitWord s1.hostParty (s1.ctxAsid x) va (.store true) 4 1 v
    match r.2.2 with
    | .inl f => (r.1.hostRelease).stopPacket x 0x15 f.code va
    | .inr _ => (r.1.keepHostClk r.2.1).coxLook x

/-- QWRITE_WRITE. -/
def execQwriteWrite (x : CoxId) (v : DWord) (s : State) : Host.Outcome State Fault Refusal :=
  .next (if !s.linkUp then s
    else if s.inRecovery then s.hostRelease
    else if s.hostHeld.isEmpty then s.writeQwrite x v
    else { s with hostHeld := s.hostHeld ++ [.register (ctxOff x 0x10) v] })

/-! ## The checker of cox programs (R307, R446) -/

/-- A write of PROG while EN is 0 starts the checker with the record that CTXREC names. -/
def State.writeProg (s : State) (x : CoxId) (v : DWord) : State :=
  if (s.cox x).en then s
  else (s.modCox x (fun c => { c with prog := v, loaded := false, launches := 0, checking := some (v, c.ctxrec) })).soon (.progCheckComplete x)

/-- PROG_WRITE. -/
def execProgWrite (x : CoxId) (v : DWord) (s : State) : Host.Outcome State Fault Refusal := .next (s.barWrite (ctxOff x 0x20) v (fun u => u.writeProg x v))

/-- LOOP and ENDL pair up properly: none closes what is not open, none stays open, at most 3 deep. -/
def loopsPair : Nat → List Instr → Bool
  | d, [] => d == 0
  | d, .coxLoop imm :: is => d < 3 && 1 ≤ imm.toNat % 512 && imm.toNat % 512 ≤ 256 && loopsPair (d + 1) is
  | d, .coxEndl :: is => 0 < d && loopsPair (d - 1) is
  | d, _ :: is => loopsPair d is

/-- The branch offset of an instruction. -/
def branchImm : Instr → Option (BitVec 14)
  | .coxBeq _ _ i => some i
  | .coxBne _ _ i => some i
  | .coxBltu _ _ i => some i
  | _ => none

/-- The window and the permissions (read, write) that a format M instruction needs. -/
def windowUse : Instr → Option (Nat × Bool × Bool)
  | .coxLdw _ _ w _ => some (w.toNat, true, false)
  | .coxStw _ _ w _ => some (w.toNat, false, true)
  | .coxAtadd _ _ w _ => some (w.toNat, true, true)
  | _ => none

/-- The bodies (LOOP positions) that hold instruction `i`; a target past the last lies in none. -/
def bodiesAt (code : List Instr) (i : Nat) : List Nat :=
  if code.length ≤ i then [] else
  (List.range i).foldl (fun (st : List Nat) j => match code[j]? with
    | some (Instr.coxLoop _) => j :: st
    | some Instr.coxEndl => st.drop 1
    | _ => st) []

/-- Instruction `i` passes the checks of R307 that concern it alone. -/
def instrGood (code : List Instr) (ws : List Window) (i : Nat) (a : Instr) : Bool :=
  (match branchImm a with
   | none => true
   | some imm =>
     let t := i + 1 + imm.toNat
     decide (0 ≤ imm.toInt) && decide (t ≤ code.length) && (bodiesAt code t).all (fun b => (bodiesAt code i).contains b))
  && (match windowUse a with
   | none => true
   | some (w, r, wr) => (match ws[w]? with
     | some d => (!r || d.rd) && (!wr || d.wr)
     | none => false))

/-- The first instruction at which the pairing of loops fails: a LOOP or ENDL that breaks it, or the last where a LOOP stays open. -/
def loopFail (code : List Instr) : Option Nat :=
  if loopsPair 0 code then none
  else match (List.range code.length).find? (fun i => !(List.range 4).any (fun k =>
      loopsPair 0 ((code.take (i + 1)) ++ List.replicate k Instr.coxEndl))) with
    | some i => some i
    | none => some (code.length - 1)

/-- A window declaration of an image. -/
def windowAt (bs : List Byte) (w : Nat) : Window × Bool :=
  let at_ := fun (off n : Nat) => leNat ((bs.drop (16 + 16 * w + off)).take n)
  let b := at_ 8 1
  (⟨BitVec.ofNat 64 (at_ 0 8), b % 64, b.testBit 6, b.testBit 7⟩, 3 ≤ b % 64 && b % 64 ≤ 30)

/-- What the checker makes of an image: the index of its first failing instruction, be it that its word is none or that it fails another check of R307 (0x7FF for
the header), or its code and windows. A word that is no instruction opens and closes no loop. -/
def checkImage (bs : List Byte) : Nat ⊕ (List Word × List Window) :=
  let n := leNat (bs.take 2)
  let nw := leNat ((bs.drop 2).take 1)
  let ws := (List.range nw).map (windowAt bs)
  if n = 0 || 1024 < n || 8 < nw || ws.any (fun w => !w.2) then .inl 0x7FF
  else
    let words := (List.range n).map (fun i => BitVec.ofNat 32 (leNat ((bs.drop (144 + 4 * i)).take 4)))
    let decls := ws.map (fun w => w.1)
    let code := words.map (fun w => (decodeCox w).getD .coxHalt)
    let bad := (List.range n).filter (fun i => match words[i]?, code[i]? with
      | some w, some a => (decodeCox w).isNone || !instrGood code decls i a
      | _, _ => true)
    match (bad ++ (loopFail code).toList).foldl (fun (m : Option Nat) i => some (min i (m.getD i))) none with
    | some i => .inl i
    | none => .inr (words, decls)

/-- PROGCHK (R446): one record and MSIV; LOADED stays clear. -/
def State.progBad (s : State) (x : CoxId) (asid : BitVec 16) (index code : Nat) (va : DWord) : State :=
  let cause := mkCause 4 0x14 (index + 2 ^ 12 * code) false false
  let bytes := faultRecord cause 0 0 0 0 (s.coxIdent x false) 0 0 va (s.cox x).qread s.time
  (s.faultLog asid x.hub bytes).msix ((s.cox x).msiv.toNat % 64)

/-- PROG_CHECK_COMPLETE: the checker has read the image once, and keeps its instructions and windows where it is good. -/
def execProgCheckComplete (x : CoxId) (s : State) : Host.Outcome State Fault Refusal :=
  match (s.cox x).checking with
  | none => .next s
  | some (va, rec_) =>
    let asid := BitVec.ofNat 16 (s.physNat rec_.toNat 2)
    let s0 := s.modCox x (fun c => { c with checking := none })
    let h := s0.unitRead (s0.coxParty x) asid va 144 (.load false false) 3
    let s1 := h.1.keepCox x false h.2.1
    match h.2.2 with
    | .inl f => .next (s1.progBad x asid 0x7FF f.1.code f.2)
    | .inr head =>
      let n := min 1024 (leNat (head.take 2))
      let r := s1.unitRead (s1.coxParty x) asid (va + 144) (4 * n) (.load false false) 3
      let s2 := r.1.keepCox x false r.2.1
      match r.2.2 with
      | .inl f => .next (s2.progBad x asid 0x7FF f.1.code f.2)
      | .inr body =>
        if va.toNat % 64 ≠ 0 then .next (s2.progBad x asid 0x7FF 0 va)
        else match checkImage (head ++ body) with
          | .inl i => .next (s2.progBad x asid i 0 va)
          | .inr (code, ws) =>
            .next (s2.modCox x (fun c => { c with loaded := true, code := code, windows := ws, x := List.replicate 16 0, pc := 0, loops := [] }))

/-! ## QCTL (R305, R317, R318, R470) -/

/-- The records bound by the contexts that serve. -/
def State.boundRecs (s : State) : List DWord := ((s.coxes.filter (fun c => c.en)).filterMap (fun c => c.bound)).eraseDups

/-- EN takes effect in the context: the self-test has passed or it is the firmware context. -/
def State.mayEnable (s : State) (x : CoxId) : Bool := s.boot.tested || x == ⟨0, 15⟩

/-- A write of QCTL with EN 1: KIND is taken while EN is 0, then EN where it may take effect; a context that a fault of its own stopped
resumes at READ (R318, R445; log entry 64). -/
def State.enSet (s : State) (x : CoxId) (v : DWord) : State :=
  let c := s.cox x
  if c.en then
    if c.state = 4 && !c.haltStop then
      let halted := (s.asid (s.ctxAsid x)).halt
      (s.modCox x (fun y => { y with haltStop := halted, state := if halted then 4 else 1, wait := .none })).coxLook x
    else s
  else
    let s1 := s.modCox x (fun y => { y with kind := v.getLsbD 1 })
    if !c.loaded || !s.mayEnable x then s1
    else if !s.boundRecs.contains c.ctxrec && 256 ≤ s.boundRecs.length then s1.modCox x (fun y => { y with norec := true })
    else
      let halted := (s.asid (BitVec.ofNat 16 (s.physNat c.ctxrec.toNat 2))).halt
      let idle := c.state = 0 || c.state = 4
      (s1.modCox x (fun y =>
        { y with en := true, norec := false, bound := some c.ctxrec, haltStop := idle && halted,
                 state := if idle then (if halted then 4 else 1) else y.state, wait := if idle then .none else y.wait })).coxLook x

/-- A write of QCTL with EN 0. -/
def State.enClear (s : State) (x : CoxId) (v : DWord) : State :=
  let c := s.cox x
  if !c.en then s.modCox x (fun y => { y with kind := v.getLsbD 1 })
  else
    let busy := c.state = 2 || c.state = 3
    s.modCox x (fun y => { y with en := false, state := if y.state = 1 then 0 else y.state, bound := if busy then y.bound else none })

/-- QCTL_EN_SET. -/
def execQctlEnSet (x : CoxId) (v : DWord) (s : State) : Host.Outcome State Fault Refusal := .next (s.barWrite (ctxOff x 0) (v ||| 1) (fun u => u.enSet x v))

/-- QCTL_EN_CLEAR. -/
def execQctlEnClear (x : CoxId) (v : DWord) (s : State) : Host.Outcome State Fault Refusal := .next (s.barWrite (ctxOff x 0) (v &&& ~~~(1 : DWord)) (fun u => u.enClear x v))

/-! ## TINV and CTXREC (R317, R389) -/

def State.writeTinv (s : State) (x : CoxId) (v : DWord) : State :=
  if v.getLsbD 0 && !(s.cox x).tinv then (s.modCox x (fun c => { c with tinv := true })).soon (.tinvDone x) else s

/-- TINV_WRITE. -/
def execTinvWrite (x : CoxId) (v : DWord) (s : State) : Host.Outcome State Fault Refusal := .next (s.barWrite (ctxOff x 0x30) v (fun u => u.writeTinv x v))

/-- TINV_DONE: no core holds a translation of the ASID any more. -/
def execTinvDone (x : CoxId) (s : State) : Host.Outcome State Fault Refusal :=
  if !(s.cox x).tinv then .next s
  else
    let a := s.ctxAsid x
    .next ({ s with cores := s.cores.map (fun (c : Core) => { c with tlb := c.tlb.filter (fun e => e.asid != a) }) }.modCox x (fun c => { c with tinv := false }))

def State.writeCtxrec (s : State) (x : CoxId) (v : DWord) : State :=
  if (s.cox x).en then s
  else
    let s1 := s.modCox x (fun c => { c with ctxrec := v })
    s1.modAsid (BitVec.ofNat 16 (s1.physNat v.toNat 2)) (fun a => { a with flogput := 0 })

/-- CTXREC_WRITE. -/
def execCtxrecWrite (x : CoxId) (v : DWord) (s : State) : Host.Outcome State Fault Refusal := .next (s.barWrite (ctxOff x 0x28) v (fun u => u.writeCtxrec x v))

/-! ## FSTAT (R390, R453) -/

/-- The cox contexts that the halt stopped take packets again. -/
def State.wakeCoxes (s : State) (a : BitVec 16) : State :=
  (s.coxes.filter (fun c => c.haltStop && s.ctxAsid c.id == a)).foldl (fun (u : State) c =>
    (u.modCox c.id (fun y => { y with haltStop := false, state := if y.state = 4 then (if y.en then 1 else 0) else y.state })).coxLook c.id) s

def State.pokeWalks (s : State) : State := (List.range 6).foldl State.pokeWalk s

/-- After a divergence the context runs free: its recorders are idle and its threads wait for no record. -/
def State.freeRun (s : State) (a : BitVec 16) : State :=
  if !(s.hubs.any (fun h => h.recd.diverged && h.recd.state == 2)) then s
  else if !s.launches.any (fun l => l.isOpen && l.asid == a && recordMode l.p.modes == 2) then s
  else
    let s1 : State := { s with hubs := s.hubs.map (fun (h : Hub) => { h with recd := { h.recd with state := 0, replay := [], diverged := false } }) }
    (s1.allBlocks.filter (fun b => s1.asidOf b.1.g == a)).foldl (fun (u : State) b => u.modBlock b.1 (fun (x : Block) =>
      { x with crews := x.crews.map (fun c => { c with threads := c.threads.map (fun (t : Thread) =>
          { t with grant := none, wait := if t.wait = .replay then .none else t.wait }) }) })) s1

/-- Writing 1 to HALT: every stopped block goes on from its boundary. -/
def State.resumeContext (s : State) (a : BitVec 16) : State :=
  if !(s.asid a).halt then s
  else
    let s1 := (s.freeRun a).modAsid a (fun y => { y with halt := false })
    let s2 : State := if s1.dbg.asid = a then { s1 with dbg := { s1.dbg with halted := false } } else s1
    let s3 := (s2.allBlocks.filter (fun b => s2.asidOf b.1.g == a && !b.2.ended)).foldl (fun (u : State) b => u.resumeBlock b.1) s2
    (s3.wakeCoxes a).pokeWalks

/-- A killed block ends at once, as at block end (R134, R269). -/
def State.endBlockNow (s : State) (b : BRef) (x : Block) : State :=
  if x.ended || !((s.group? b.g).map Group.placed).getD false then s else (s.releaseL1 x.core).freeBlock b

/-- Writing 1 to KILL: every block of the context ends, its unplaced groups are discarded, and its launches are complete. -/
def State.killContext (s : State) (a : BitVec 16) : State :=
  if !(s.asid a).halt then s
  else
    let s0 := s.freeRun a
    let mine := s0.allBlocks.filter (fun b => s0.asidOf b.1.g == a)
    let s1 := mine.foldl (fun (u : State) b => u.endBlockNow b.1 b.2) s0
    let ls := (s1.launches.filter (fun l => l.asid == a && l.isOpen)).map (fun l => l.idx)
    let gone := fun (e : WEntry) => match e with
      | .launch i => ls.contains i
      | .saved g => ((s1.group? g).map (fun y => ls.contains y.launch)).getD true
    let heads := (s1.reserved.map (fun r => r.head)).filter gone
    let s2 := heads.foldl State.endReservation { s1 with waiting := s1.waiting.map (fun w => w.filter (fun e => !gone e)) }
    let s3 : State := { s2.dropStaged mine with groups := s2.groups.filter (fun (g : Group) => !ls.contains g.launch) }
    let s4 := ls.foldl State.closeLaunch s3
    let s5 := s4.modAsid a (fun y => { y with halt := false })
    let s6 : State := if s5.dbg.asid = a then { s5 with dbg := { s5.dbg with halted := false } } else s5
    (s6.wakeCoxes a).pokeWalks

/-- A write of FSTAT. -/
def State.writeFstat (s : State) (x : CoxId) (v : DWord) : State :=
  let a := s.ctxAsid x
  if v.getLsbD 1 then s.killContext a else if v.getLsbD 0 then s.resumeContext a else s

/-- FSTAT_HALT_WRITE. -/
def execFstatHaltWrite (x : CoxId) (s : State) : Host.Outcome State Fault Refusal := .next (s.barWrite (ctxOff x 0x48) 1 (fun u => u.writeFstat x 1))

/-- FSTAT_KILL_WRITE. -/
def execFstatKillWrite (x : CoxId) (s : State) : Host.Outcome State Fault Refusal := .next (s.barWrite (ctxOff x 0x48) 2 (fun u => u.writeFstat x 2))

/-! ## The race log (R430) -/

def State.writeRlogbase (s : State) (x : CoxId) (v : DWord) : State :=
  s.modAsid (s.ctxAsid x) (fun a => { a with rlogbase := v, rlogput := 0 })

/-- RLOGBASE_WRITE. -/
def execRlogbaseWrite (x : CoxId) (v : DWord) (s : State) : Host.Outcome State Fault Refusal := .next (s.barWrite (ctxOff x 0x50) v (fun u => u.writeRlogbase x v))

/-! ## Recorders (R330, R333, R335, R449) -/

/-- Software consumes blocks: the records that waited are written as far as room allows. -/
def State.writeRrget (s : State) (h : Nat) (v : DWord) : State :=
  let s1 := s.modHub h (fun u => { u with recd := { u.recd with rrget := v } })
  if (s1.hub h).recd.held.isEmpty then s1 else s1.flushHeld h (s1.hub h).recd.held

/-- RRGET_WRITE. -/
def execRrgetWrite (hub : Nat) (v : DWord) (s : State) : Host.Outcome State Fault Refusal := .next (s.barWrite (0x200000 + 256 * hub + 0x18) v (fun u => u.writeRrget hub v))

/-- A recorder register at offset `off` of its block. -/
def State.writeRecorder (s : State) (h off : Nat) (v : DWord) : State :=
  let set := fun (f : Recorder → Recorder) => s.modHub h (fun u => { u with recd := f u.recd })
  let idle := (s.hub h).recd.state == 0
  match off with
  | 0x00 => if idle then set (fun r => { r with rrbase := v }) else s
  | 0x08 => if idle && 1 ≤ v.toNat % 256 && v.toNat % 256 ≤ 64 then set (fun r => { r with rrsize := v.extractLsb' 0 8 }) else s
  | 0x10 =>
    let s1 := set (fun r => { r with rrput := v })
    if (s.hub h).recd.state = 2 then s1.schedule 0 (.event (.frontierUpdate h)) else s1
  | 0x18 => s.writeRrget h v
  | 0x28 => set (fun r => { r with rbsel := v })
  | 0x30 => set (fun r => { r with rbchk := v &&& 0x3FFFFFFFF#64 })
  | 0x38 => set (fun r => { r with divaddr := v })
  | 0x40 => set (fun r => { r with rrstat := r.rrstat &&& ~~~v })
  | _ => s

/-! ## The debug block (R341 to R348) -/

/-- STOPBASE. -/
def State.writeStopbase (s : State) (v : DWord) : State := { s with dbg := { s.dbg with stopbase := v, stopput := 0 } }

/-- STOPBASE_WRITE. -/
def execStopbaseWrite (v : DWord) (s : State) : Host.Outcome State Fault Refusal := .next (s.barWrite 0x310008 v (fun u => u.writeStopbase v))

/-- RESUME: halted blocks go on from their boundaries (R344); while HALTED is 0 there are blocks of the context that have not halted, and they
go on to their stops; the trigger is over once it has reached every core. -/
def State.debugResume (s : State) : State :=
  if (s.asid s.dbg.asid).halt then s
  else
    let s1 := if s.dbg.halted then { s with dbg := { s.dbg with halted := false, trigger := none } } else s
    let s2 := (s1.allBlocks.filter (fun b => s1.asidOf b.1.g == s1.dbg.asid && !b.2.ended && b.2.stop == .halted)).foldl
      (fun (u : State) b => u.resumeBlock b.1) s1
    ((List.range 6).foldl (fun (u : State) h => if (u.hub h).recd.state = 2 then u.schedule 0 (.event (.frontierUpdate h)) else u) s2.endTrigger).pokeWalks

/-- A write of DBGCTL: its fields, then STOP, then RESUME. -/
def State.writeDbgctl (s : State) (v : DWord) : State :=
  let d := s.dbg
  let s1 := { s with dbg := { d with bpen := v.getLsbD 0, wpen := v.extractLsb' 4 4, asid := if d.halted then d.asid else v.extractLsb' 32 16 } }
  let s2 := if v.getLsbD 1 then s1.raiseTrigger none 3 true else s1
  if v.getLsbD 2 then s2.debugResume else s2

/-- DBGCTL_STOP: `v` is the value written, with STOP set. -/
def execDbgctlStop (v : DWord) (s : State) : Host.Outcome State Fault Refusal := .next (s.barWrite 0x310000 (v ||| 2) (fun u => u.writeDbgctl (v ||| 2)))

/-- DBGCTL_RESUME. -/
def execDbgctlResume (v : DWord) (s : State) : Host.Outcome State Fault Refusal := .next (s.barWrite 0x310000 (v ||| 4) (fun u => u.writeDbgctl (v ||| 4)))

/-- The block that DBGBLK names, of the debugged context. -/
def State.dbgBlock (s : State) : Option (BRef × Block) :=
  s.allBlocks.find? (fun b => s.asidOf b.1.g == s.dbg.asid && !b.2.ended && s.blockIndex b.1 == field s.dbg.blk 55 0)

/-- Bit 0 of DBGSWAP: the group goes through Stopping and Saving to Saved without a saved entry (R295, R347); one that is being saved, or is saved, gets or keeps
none, and one that is being restored stops when it is resident (log entry 40). -/
def State.swapOut (s : State) : State :=
  match (if s.dbg.halted then s.dbgBlock else none) with
  | none => s
  | some b => match s.group? b.1.g with
    | some g =>
      let s1 := s.modGroup b.1.g (fun y => { y with swapped := true, deadline := none })
      if g.stands then s1.beginStop b.1.g
      else { s1 with waiting := s1.waiting.map (fun w => w.filter (fun e => e != WEntry.saved b.1.g)) }
    | none => s

/-- Bit 1 of DBGSWAP: the saved entry joins the tail of its list. -/
def State.swapIn (s : State) : State :=
  match s.dbgBlock with
  | none => s
  | some b => match s.group? b.1.g, s.launchOf b.1.g with
    | some g, some l =>
      if !g.swapped then s
      else
        let s1 := s.modGroup b.1.g (fun y => { y with swapped := false })
        if g.st == .saved then { s1 with waiting := s1.waiting.modify l.p.prio (fun w => w ++ [WEntry.saved b.1.g]) }.pokeWalk l.cox.hub else s1
    | _, _ => s

/-- DBGSWAP_SWAP_OUT. -/
def execDbgswapSwapOut (s : State) : Host.Outcome State Fault Refusal := .next (s.barWrite 0x310078 1 State.swapOut)

/-- DBGSWAP_RELEASE. -/
def execDbgswapRelease (s : State) : Host.Outcome State Fault Refusal := .next (s.barWrite 0x310078 2 State.swapIn)

/-! ### The read window (R348) -/

/-- The fields of DBGSEL: KIND, CREW, THREAD, INDEX. -/
def dbgFields (v : DWord) : Nat × Nat × Nat × Nat := (field v 3 0, field v 9 4, field v 16 10, field v 47 20)

/-- The block of the read window: halted, or swapped. -/
def State.windowBlock (s : State) : Option (BRef × Block) :=
  s.dbgBlock.filter (fun b => b.2.stop == .halted || ((s.group? b.1.g).map (fun g => g.swapped)).getD false)

/-- The slots or accumulators that a crew owns, on its core or saved. -/
def State.ownedSaved (s : State) (c : CRef) (acc : Bool) : List Nat :=
  match s.group? c.g with
  | none => []
  | some g => if acc then (g.savedAccs.filter (fun y => y.owner == c)).map (fun y => y.num) else (g.savedSlots.filter (fun y => y.owner == c)).map (fun y => y.num)

/-- Special register `n` of a thread at rest: no pass gives it a lane. -/
def State.dbgSreg (s : State) (t : TRef) (x : Thread) (n : Nat) : Nat :=
  let l : Lane := { ref := t, lane := 0, t := x, exec := true, src := { a := 0, b := 0, c := 0, e := 0, d := 0, poisoned := false } }
  if n = 0x1A && !s.stands t.g then ownedBits (s.ownedSaved t.crew false)
  else if n = 0x1B && !s.stands t.g then ownedBits (s.ownedSaved t.crew true)
  else s.sregValue { crew := t.crew, lanes := [], pc := x.pc, num := 0, defer := false, collective := false } l n

/-- The item that DBGSEL selects, 0 where there is none. -/
def State.dbgItem (s : State) : DWord :=
  match s.windowBlock with
  | none => 0
  | some b =>
    let q := dbgFields s.dbg.sel
    let c := b.1.crew q.2.1
    let t := c.thread q.2.2.1
    let ix := q.2.2.2
    match decide (q.1 = 4), s.crew? c, s.thread? t with
    | true, _, _ => if 8 * ix + 8 ≤ s.padBytes b.1.g then BitVec.ofNat 64 (leNat (s.padRead b.2 (8 * ix) 8)) else 0
    | _, some y, some x =>
      (match q.1 with
       | 0 => ((x.regs[ix]?).getD 0).zeroExtend 64
       | 1 => ((y.kregs[ix]?).getD 0).zeroExtend 64
       | 2 => x.pc
       | 3 => if ix = 0 then x.o.zeroExtend 64 else if ix = 1 then x.s.zeroExtend 64 else if ix = 2 then x.pa.zeroExtend 64 else 0
       | 5 => BitVec.ofNat 64 (s.dbgSreg t x ix)
       | 6 => BitVec.ofNat 64 ((x.flags.mapIdx (fun i (f : BitVec 6) => f.toNat * 64 ^ i)).foldl (· + ·) 0)
       | _ => 0)
    | _, _, _ => 0

/-- DBGDATA_READ: the host reads the item. -/
def execDbgdataRead (s : State) : Host.Outcome State Fault Refusal :=
  let v := s.dbgItem
  if !s.linkUp then .next s
  else .next { s with dbg := { s.dbg with data := v }, hostOut := s.hostOut ++ [.register v] }

/-- Sets an item of KIND 0, 1, 2 or 4 of a launch that does not record. -/
def State.writeDbgdata (s : State) (v : DWord) : State :=
  match s.windowBlock with
  | none => s
  | some b =>
    let q := dbgFields s.dbg.sel
    let c := b.1.crew q.2.1
    let t := c.thread q.2.2.1
    let ix := q.2.2.2
    if recordMode (s.modesOf b.1.g) ≠ 0 then s
    else match q.1 with
      | 0 => s.modThread t (fun x => { x with regs := x.regs.set ix (v.extractLsb' 0 32) })
      | 1 => s.modCrew c (fun y => { y with kregs := y.kregs.set ix (v.extractLsb' 0 32), klate := y.klate.filter (fun u => u.reg.toNat != ix) })
      | 2 => s.modThread t (fun x => { x with pc := alignPc v })
      | 4 =>
        if 8 * ix + 8 ≤ s.padBytes b.1.g then s.modBlock b.1 (fun x => { x with scratch := x.scratch.writeN (8 * ix) (leBytes 8 v.toNat) }) else s
      | _ => s

/-- DBGDATA_WRITE. -/
def execDbgdataWrite (v : DWord) (s : State) : Host.Outcome State Fault Refusal := .next (s.barWrite 0x310070 v (fun u => u.writeDbgdata v))

/-- A debug register at offset `off`; a field given a value it does not have keeps its earlier one (R15, log entry 52). -/
def State.writeDebug (s : State) (off : Nat) (v : DWord) : State :=
  match off with
  | 0x00 => s.writeDbgctl v
  | 0x08 => s.writeStopbase v
  | 0x10 => if v.toNat ≤ 2 ^ 20 then { s with dbg := { s.dbg with stopsize := v } } else s
  | 0x60 => { s with dbg := { s.dbg with blk := v &&& 0xFFFFFFFFFFFFFF } }
  | 0x68 => { s with dbg := { s.dbg with sel := (if 7 ≤ field v 3 0 then (v &&& 0xFFFFFFF1FFF0) ||| (s.dbg.sel &&& 0xF) else v &&& 0xFFFFFFF1FFFF) } }
  | 0x70 => s.writeDbgdata v
  | 0x78 =>
    let s1 := if v.getLsbD 0 then s.swapOut else s
    if v.getLsbD 1 then s1.swapIn else s1
  | _ =>
    let i := (off - 0x20) / 16
    if 0x20 ≤ off && off < 0x60 && off % 16 = 0 then { s with dbg := { s.dbg with wpbase := s.dbg.wpbase.set i (v &&& 0xFFFFFFFFFFFFFF) } }
    else if 0x20 ≤ off && off < 0x60 && off % 16 = 8 then
      let len := if field v 31 0 = 0 then ((s.dbg.wpctl[i]?).getD 0) &&& 0xFFFFFFFF else v &&& 0xFFFFFFFF
      { s with dbg := { s.dbg with wpctl := s.dbg.wpctl.set i (len ||| (v &&& 0x300000000)) } }
    else s

/-! ## Sections, ports, contexts (R352, R414, R454, R457, R459, R389, R430, R443) -/

/-- The trace ring of a section has room again. -/
def State.ringFreed (s : State) (h : Nat) : State := (s.soon (.gateFrameWrite h)).soon (.traceDrain h)

/-- A trace register of section `h`; where the ring has room again, what waits drains, the gate frames first (R455). -/
def State.writeTrace (s : State) (h off : Nat) (v : DWord) : State :=
  let n := v.toNat % 256
  match off with
  | 0x00 => s.modSect h (fun y => { y with trbase := v })
  | 0x08 => if 1 ≤ n && n ≤ 64 then (s.modSect h (fun y => { y with trsize := v.extractLsb' 0 8 })).ringFreed h else s
  | 0x18 => (s.modSect h (fun y => { y with trget := v })).ringFreed h
  | 0x20 => if 10 ≤ n && n ≤ 24 then s.modSect h (fun y => { y with sampk := v.extractLsb' 0 8 }) else s
  | 0x28 => s.modSect h (fun y => { y with trlost := v })
  | _ => s

/-- WARN: RISING is cleared by 1; a HUB of 6 or 7 leaves HUB as it is (R15). -/
def warnValue (old v : DWord) : DWord :=
  let keep := if 6 ≤ field v 8 6 then (v &&& 0x7E3E) ||| (old &&& 0x1C0) else v &&& 0x7FFE
  keep ||| (old &&& ~~~v &&& 1)

/-- A memory error register of section `h`. -/
def State.writeError (s : State) (h off : Nat) (v : DWord) : State :=
  match off with
  | 0x00 => s.modSect h (fun y => { y with cecnt := v })
  | 0x08 => s.modSect h (fun y => { y with uecnt := v })
  | 0x10 => s.modSect h (fun y => { y with cethr := v.extractLsb' 0 32 })
  | 0x18 => s.modSect h (fun y => { y with estat := y.estat &&& ~~~v })
  | 0x28 => s.modSect h (fun y => { y with warn := warnValue y.warn v })
  | 0x30 => s.modSect h (fun y => { y with ckarea := v })
  | _ => s

/-- PCTL of a port (R460). -/
def State.writePctl (s : State) (p : Nat) (v : DWord) : State := (s.modPort p (fun y => { y with pvec := field v 6 1 })).portEnable p (v.getLsbD 0)

/-- PCTL_EN_WRITE. -/
def execPctlEnWrite (port : Nat) (v : DWord) (s : State) : Host.Outcome State Fault Refusal := .next (s.barWrite (0x330000 + 64 * port + 8) v (fun u => u.writePctl port v))

def State.writePort (s : State) (p off : Nat) (v : DWord) : State :=
  match off with
  | 0x08 => s.writePctl p v
  | 0x10 => s.modPort p (fun y => { y with crcerr := v })
  | 0x18 => s.modPort p (fun y => { y with retries := v })
  | 0x20 => s.modPort p (fun y => { y with pevent := y.pevent &&& ~~~v })
  | _ => s

/-- SWROUTE(c): a port of 48 or more leaves the field as it is; a chip that becomes lost leaves a black-box entry (R464). -/
def State.writeRoute (s : State) (c : Nat) (v : BitVec 8) : State :=
  let old := ((s.routes.find? (fun r => r.1 == c)).map (fun r => r.2)).getD 0
  let new := (v &&& 0x80) ||| (if v.toNat % 64 < 48 then v &&& 0x3F else old &&& 0x3F)
  let s1 := { s with routes := (if new = 0 then [] else [(c, new)]) ++ s.routes.filter (fun r => r.1 != c) }
  let chip := BitVec.ofNat 8 c
  if !s.chipLost chip && s1.chipLost chip then (s1.portEvent (new.toNat % 64) (some chip)).luGone chip else s1

/-- A register of context block `x`. -/
def State.writeCtx (s : State) (x : CoxId) (off : Nat) (v : DWord) : State :=
  match off with
  | 0x000 => if v.getLsbD 0 then s.enSet x v else s.enClear x v
  | 0x008 => if (s.cox x).en then s else s.modCox x (fun c => { c with qhandle := v, pubs := [] })
  | 0x020 => s.writeProg x v
  | 0x028 => s.writeCtxrec x v
  | 0x030 => s.writeTinv x v
  | 0x038 => s.modCox x (fun c => { c with msiv := v.extractLsb' 0 8 &&& 0x3F })
  | 0x048 => s.writeFstat x v
  | 0x050 => s.writeRlogbase x v
  | 0x058 => if v.toNat ≤ 2 ^ 20 then s.modAsid (s.ctxAsid x) (fun a => { a with rlogsize := v }) else s
  | 0x068 => s.modAsid (s.ctxAsid x) (fun a => { a with sliceRaised := a.sliceRaised && !v.getLsbD 0, yforced := a.yforced && !v.getLsbD 1 })
  | _ => s

end Sys2Proof.Machine
end

