-- ==== Sys2Proof/Machine/Boot.lean ====
section
/-!
DEFINITION. Reset and boot (R322, R465), recovery (R467, R468), the self-test (R469, R470), identity (R323), management (R324, R353).
-/
namespace Sys2Proof.Machine

/-! ## Reset (R456, R465, R468) -/

/-- The package after a reset: the boot flash keeps its image, and `box` tells whether the black box survives. -/
def State.resetKeeping (s : State) (box : Bool) : State :=
  { State.reset with boot := { Boot.reset with flash := s.boot.flash, flashCut := s.boot.flashCut },
                     blackBox := if box then s.blackBox else [] }

/-- POWER_ON_RESET: the black box is cleared; boot ROM comes next. -/
def execPowerOnReset (s : State) : Host.Outcome State Fault Refusal := .next (s.resetKeeping false)

/-- PERST: a flash write that it cuts leaves an image that the next boot rejects (R468). -/
def execPerst (s : State) : Host.Outcome State Fault Refusal :=
  let cut := s.boot.rcvState = 4 && s.inRecovery
  let u := s.resetKeeping true
  .next { u with boot := { u.boot with flashCut := u.boot.flashCut || cut } }

/-! ## Boot ROM (R322, R467) -/

/-- The REASON for which an image is rejected, 0 for a good one. -/
def imageReason (image : Option (List Byte)) : Nat :=
  match image with
  | none => 1
  | some bs =>
    if 2 ^ 26 < bs.length || !Config.headerGood bs then 2
    else if !Config.keyDigestGood bs then 3
    else if !Config.signatureGood bs then 4
    else 0

/-- The image in the boot flash. -/
def State.flashImage (s : State) : Option (List Byte) :=
  match s.boot.flash with
  | some bs => some bs
  | none => Config.factoryFlash

def State.bootReason (s : State) : Nat := if s.boot.flashCut then 1 + Config.cutReason.toNat else imageReason s.flashImage

/-! ## The self-test (R469, R470) -/

/-- The word of a register-file bank whose failing rows are `rows`, in the order found. -/
def bankWord (rows : List (BitVec 16)) : Word :=
  match rows.eraseDups with
  | [] => 0
  | [r] => BitVec.ofNat 32 (2 ^ 31 + r.toNat)
  | r :: _ => BitVec.ofNat 32 (2 ^ 30 + r.toNat)

/-- Bytes of the repair table, and the place of its summary word. -/
def tableBytes : Nat := 147456

/-- The controllers of a quarter march its four banks: every register of it is left zero; their words and counts are written. -/
def State.marchQuarter (s : State) (core q : Nat) : State :=
  let base := s.boot.table.toNat
  let words := (List.range 4).map (fun b => bankWord (Config.failingRows core q b))
  let bad := (words.filter (fun w => w != 0)).length
  let old := s.physNat (base + tableBytes) 8
  let some_ := words.any (fun w => w.getLsbD 31)
  let more := words.any (fun w => w.getLsbD 30)
  let sum := (old + bad) % 2 ^ 32 + old / 2 ^ 32 % 4 * 2 ^ 32
  let sum2 := sum ||| ((if some_ then 2 ^ 32 else 0) ||| (if more then 2 ^ 33 else 0))
  (s.physWrite (base + 256 * core + 4 * (32 + 4 * q)) (words.flatMap (fun w => leBytes 4 w.toNat))).physWrite (base + tableBytes) (leBytes 8 sum2)

/-- SELFTEST_CONTROLLER_RUN, while the self-test has not finished. -/
def execSelftestControllerRun (core quarter : Nat) (s : State) : Host.Outcome State Fault Refusal :=
  .next (if s.boot.firmware && !s.boot.tested then s.marchQuarter core quarter else s)

/-- Firmware zeroes the table and the summary word. -/
def State.zeroTable (s : State) : State :=
  let s1 := { s with boot := { s.boot with table := Config.repairTable } }
  (List.range (tableBytes / 8 + 1)).foldl (fun (u : State) i => u.physWrite (Config.repairTable.toNat + 8 * i) (List.replicate 8 0)) s1

/-- The firmware context (R469). -/
def fwContext : CoxId := ⟨0, 15⟩

/-- A global address that firmware has chosen, aligned to 2^n bytes. -/
def fwVa (a : DWord) (n : Nat) : DWord := BitVec.ofNat 64 (a.toNat % 2 ^ 56 / 2 ^ n * 2 ^ n)

/-- The LAUNCH packet of `marchc` (R301, R469): 576 blocks of one crew in groups of 1 × 1 × 1, 40 registers, the whole scratchpad, MODES 0, and the two arguments.
What the rule leaves open is firmware's within the limits of R301, and the grid is 576 × 1 × 1 (log entry 5). -/
def fwPacket : List DWord :=
  let f := Config.firmwareLaunch
  let coop := f 3 % 2
  let slice := 50 + f 4 % 99951
  let table := Config.firmwareTable
  ([0x1B01 + f 0 % 2 ^ 32 * 2 ^ 32, (fwVa Config.firmwareEntry 5).toNat, 575, 5 * 2 ^ 32 + 256 * 2 ^ 40,
    f 1 % 2 * 2 ^ 8 + f 2 % 8 * 2 ^ 9 + coop * 2 ^ 12 + slice * 2 ^ 32, f 5 % (slice + 1) + coop * (1 + f 6 % 1000) * 2 ^ 32,
    f 7 % 2 ^ 56, 16 * (1 + f 8 % 2 ^ 20), f 9] ++ List.replicate 15 0 ++ [2, table.toNat, (table + BitVec.ofNat 64 tableBytes).toNat]).map (BitVec.ofNat 64)

/-- The handle of the firmware's queue (R241): a ring of 512 words that holds the one packet. -/
def fwHandle : List Byte :=
  leBytes 8 (fwVa Config.firmwareRing 12).toNat ++ leBytes 8 0 ++ leBytes 8 fwPacket.length ++ leBytes 8 0 ++ leBytes 1 9 ++ leBytes 1 0 ++ leBytes 1 15 ++ leBytes 29 0

/-- The firmware's program image (R303): one ACT. -/
def fwProgram : List Byte := leBytes 2 1 ++ leBytes 142 0 ++ wordsBytes (encode .coxAct)

/-- Firmware writes where its own tables map an address. -/
def State.fwWrite (s : State) (va : DWord) (bs : List Byte) : State :=
  let asid := BitVec.ofNat 16 (s.physNat Config.firmwareRecord.toNat 2)
  (bs.mapIdx (fun i v => (va + BitVec.ofNat 64 i, v))).foldl (fun (u : State) p => match u.unitPa asid p.1 1 0 with
    | .inr pa => u.physWrite pa [p.2]
    | .inl _ => u) s

/-- Firmware binds its context to a queue, context record and program image of its own, and places `marchc` and its launch (R469, R470; log entry 5). -/
def State.bindFirmware (s : State) : State :=
  let s1 := (Config.firmwareMemory.foldl (fun (u : State) m => u.physWrite m.1.toNat m.2) s).writeCtx fwContext 0x28 Config.firmwareRecord
  let s2 := (s1.fwWrite (fwVa Config.firmwareEntry 5) Marchc.image).fwWrite (fwVa Config.firmwareRing 12) (fwPacket.flatMap (fun w => leBytes 8 w.toNat))
  let s3 := (s2.fwWrite (fwVa Config.firmwareHandle 6) fwHandle).fwWrite (fwVa Config.firmwareProgram 6) fwProgram
  (s3.writeCtx fwContext 0x08 (fwVa Config.firmwareHandle 6)).writeCtx fwContext 0x20 (fwVa Config.firmwareProgram 6)

/-- Firmware enables its context once the checker has loaded the program, and looks again each µs while it checks. -/
def State.firmwareStep (s : State) : State :=
  let c := s.cox fwContext
  if !s.boot.firmware || s.boot.tested || c.en then s
  else if c.loaded then s.writeCtx fwContext 0 1
  else if c.checking.isSome then s.schedule usTicks (.tick .firmware)
  else s

/-- Firmware trains the Sweep links that have a partner (R322; log entry 5). -/
def State.trainLinks (s : State) : State :=
  (List.range 48).foldl (fun (u : State) p => if Config.portLinked p then u.portEnable p true else u) s

/-- The firmware starts (R322, R323, R470): measurement slot 1 names its image; it generates the identity key; it zeroes the table, runs the controllers and
launches `marchc`; it trains the links. -/
def State.startFirmware (s : State) (image : List Byte) : State :=
  let s1 := { s with boot := { s.boot with firmware := true, slot1 := Config.sha256 image, pubKey := Config.slhPublic (Config.keySeed Config.deviceSecret) } }
  let s2 := ((List.range 576).flatMap (fun c => (List.range 4).map (fun q => (c, q)))).foldl (fun (u : State) p => u.marchQuarter p.1 p.2) s1.zeroTable
  s2.bindFirmware.trainLinks.schedule usTicks (.tick .firmware)

/-- Boot ROM: the image of the boot flash runs, or recovery begins. -/
def State.bootRom (s : State) : State :=
  let r := s.bootReason
  if r = 0 then s.startFirmware (s.flashImage.getD []) else { s with boot := { s.boot with rcvState := 1, reason := r } }

/-- SELFTEST_FINISH (R470): after the grid has ended, firmware maps the REPAIR rows, copies the summary, measures the table, sets READY bit 1
where no bank is BAD, and clears EN of its context. -/
def execSelftestFinish (s : State) : Host.Outcome State Fault Refusal :=
  if !s.boot.firmware || s.boot.tested || s.launches.any (fun l => l.isOpen && l.cox == fwContext) then .next s
  else
    let base := s.boot.table.toNat
    let sum := BitVec.ofNat 64 (s.physNat (base + tableBytes) 8)
    let rows := (List.range 576).flatMap (fun e => (List.range 48).filterMap (fun i =>
      let w := BitVec.ofNat 32 (s.physNat (base + 256 * e + 4 * i) 4)
      if w.getLsbD 31 then some (e, i, w) else none))
    let b := { s.boot with repairs := s.boot.repairs ++ rows, selftest := sum, slot3 := Config.sha256 (s.physRead base tableBytes),
                           tested := !sum.getLsbD 33 }
    .next ({ s with boot := b }.enClear fwContext (if (s.cox fwContext).kind then 2 else 0))

/-! ## Recovery (R467, R468) -/

/-- RCVCTL.GO in STATE 1 or 3: boot ROM verifies the staged image. -/
def State.writeGo (s : State) : State :=
  if s.inRecovery && (s.boot.rcvState = 1 || s.boot.rcvState = 3) then
    { s with boot := { s.boot with rcvState := 2, reason := 0 } }.soon .imageVerifyComplete
  else s

/-- RCVCTL_GO; lost while the link is down (R465). -/
def execRcvctlGo (s : State) : Host.Outcome State Fault Refusal := .next (if s.linkUp then s.hostRelease.writeGo else s)

/-- The staged image. -/
def State.staged (s : State) : List Byte := s.boot.staging.readN 0 s.boot.rcvLen.toNat

/-- IMAGE_VERIFY_COMPLETE. -/
def execImageVerifyComplete (s : State) : Host.Outcome State Fault Refusal :=
  if s.boot.rcvState ≠ 2 then .next s
  else
    let r := imageReason (some s.staged)
    if r ≠ 0 then .next { s with boot := { s.boot with rcvState := 3, reason := r } }
    else .next ({ s with boot := { s.boot with rcvState := 4 }, fresh := s.fresh + 2 }.schedule (Config.latency (s.fresh + 1))
      (.tick (.flash (Config.flashGood s.fresh))))

/-- The end of the flash write: a good write resets the package as at power-on, but the black box stays; after a failed one the staged image runs for
this boot. -/
def State.flashDone (s : State) (ok : Bool) : State :=
  if s.boot.rcvState ≠ 4 || s.boot.firmware then s
  else if ok then
    let u := s.resetKeeping true
    { u with boot := { u.boot with flash := some s.staged, flashCut := false } }
  else { s with boot := { s.boot with reason := 5 } }.startFirmware s.staged

/-- FLASH_WRITE_COMPLETE. -/
def execFlashWriteComplete (ok : Bool) (s : State) : Host.Outcome State Fault Refusal := .next (s.flashDone ok)

/-! ## Identity (R322, R323) -/

/-- Measurement slot `i` (Table 11). -/
def State.slot (s : State) (i : Nat) : BitVec 256 :=
  match i with
  | 0 => Config.romDigest
  | 1 => s.boot.slot1
  | 2 => Config.fuseDigest
  | 3 => s.boot.slot3
  | _ => 0

/-- The 16,224-byte signature of the device's identity key over a transcript. -/
def signature (bytes : List Byte) : List Byte := leBytes 16224 (Config.slhSign (Config.keySeed Config.deviceSecret) bytes).toNat

/-- What an answer carries. -/
def Spdm.payload : Spdm → List Byte
  | .digests d => leBytes 32 d.toNat
  | .certificate p _ => p
  | .challengeAuth d sig => leBytes 32 d.toNat ++ sig
  | .measurements ms sig => ms.flatMap (fun m => leBytes 1 m.1 ++ leBytes 32 m.2.toNat) ++ sig.getD []
  | .chunk _ _ p => p
  | _ => []

/-- Sends an answer: ERROR in recovery and before the firmware runs; one above the transport's size is kept for CHUNK_GET. -/
def State.spdm (s : State) (m : Spdm) : State :=
  if !s.boot.firmware then { s with hostOut := s.hostOut ++ [.spdm .error] }
  else if Config.transportSize < m.payload.length then { s with hostOut := s.hostOut ++ [.spdm .error], spdmChunk := m.payload }
  else { s with hostOut := s.hostOut ++ [.spdm m] }

/-- GET_VERSION: SPDM 1.3. -/
def execGetVersion (s : State) : Host.Outcome State Fault Refusal := .next (s.spdm (.version 0x13))

def execGetCapabilities (s : State) : Host.Outcome State Fault Refusal := .next (s.spdm (.capabilities true))

/-- NEGOTIATE_ALGORITHMS: the extended asymmetric algorithm, the base hash and the measurement hash. -/
def execNegotiateAlgorithms (s : State) : Host.Outcome State Fault Refusal := .next (s.spdm (.algorithms "SLH-DSA-SHA2-192s" "SHA-256" "SHA-256"))

def execGetDigests (s : State) : Host.Outcome State Fault Refusal := .next (s.spdm (.digests (Config.sha256 Config.certificate)))

/-- GET_CERTIFICATE: a part of the certificate, and how much follows. -/
def execGetCertificate (offset len : Nat) (s : State) : Host.Outcome State Fault Refusal :=
  let part := (Config.certificate.drop offset).take len
  .next (s.spdm (.certificate part (Config.certificate.length - (offset + part.length))))

/-- CHALLENGE: the signature of the device's identity key over the transcript. -/
def execChallenge (nonce : List Byte) (s : State) : Host.Outcome State Fault Refusal :=
  let d := Config.sha256 Config.certificate
  .next (s.spdm (.challengeAuth d (signature (nonce ++ leBytes 32 d.toNat))))

/-- GET_MEASUREMENTS: one slot, or all for index 255. -/
def execGetMeasurements (index : Nat) (signed : Bool) (nonce : List Byte) (s : State) : Host.Outcome State Fault Refusal :=
  let is := if index = 255 then List.range 8 else if index < 8 then [index] else []
  let ms := is.map (fun i => (i, s.slot i))
  let bytes := ms.flatMap (fun m => leBytes 1 m.1 ++ leBytes 32 m.2.toNat)
  .next (if is.isEmpty then s.spdm .error else s.spdm (.measurements ms (if signed then some (signature (nonce ++ bytes)) else none)))

/-- CHUNK_GET: chunk `seq` of the answer that was too large. -/
def execChunkGet (handle seq : Nat) (s : State) : Host.Outcome State Fault Refusal :=
  let n := max 1 Config.transportSize
  let part := (s.spdmChunk.drop (n * seq)).take n
  .next (if part.isEmpty || !s.boot.firmware then { s with hostOut := s.hostOut ++ [.spdm .error] }
    else { s with hostOut := s.hostOut ++ [.spdm (.chunk handle seq part)] })

/-! ## Management (R324, R353) -/

/-- POWER_CAP_SET: 4.0 to 8.8 kW. -/
def execPowerCapSet (watts : Nat) (s : State) : Host.Outcome State Fault Refusal :=
  if watts < 4000 || 8800 < watts then .next s
  else .next ({ s with powerCap := watts }.bbox (hubDie 0) 7 0 0 (BitVec.ofNat 32 watts) 0 0)

/-- BLACK_BOX_READ: the die's entries, oldest first, each in its layout (R353; log entry 50). -/
def execBlackBoxRead (die : Nat) (s : State) : Host.Outcome State Fault Refusal :=
  .next { s with hostOut := s.hostOut ++ [.blackBox ((s.blackBox.filter (fun e => e.die == die)).map BBEntry.bytes)] }

end Sys2Proof.Machine
end

