-- ==== Sys2Proof/Machine/HostLink.lean ====
section
/-!
DEFINITION. The host link: BAR 0 written whole (R317), BAR 2 (R315, R337, R466, R467), the link's state and PTM (R465), MSI-X (R316), and the
work that the package does by itself.
-/
namespace Sys2Proof.Machine

/-! ## BAR 0 (R317, R467) -/

/-- A recovery register. -/
def State.writeRecovery (s : State) (off : Nat) (v : DWord) : State :=
  match off with
  | 0x08 => if v.toNat ≤ 2 ^ 26 then { s with boot := { s.boot with rcvLen := v } } else s
  | 0x10 => if v.getLsbD 0 then s.writeGo else s
  | _ => s

/-- A package register below 0x2000. -/
def State.writePackage (s : State) (off : Nat) (v : DWord) : State :=
  match off with
  | 0x08 => { s with chip := v.extractLsb' 0 8 }
  | 0x10 => { s with bar2 := BitVec.ofNat 64 (v.toNat / 2 ^ s.bar2Log * 2 ^ s.bar2Log) }
  | 0x28 => if v.getLsbD 0 then { s with bar2ur := false } else s
  | _ => if 0x1000 ≤ off && off < 0x1100 then s.writeRoute (off - 0x1000) (v.extractLsb' 0 8) else s

/-- A write of the register at BAR 0 offset `off`; reserved offsets ignore it (R11). -/
def State.writeReg (s : State) (off : Nat) (v : DWord) : State :=
  if 0x340000 ≤ off && off < 0x340100 then s.writeRecovery (off - 0x340000) v
  else if s.inRecovery then s
  else if off < 0x2000 then s.writePackage off v
  else if 0x100000 ≤ off && off < 0x160000 then
    let n := (off - 0x100000) / 0x1000
    s.writeCtx ⟨n / 16, n % 16⟩ (off % 0x1000) v
  else if 0x200000 ≤ off && off < 0x200600 then s.writeRecorder ((off - 0x200000) / 256) (off % 256) v
  else if 0x300000 ≤ off && off < 0x300600 then s.writeTrace ((off - 0x300000) / 256) (off % 256) v
  else if 0x310000 ≤ off && off < 0x310080 then s.writeDebug (off - 0x310000) v
  else if 0x320000 ≤ off && off < 0x320600 then s.writeError ((off - 0x320000) / 256) (off % 256) v
  else if 0x330000 ≤ off && off < 0x330C00 then s.writePort ((off - 0x330000) / 64) (off % 64) v
  else s

/-- The context of a QWRITE register's offset. -/
def qwriteOf (off : Nat) : Option CoxId :=
  if 0x100000 ≤ off && off < 0x160000 && off % 0x1000 = 0x10 then some ⟨(off - 0x100000) / 0x1000 / 16, (off - 0x100000) / 0x1000 % 16⟩ else none

/-- A host write of any BAR 0 register, a release of the host identity (R423). -/
def State.writeRegister (s : State) (off : Nat) (v : DWord) : State :=
  match qwriteOf off with
  | some x => if s.inRecovery then s.hostRelease else s.writeQwrite x v
  | none => s.hostRelease.writeReg off v

/-! ### Reading BAR 0 -/

def bit (b : Bool) (i : Nat) : DWord := if b then BitVec.ofNat 64 (2 ^ i) else 0

def State.readPackage (s : State) (off : Nat) : DWord :=
  match off with
  | 0x00 => BitVec.ofNat 64 (0xC24A + Config.stepping.toNat * 2 ^ 16)
  | 0x08 => s.chip.zeroExtend 64
  | 0x10 => s.bar2
  | 0x18 => bit s.boot.firmware 0 ||| bit s.boot.tested 1
  | 0x20 => s.boot.selftest
  | 0x28 => bit s.bar2ur 0
  | 0x30 => s.hostUrOff
  | _ => if 0x1000 ≤ off && off < 0x1100 then (((s.routes.find? (fun (r : Nat × BitVec 8) => r.1 == off - 0x1000)).map (fun (r : Nat × BitVec 8) => r.2)).getD 0).zeroExtend 64 else 0

def State.readCtx (s : State) (x : CoxId) (off : Nat) : DWord :=
  let c := s.cox x
  let a := s.asid (s.ctxAsid x)
  match off with
  | 0x000 => bit c.en 0 ||| bit c.kind 1 ||| bit c.loaded 2 ||| bit c.norec 3 ||| BitVec.ofNat 64 (16 * c.state)
  | 0x008 => c.qhandle
  | 0x010 => c.qwrite
  | 0x018 => c.qread
  | 0x020 => c.prog
  | 0x028 => c.ctxrec
  | 0x030 => bit c.tinv 0
  | 0x038 => c.msiv.zeroExtend 64
  | 0x040 => a.flogput
  | 0x048 => bit a.halt 0
  | 0x050 => a.rlogbase
  | 0x058 => a.rlogsize
  | 0x060 => a.rlogput
  | 0x068 => bit a.sliceRaised 0 ||| bit a.yforced 1
  | _ => 0

def Recorder.read (r : Recorder) (off : Nat) : DWord :=
  match off with
  | 0x00 => r.rrbase
  | 0x08 => r.rrsize.zeroExtend 64
  | 0x10 => r.rrput
  | 0x18 => r.rrget
  | 0x20 => r.state.zeroExtend 64
  | 0x28 => r.rbsel
  | 0x30 => r.rbchk
  | 0x38 => r.divaddr
  | 0x40 => r.rrstat
  | 0x48 => r.lostpos
  | _ => 0

def Section.readTrace (x : Section) (off : Nat) : DWord :=
  match off with
  | 0x00 => x.trbase
  | 0x08 => x.trsize.zeroExtend 64
  | 0x10 => x.trput
  | 0x18 => x.trget
  | 0x20 => x.sampk.zeroExtend 64
  | 0x28 => x.trlost
  | _ => 0

def Section.readError (x : Section) (off : Nat) : DWord :=
  match off with
  | 0x00 => x.cecnt
  | 0x08 => x.uecnt
  | 0x10 => x.cethr.zeroExtend 64
  | 0x18 => x.estat
  | 0x20 => x.eaddr
  | 0x28 => x.warn
  | 0x30 => x.ckarea
  | _ => 0

def State.readDebug (s : State) (off : Nat) : DWord :=
  let d := s.dbg
  match off with
  | 0x00 => bit d.bpen 0 ||| bit d.halted 3 ||| BitVec.ofNat 64 (16 * d.wpen.toNat + d.asid.toNat * 2 ^ 32)
  | 0x08 => d.stopbase
  | 0x10 => d.stopsize
  | 0x18 => d.stopput
  | 0x60 => d.blk
  | 0x68 => d.sel
  | 0x70 => s.dbgItem
  | 0x78 => bit ((s.dbgBlock.bind (fun b => s.group? b.1.g)).any (fun g => g.swapped)) 2
  | _ =>
    if 0x20 ≤ off && off < 0x60 && off % 16 = 0 then (d.wpbase[(off - 0x20) / 16]?).getD 0
    else if 0x20 ≤ off && off < 0x60 && off % 16 = 8 then (d.wpctl[(off - 0x20) / 16]?).getD 0
    else 0

def Port.read (p : Port) (off : Nat) : DWord :=
  match off with
  | 0x00 => BitVec.ofNat 64 (p.st + 16 * p.cause + 2 ^ 16 * p.peer.toNat)
  | 0x08 => bit p.en 0 ||| BitVec.ofNat 64 (2 * p.pvec)
  | 0x10 => p.crcerr
  | 0x18 => p.retries
  | 0x20 => p.pevent
  | _ => 0

/-- What a read of the register at BAR 0 offset `off` returns; reserved offsets read zero (R11). -/
def State.readReg (s : State) (off : Nat) : DWord :=
  if s.inRecovery && off ≠ 0 && !(0x340000 ≤ off && off < 0x340018) then 0
  else if off < 0x2000 then s.readPackage off
  else if 0x100000 ≤ off && off < 0x160000 then
    let n := (off - 0x100000) / 0x1000
    s.readCtx ⟨n / 16, n % 16⟩ (off % 0x1000)
  else if 0x200000 ≤ off && off < 0x200600 then ((s.hub ((off - 0x200000) / 256)).recd).read (off % 256)
  else if 0x300000 ≤ off && off < 0x300600 then (s.sect ((off - 0x300000) / 256)).readTrace (off % 256)
  else if 0x310000 ≤ off && off < 0x310080 then s.readDebug (off - 0x310000)
  else if 0x320000 ≤ off && off < 0x320600 then (s.sect ((off - 0x320000) / 256)).readError (off % 256)
  else if 0x330000 ≤ off && off < 0x330C00 then (s.port ((off - 0x330000) / 64)).read (off % 64)
  else if off = 0x340000 then BitVec.ofNat 64 (s.boot.rcvState + 256 * s.boot.reason)
  else if off = 0x340008 then s.boot.rcvLen
  else 0

/-! ## BAR 2 (R314, R315, R337, R466, R467) -/

/-- Every byte of an access through BAR 2 has backing. -/
def State.bar2Backed (s : State) (off size : Nat) : Bool := (List.range size).all (fun i => (lineOf (s.bar2.toNat + off + i)).isSome)

/-- The window claims an access: it lies within its size (R314). -/
def State.bar2Claims (s : State) (off size : Nat) : Bool := off + size ≤ 2 ^ s.bar2Log

/-- HOSTSTAT, HOSTUROFF and the black box take an access without backing. -/
def State.bar2Unbacked (s : State) (off arg : Nat) : State :=
  ({ s with bar2ur := true, hostUrOff := if s.bar2ur then s.hostUrOff else BitVec.ofNat 64 off }.bbox (hubDie 0) 0x10 0 0 (BitVec.ofNat 32 arg)
    (BitVec.ofNat 64 off) 0)

/-- One access of the host link at a physical address within one line, whose clocks `keep` takes. -/
def State.hostPiece (s : State) (keep : State → Clk → State) (pa n : Nat) (kind : AccKind) (bytes : List Byte) : State × (AFault ⊕ List Byte) :=
  let r := s.unitAccess s.hostParty pa n kind 4 bytes 0 (BitVec.ofNat 64 pa)
  (keep r.1 r.2.1, r.2.2)

/-- Plain `.pod` stores at the homes, in address order. -/
def State.hostStore (s : State) (keep : State → Clk → State) (off : Nat) (data : List Byte) : State :=
  (piecesOf (s.bar2.toNat + off) data.length).foldl (fun (u : State) p =>
    (u.hostPiece keep p.1 p.2 (.store false) ((data.drop (p.1 - (s.bar2.toNat + off))).take p.2)).1) s

/-- A physical address lies in the ring of an enabled host queue (R297). -/
def State.inQueue (s : State) (pa : Nat) : Bool :=
  s.coxes.any (fun c => c.en && !c.kind && (match s.peekHandle (s.ctxAsid c.id) c.qhandle with
    | some h => h.bad.isNone && (List.range (8 * h.size / 4096)).any (fun i =>
        match s.unitPa (s.ctxAsid c.id) (h.base + BitVec.ofNat 64 (4096 * i)) 1 0 with
        | .inr p => p / 4096 == pa / 4096
        | .inl _ => false)
    | none => false))

/-- A host write that is a host chunk's, while a launch records or replays: one that is no queue packet (R337). -/
def State.hostCounts (s : State) (off : Nat) : Bool := (s.hub 0).recd.state != 0 && !s.inQueue (s.bar2.toNat + off)

/-- A write through BAR 2 is performed. -/
def State.hostWrite (s : State) (off : Nat) (data : List Byte) : State :=
  if s.hostCounts off then ({ s with hostCount := s.hostCount + 1 }.hostStore (fun u k => u.keepHost true k) off data).settleHost
  else s.hostStore State.keepHostClk off data

/-- The bytes that a host read gathers, none where a line gives MEMERR. -/
def State.hostLoad (s : State) (off size : Nat) : State × Option (List Byte) :=
  (piecesOf (s.bar2.toNat + off) size).foldl (fun (w : State × Option (List Byte)) p =>
    let r := w.1.hostPiece (fun u k => u.keepHost false k) p.1 p.2 (.load false false) []
    (r.1, match w.2, r.2 with
      | some got, .inr bs => some (got ++ bs)
      | _, _ => none)) (s, some [])

/-- A read through BAR 2 returns. -/
def State.hostRead (s : State) (off size : Nat) : State :=
  if !s.bar2Backed off size then
    let u := s.bar2Unbacked off 1
    { u with hostOut := u.hostOut ++ [.unsupported] }
  else
    let r := s.hostLoad off size
    let out := match r.2 with
      | some bs => HostOut.read bs
      | none => HostOut.unsupported
    { r.1 with hostOut := r.1.hostOut ++ [out] }

/-- The access may be performed: a replay holds back a write until its chunk is released (R337). -/
def State.hostMay (s : State) (a : HostAct) : Bool :=
  match a with
  | .write off _ => !s.hostCounts off || (s.hostChunk.map (fun r => r.released)).getD true
  | _ => true

def State.hostPerform (s : State) (a : HostAct) : State :=
  match a with
  | .write off data => if s.bar2Backed off data.length then s.hostWrite off data else s.bar2Unbacked off 2
  | .register off v => s.writeRegister off v
  | .read off size => s.hostRead off size

/-- What the link delivers takes effect in the order of delivery (R315): at once, or behind a write that a replay holds back. -/
def State.hostAct (s : State) (a : HostAct) : State :=
  if !s.hostHeld.isEmpty then { s with hostHeld := s.hostHeld ++ [a] }
  else if s.hostMay a then s.hostPerform a
  else { s with hostHeld := [a] }.schedule 10 (.tick .hostHeld)

/-- Performs the accesses that waited, as far as the replay lets them. -/
def State.hostDrain (s : State) : Nat → State
  | 0 => s
  | n + 1 => match s.hostHeld with
    | [] => s
    | a :: rest =>
      if s.hostMay a then State.hostDrain ({ s with hostHeld := rest }.hostPerform a) n else s.schedule 10 (.tick .hostHeld)

/-- REGISTER_WRITE; lost while the link is down (R465). -/
def execRegisterWrite (off : Nat) (v : DWord) (s : State) : Host.Outcome State Fault Refusal :=
  .next (if s.linkUp then s.hostAct (.register off v) else s)

/-- HOST_BAR2_WRITE. In recovery it reaches the staging area. -/
def execHostBar2Write (off : Nat) (data : List Byte) (s : State) : Host.Outcome State Fault Refusal :=
  if !s.linkUp || !s.bar2Claims off data.length then .next s
  else if s.inRecovery then
    .next { s with boot := { s.boot with staging := s.boot.staging.writeN off (data.take (2 ^ 26 - off)) } }
  else .next (s.hostAct (.write off data))

/-- HOST_BAR2_READ; one that the window does not claim completes as unsupported on its way. -/
def execHostBar2Read (off size : Nat) (s : State) : Host.Outcome State Fault Refusal :=
  if !s.linkUp then .next s
  else if !s.bar2Claims off size then .next { s with hostOut := s.hostOut ++ [.unsupported] }
  else if s.inRecovery then
    let staged := min size (2 ^ 26 - off)
    .next { s with hostOut := s.hostOut ++ [.read (s.boot.staging.readN off staged ++ List.replicate (size - staged) 0)] }
  else .next (s.hostAct (.read off size))

/-! ## The link (R316, R465) -/

/-- HOST_LINK_DOWN. -/
def execHostLinkDown (s : State) : Host.Outcome State Fault Refusal := .next { s with linkUp := false }

/-- HOST_LINK_RESET: the device runs on; the link is down until it comes up again. -/
def execHostLinkReset (s : State) : Host.Outcome State Fault Refusal := .next { s with linkUp := false }

/-- Sends the messages held pending whose vectors are not masked, once each. -/
def State.sendPending (s : State) : State :=
  { s with msixSent := s.msixSent ++ s.msixPend.filter (fun v => !s.msixMask.contains v),
           msixPend := s.msixPend.filter (fun v => s.msixMask.contains v) }

/-- HOST_LINK_UP. -/
def execHostLinkUp (s : State) : Host.Outcome State Fault Refusal := .next ({ s with linkUp := true }.sendPending)

/-- MSIX_VECTOR_UNMASK. -/
def execMsixVectorUnmask (vector : Nat) (s : State) : Host.Outcome State Fault Refusal :=
  let u := { s with msixMask := s.msixMask.filter (· != vector) }
  .next (if u.linkUp then u.sendPending else u)

/-- The host sets the mask bit of a vector (R316). -/
def State.maskVector (s : State) (vector : Nat) : State :=
  if vector < 64 && !s.msixMask.contains vector then { s with msixMask := s.msixMask ++ [vector] } else s

/-- The host sizes BAR 2, from 256 MiB to 2 TiB (R314). -/
def State.sizeBar2 (s : State) (log : Nat) : State :=
  if 28 ≤ log && log ≤ 41 then { s with bar2Log := log, bar2 := BitVec.ofNat 64 (s.bar2.toNat / 2 ^ log * 2 ^ log) } else s

/-- System software sizes a hub's spill area, from 2^14 to 2^22 entries; what is in use must fit (R253; log entry 20). -/
def State.sizeSpill (s : State) (h log : Nat) : State :=
  let used := 2 ^ (s.hub h).spillLog - (s.hub h).spill
  if log < 14 || 22 < log || 2 ^ log < used then s
  else (s.modHub h (fun u => { u with spillLog := log, spill := 2 ^ log - used })).spillFreed

/-! ## Precision time (R18, R465) -/

/-- 1 ms in ns. -/
def stepLimit : Nat := 1000000

/-- Inserts a tick of the slew in front of what is due at its time or later. -/
def insertSlew : Nat → List Turn → List Turn
  | dt, [] => [⟨dt, .tick .slew⟩]
  | dt, t :: ts => if dt ≤ t.dt then ⟨dt, .tick .slew⟩ :: ⟨t.dt - dt, t.act⟩ :: ts else t :: insertSlew (dt - t.dt) ts

/-- The next tick of the slew comes when the time base takes its next nanosecond, before anything else that is due then. -/
def State.slewNext (s : State) : State := { s with agenda := insertSlew (usTicks - s.now % 18) s.agenda }

/-- PTM_UPDATE: an error above 1 ms is stepped forward; any other is slewed by at most 1 ns per µs. -/
def execPtmUpdate (host : DWord) (s : State) : Host.Outcome State Fault Refusal :=
  let err := (host - s.time).toInt
  if !s.linkUp then .next s
  else if (stepLimit : Int) < err then .next { s with timeOff := s.timeOff + (host - s.time), slew := 0 }
  else
    let u := { s with slew := host - s.time }
    .next (if s.agenda.any (fun (t : Turn) => t.act == .tick .slew) then u else u.slewNext)

/-- One ns of slew. -/
def State.slewStep (s : State) : State :=
  if s.slew = 0 then s
  else
    let up := 0 < s.slew.toInt
    let u := { s with timeOff := if up then s.timeOff + 1 else s.timeOff - 1, slew := if up then s.slew - 1 else s.slew + 1 }
    if u.slew = 0 then u else u.slewNext

/-! ## What the package does by itself -/

/-- The cores that hold anything: those listed, and those that blocks stand on. -/
def State.heldCores (s : State) : List Nat := ((s.cores.map (fun c => c.num)) ++ s.allBlocks.map (fun b => b.2.core)).eraseDups

/-- One periodic or delayed piece of work. -/
def State.runTick (s : State) (k : Tick) : State :=
  match k with
  | .cycle => s.checkOffers
  | .cores => (s.heldCores.foldl (fun (u : State) n => (u.raiseCore n).sweepCore n) s).schedule 655360 (.tick .cores)
  | .sweep h => (s.sweepHub h).schedule 2359296 (.tick (.sweep h))
  | .beacon h hw => s.noteClock h hw
  | .peer rs since => s.peerGroup rs since
  | .part r => s.homePart r
  | .foreign key => s.foreignAgain key
  | .rx port cls => s.drainRx port cls
  | .kill b unit => s.killStep b unit
  | .boot => s.bootRom
  | .flash ok => s.flashDone ok
  | .evict =>
    let u := match s.l3[Config.evictPick s.fresh]? with
      | some h => s.evictL3 h.line
      | none => s
    { u with fresh := u.fresh + 2 }.schedule (1 + Config.latency (s.fresh + 1)) (.tick .evict)
  | .slew => s.slewStep
  | .hostHeld => s.hostDrain s.hostHeld.length
  | .records h => s.flushCyc h
  | .logs => s.flushChecks.flushLogs
  | .msixMask v => s.maskVector v
  | .bar2Size n => s.sizeBar2 n
  | .spillSize h n => s.sizeSpill h n
  | .jobChips cs => { s with jobChips := cs }
  | .firmware => s.firmwareStep

end Sys2Proof.Machine
end

