-- ==== Sys2Proof/Machine/Dispatch.lean ====
section
/-!
DEFINITION. The one match from an instruction to its meaning.
-/
namespace Sys2Proof.Machine

def exec (i : Instr) (s : State) : Host.Outcome State Fault Refusal :=
  match i with
  | .iadd o => Sys2Proof.Machine.execIadd o s
  | .iaddI o => Sys2Proof.Machine.execIaddI o s
  | .isub o => Sys2Proof.Machine.execIsub o s
  | .isubI o => Sys2Proof.Machine.execIsubI o s
  | .ineg o => Sys2Proof.Machine.execIneg o s
  | .iadd3 o => Sys2Proof.Machine.execIadd3 o s
  | .imul o => Sys2Proof.Machine.execImul o s
  | .imulI o => Sys2Proof.Machine.execImulI o s
  | .imulh o => Sys2Proof.Machine.execImulh o s
  | .imad o => Sys2Proof.Machine.execImad o s
  | .imadI o => Sys2Proof.Machine.execImadI o s
  | .imadw o => Sys2Proof.Machine.execImadw o s
  | .iadd64 o => Sys2Proof.Machine.execIadd64 o s
  | .isub64 o => Sys2Proof.Machine.execIsub64 o s
  | .imad64 o => Sys2Proof.Machine.execImad64 o s
  | .imin o => Sys2Proof.Machine.execImin o s
  | .iminI o => Sys2Proof.Machine.execIminI o s
  | .imax o => Sys2Proof.Machine.execImax o s
  | .imaxI o => Sys2Proof.Machine.execImaxI o s
  | .iabs o => Sys2Proof.Machine.execIabs o s
  | .isad o => Sys2Proof.Machine.execIsad o s
  | .and o => Sys2Proof.Machine.execAnd o s
  | .andI o => Sys2Proof.Machine.execAndI o s
  | .or o => Sys2Proof.Machine.execOr o s
  | .orI o => Sys2Proof.Machine.execOrI o s
  | .xor o => Sys2Proof.Machine.execXor o s
  | .xorI o => Sys2Proof.Machine.execXorI o s
  | .not o => Sys2Proof.Machine.execNot o s
  | .andn o => Sys2Proof.Machine.execAndn o s
  | .andnI o => Sys2Proof.Machine.execAndnI o s
  | .lop3 o => Sys2Proof.Machine.execLop3 o s
  | .shl o => Sys2Proof.Machine.execShl o s
  | .shlI o => Sys2Proof.Machine.execShlI o s
  | .shr o => Sys2Proof.Machine.execShr o s
  | .shrI o => Sys2Proof.Machine.execShrI o s
  | .sar o => Sys2Proof.Machine.execSar o s
  | .sarI o => Sys2Proof.Machine.execSarI o s
  | .shf o => Sys2Proof.Machine.execShf o s
  | .rot o => Sys2Proof.Machine.execRot o s
  | .bfe o => Sys2Proof.Machine.execBfe o s
  | .bfi o => Sys2Proof.Machine.execBfi o s
  | .brev o => Sys2Proof.Machine.execBrev o s
  | .popc o => Sys2Proof.Machine.execPopc o s
  | .clz o => Sys2Proof.Machine.execClz o s
  | .ctz o => Sys2Proof.Machine.execCtz o s
  | .prmt o => Sys2Proof.Machine.execPrmt o s
  | .isetb o => Sys2Proof.Machine.execIsetb o s
  | .isetbI o => Sys2Proof.Machine.execIsetbI o s
  | .sel o => Sys2Proof.Machine.execSel o s
  | .selI o => Sys2Proof.Machine.execSelI o s
  | .mov o => Sys2Proof.Machine.execMov o s
  | .movi o => Sys2Proof.Machine.execMovi o s
  | .mov64 o => Sys2Proof.Machine.execMov64 o s
  | .mov64I o => Sys2Proof.Machine.execMov64I o s
  | .lea o => Sys2Proof.Machine.execLea o s
  | .leaI o => Sys2Proof.Machine.execLeaI o s
  | .setbit o => Sys2Proof.Machine.execSetbit o s
  | .clrbit o => Sys2Proof.Machine.execClrbit o s
  | .bitop o => Sys2Proof.Machine.execBitop o s
  | .fadd o => Sys2Proof.Machine.execFadd o s
  | .faddI o => Sys2Proof.Machine.execFaddI o s
  | .fmul o => Sys2Proof.Machine.execFmul o s
  | .fmulI o => Sys2Proof.Machine.execFmulI o s
  | .ffma o => Sys2Proof.Machine.execFfma o s
  | .ffmaI o => Sys2Proof.Machine.execFfmaI o s
  | .fmin o => Sys2Proof.Machine.execFmin o s
  | .fminI o => Sys2Proof.Machine.execFminI o s
  | .fmax o => Sys2Proof.Machine.execFmax o s
  | .fmaxI o => Sys2Proof.Machine.execFmaxI o s
  | .fsetb o => Sys2Proof.Machine.execFsetb o s
  | .fsetbI o => Sys2Proof.Machine.execFsetbI o s
  | .fclass o => Sys2Proof.Machine.execFclass o s
  | .frnd o => Sys2Proof.Machine.execFrnd o s
  | .fscale o => Sys2Proof.Machine.execFscale o s
  | .rcp o => Sys2Proof.Machine.execRcp o s
  | .rsq o => Sys2Proof.Machine.execRsq o s
  | .sqrt o => Sys2Proof.Machine.execSqrt o s
  | .ex2 o => Sys2Proof.Machine.execEx2 o s
  | .lg2 o => Sys2Proof.Machine.execLg2 o s
  | .sin o => Sys2Proof.Machine.execSin o s
  | .cos o => Sys2Proof.Machine.execCos o s
  | .tanh o => Sys2Proof.Machine.execTanh o s
  | .idp4 o => Sys2Proof.Machine.execIdp4 o s
  | .hadd2 o => Sys2Proof.Machine.execHadd2 o s
  | .hadd2I o => Sys2Proof.Machine.execHadd2I o s
  | .hmul2 o => Sys2Proof.Machine.execHmul2 o s
  | .hmul2I o => Sys2Proof.Machine.execHmul2I o s
  | .hfma2 o => Sys2Proof.Machine.execHfma2 o s
  | .hfma2I o => Sys2Proof.Machine.execHfma2I o s
  | .hmin2 o => Sys2Proof.Machine.execHmin2 o s
  | .hmax2 o => Sys2Proof.Machine.execHmax2 o s
  | .hsetb2 o => Sys2Proof.Machine.execHsetb2 o s
  | .badd2 o => Sys2Proof.Machine.execBadd2 o s
  | .badd2I o => Sys2Proof.Machine.execBadd2I o s
  | .bmul2 o => Sys2Proof.Machine.execBmul2 o s
  | .bmul2I o => Sys2Proof.Machine.execBmul2I o s
  | .bfma2 o => Sys2Proof.Machine.execBfma2 o s
  | .bfma2I o => Sys2Proof.Machine.execBfma2I o s
  | .dadd o => Sys2Proof.Machine.execDadd o s
  | .dmul o => Sys2Proof.Machine.execDmul o s
  | .dfma o => Sys2Proof.Machine.execDfma o s
  | .dmin o => Sys2Proof.Machine.execDmin o s
  | .dmax o => Sys2Proof.Machine.execDmax o s
  | .dsetb o => Sys2Proof.Machine.execDsetb o s
  | .cvt o => Sys2Proof.Machine.execCvt o s
  | .cvtpk o => Sys2Proof.Machine.execCvtpk o s
  | .cvts o => Sys2Proof.Machine.execCvts o s
  | .shfl o => Sys2Proof.Machine.execShfl o s
  | .vote o => Sys2Proof.Machine.execVote o s
  | .redux o => Sys2Proof.Machine.execRedux o s
  | .elect o => Sys2Proof.Machine.execElect o s
  | .bra o => Sys2Proof.Machine.execBra o s
  | .brx o => Sys2Proof.Machine.execBrx o s
  | .call o => Sys2Proof.Machine.execCall o s
  | .callx o => Sys2Proof.Machine.execCallx o s
  | .ret o => Sys2Proof.Machine.execRet o s
  | .exit o => Sys2Proof.Machine.execExit o s
  | .meet o => Sys2Proof.Machine.execMeet o s
  | .region o => Sys2Proof.Machine.execRegion o s
  | .nop o => Sys2Proof.Machine.execNop o s
  | .trap o => Sys2Proof.Machine.execTrap o s
  | .resume o => Sys2Proof.Machine.execResume o s
  | .clrp o => Sys2Proof.Machine.execClrp o s
  | .ld o => Sys2Proof.Machine.execLd o s
  | .st o => Sys2Proof.Machine.execSt o s
  | .ldt o => Sys2Proof.Machine.execLdt o s
  | .pref o => Sys2Proof.Machine.execPref o s
  | .atom o => Sys2Proof.Machine.execAtom o s
  | .red o => Sys2Proof.Machine.execRed o s
  | .match o => Sys2Proof.Machine.execMatch o s
  | .fence o => Sys2Proof.Machine.execFence o s
  | .barArr o => Sys2Proof.Machine.execBarArr o s
  | .barWait o => Sys2Proof.Machine.execBarWait o s
  | .barSync o => Sys2Proof.Machine.execBarSync o s
  | .ctrwait o => Sys2Proof.Machine.execCtrwait o s
  | .oclaim o => Sys2Proof.Machine.execOclaim o s
  | .orelease o => Sys2Proof.Machine.execOrelease o s
  | .ohdr o => Sys2Proof.Machine.execOhdr o s
  | .old o => Sys2Proof.Machine.execOld o s
  | .aclaim o => Sys2Proof.Machine.execAclaim o s
  | .arelease o => Sys2Proof.Machine.execArelease o s
  | .azero o => Sys2Proof.Machine.execAzero o s
  | .ald o => Sys2Proof.Machine.execAld o s
  | .ast o => Sys2Proof.Machine.execAst o s
  | .ard o => Sys2Proof.Machine.execArd o s
  | .mma o => Sys2Proof.Machine.execMma o s
  | .mmas o => Sys2Proof.Machine.execMmas o s
  | .mmag o => Sys2Proof.Machine.execMmag o s
  | .mmags o => Sys2Proof.Machine.execMmags o s
  | .xcopy o => Sys2Proof.Machine.execXcopy o s
  | .xloop o => Sys2Proof.Machine.execXloop o s
  | .xgather o => Sys2Proof.Machine.execXgather o s
  | .xscatter o => Sys2Proof.Machine.execXscatter o s
  | .xred o => Sys2Proof.Machine.execXred o s
  | .xfence o => Sys2Proof.Machine.execXfence o s
  | .movs o => Sys2Proof.Machine.execMovs o s
  | .movsw o => Sys2Proof.Machine.execMovsw o s
  | .yield o => Sys2Proof.Machine.execYield o s
  | .tmark o => Sys2Proof.Machine.execTmark o s
  | .enq o => Sys2Proof.Machine.execEnq o s
  | .bkpt o => Sys2Proof.Machine.execBkpt o s
  | .cctl o => Sys2Proof.Machine.execCctl o s
  | .invi o => Sys2Proof.Machine.execInvi o s
  | .coxHalt => Sys2Proof.Machine.execCoxHalt s
  | .coxLi rd imm => Sys2Proof.Machine.execCoxLi rd imm s
  | .coxLih rd imm => Sys2Proof.Machine.execCoxLih rd imm s
  | .coxAdd rd ra rb imm => Sys2Proof.Machine.execCoxAdd rd ra rb imm s
  | .coxSub rd ra rb => Sys2Proof.Machine.execCoxSub rd ra rb s
  | .coxAnd rd ra rb => Sys2Proof.Machine.execCoxAnd rd ra rb s
  | .coxOr rd ra rb => Sys2Proof.Machine.execCoxOr rd ra rb s
  | .coxXor rd ra rb => Sys2Proof.Machine.execCoxXor rd ra rb s
  | .coxShl rd ra imm => Sys2Proof.Machine.execCoxShl rd ra imm s
  | .coxShr rd ra imm => Sys2Proof.Machine.execCoxShr rd ra imm s
  | .coxMul rd ra rb => Sys2Proof.Machine.execCoxMul rd ra rb s
  | .coxMinu rd ra rb => Sys2Proof.Machine.execCoxMinu rd ra rb s
  | .coxPkr rd imm => Sys2Proof.Machine.execCoxPkr rd imm s
  | .coxPkw ra imm => Sys2Proof.Machine.execCoxPkw ra imm s
  | .coxLdw rd ra w imm => Sys2Proof.Machine.execCoxLdw rd ra w imm s
  | .coxStw rd ra w imm => Sys2Proof.Machine.execCoxStw rd ra w imm s
  | .coxAtadd rd ra w imm => Sys2Proof.Machine.execCoxAtadd rd ra w imm s
  | .coxBeq ra rb imm => Sys2Proof.Machine.execCoxBeq ra rb imm s
  | .coxBne ra rb imm => Sys2Proof.Machine.execCoxBne ra rb imm s
  | .coxBltu ra rb imm => Sys2Proof.Machine.execCoxBltu ra rb imm s
  | .coxLoop imm => Sys2Proof.Machine.execCoxLoop imm s
  | .coxEndl => Sys2Proof.Machine.execCoxEndl s
  | .coxAct => Sys2Proof.Machine.execCoxAct s
  | .coxNotify ra => Sys2Proof.Machine.execCoxNotify ra s
  | .coxTime rd => Sys2Proof.Machine.execCoxTime rd s
  | .coxSeq rd => Sys2Proof.Machine.execCoxSeq rd s
  | .quarterIssue core quarter defer => Sys2Proof.Machine.execQuarterIssue core quarter defer s
  | .accessComplete t id => Sys2Proof.Machine.execAccessComplete t id s
  | .resultWritten t id => Sys2Proof.Machine.execResultWritten t id s
  | .meetTargetExpiry t => Sys2Proof.Machine.execMeetTargetExpiry t s
  | .yieldExpiry t => Sys2Proof.Machine.execYieldExpiry t s
  | .trapDelivery t => Sys2Proof.Machine.execTrapDelivery t s
  | .barrierPhaseComplete b => Sys2Proof.Machine.execBarrierPhaseComplete b s
  | .ctrwaitReread t => Sys2Proof.Machine.execCtrwaitReread t s
  | .blockEnd b => Sys2Proof.Machine.execBlockEnd b s
  | .enqRetry t => Sys2Proof.Machine.execEnqRetry t s
  | .enqPublish t => Sys2Proof.Machine.execEnqPublish t s
  | .claimGrant core id => Sys2Proof.Machine.execClaimGrant core id s
  | .resourceReleaseDone core id => Sys2Proof.Machine.execResourceReleaseDone core id s
  | .dataMoveComplete core id => Sys2Proof.Machine.execDataMoveComplete core id s
  | .productAccept core id => Sys2Proof.Machine.execProductAccept core id s
  | .productComplete core id => Sys2Proof.Machine.execProductComplete core id s
  | .transferCommandBegin b queue => Sys2Proof.Machine.execTransferCommandBegin b queue s
  | .transferChunk b id slice => Sys2Proof.Machine.execTransferChunk b id slice s
  | .transferCommandComplete b id => Sys2Proof.Machine.execTransferCommandComplete b id s
  | .xloopIteration b id => Sys2Proof.Machine.execXloopIteration b id s
  | .xredChunkCommit b id chunk => Sys2Proof.Machine.execXredChunkCommit b id chunk s
  | .walkStep hub => Sys2Proof.Machine.execWalkStep hub s
  | .sliceArbiterRun => Sys2Proof.Machine.execSliceArbiterRun s
  | .yieldDeadline g => Sys2Proof.Machine.execYieldDeadline g s
  | .preemptStopComplete g => Sys2Proof.Machine.execPreemptStopComplete g s
  | .saveComplete g => Sys2Proof.Machine.execSaveComplete g s
  | .restoreComplete g => Sys2Proof.Machine.execRestoreComplete g s
  | .launchAccept x => Sys2Proof.Machine.execLaunchAccept x s
  | .beaconSend hub => Sys2Proof.Machine.execBeaconSend hub s
  | .beaconReceive hub hw => Sys2Proof.Machine.execBeaconReceive hub hw s
  | .coreFloorRaise core => Sys2Proof.Machine.execCoreFloorRaise core s
  | .sweeperVisit line => Sys2Proof.Machine.execSweeperVisit line s
  | .coreStampSweep core => Sys2Proof.Machine.execCoreStampSweep core s
  | .l1Eviction core line => Sys2Proof.Machine.execL1Eviction core line s
  | .l3Eviction line => Sys2Proof.Machine.execL3Eviction line s
  | .spillEntryFree t id => Sys2Proof.Machine.execSpillEntryFree t id s
  | .spillWaitTimeout t id => Sys2Proof.Machine.execSpillWaitTimeout t id s
  | .throttleScoreHalve core quarter => Sys2Proof.Machine.execThrottleScoreHalve core quarter s
  | .peerRequest r => Sys2Proof.Machine.execPeerRequest r s
  | .peerResponse id err data hi o sc pa dropped race => Sys2Proof.Machine.execPeerResponse id err data hi o sc pa dropped race s
  | .peerRequestTimeout id => Sys2Proof.Machine.execPeerRequestTimeout id s
  | .xredChunkTimeout b id chunk => Sys2Proof.Machine.execXredChunkTimeout b id chunk s
  | .flitReceive port f => Sys2Proof.Machine.execFlitReceive port f s
  | .ackTimeout port => Sys2Proof.Machine.execAckTimeout port s
  | .signalLoss port => Sys2Proof.Machine.execSignalLoss port s
  | .portTrained port peer => Sys2Proof.Machine.execPortTrained port peer s
  | .portRecoveryTimeout port => Sys2Proof.Machine.execPortRecoveryTimeout port s
  | .frontierUpdate hub => Sys2Proof.Machine.execFrontierUpdate hub s
  | .replayLuTimeout hub chip => Sys2Proof.Machine.execReplayLuTimeout hub chip s
  | .debugTrigger core => Sys2Proof.Machine.execDebugTrigger core s
  | .stopRecordWrite b => Sys2Proof.Machine.execStopRecordWrite b s
  | .traceDrain section_ => Sys2Proof.Machine.execTraceDrain section_ s
  | .sectionGate section_ => Sys2Proof.Machine.execSectionGate section_ s
  | .traceGateTimeout section_ => Sys2Proof.Machine.execTraceGateTimeout section_ s
  | .gateFrameWrite section_ => Sys2Proof.Machine.execGateFrameWrite section_ s
  | .memoryErrorDetect section_ unit where_ correctable => Sys2Proof.Machine.execMemoryErrorDetect section_ unit where_ correctable s
  | .errorRateWindow section_ => Sys2Proof.Machine.execErrorRateWindow section_ s
  | .pad x => Sys2Proof.Machine.execPad x s
  | .launch x => Sys2Proof.Machine.execLaunch x s
  | .copy x => Sys2Proof.Machine.execCopy x s
  | .counterAdd x => Sys2Proof.Machine.execCounterAdd x s
  | .counterWait x => Sys2Proof.Machine.execCounterWait x s
  | .step x => Sys2Proof.Machine.execStep x s
  | .checkpoint x => Sys2Proof.Machine.execCheckpoint x s
  | .counterWaitSatisfied x => Sys2Proof.Machine.execCounterWaitSatisfied x s
  | .ordWaitSatisfied x => Sys2Proof.Machine.execOrdWaitSatisfied x s
  | .copyChunk x => Sys2Proof.Machine.execCopyChunk x s
  | .checkpointCut x => Sys2Proof.Machine.execCheckpointCut x s
  | .checkpointLineCopy x => Sys2Proof.Machine.execCheckpointLineCopy x s
  | .qwriteWrite x v => Sys2Proof.Machine.execQwriteWrite x v s
  | .progWrite x v => Sys2Proof.Machine.execProgWrite x v s
  | .qctlEnSet x v => Sys2Proof.Machine.execQctlEnSet x v s
  | .qctlEnClear x v => Sys2Proof.Machine.execQctlEnClear x v s
  | .tinvWrite x v => Sys2Proof.Machine.execTinvWrite x v s
  | .tinvDone x => Sys2Proof.Machine.execTinvDone x s
  | .ctxrecWrite x v => Sys2Proof.Machine.execCtxrecWrite x v s
  | .fstatHaltWrite x => Sys2Proof.Machine.execFstatHaltWrite x s
  | .fstatKillWrite x => Sys2Proof.Machine.execFstatKillWrite x s
  | .rlogbaseWrite x v => Sys2Proof.Machine.execRlogbaseWrite x v s
  | .rrgetWrite hub v => Sys2Proof.Machine.execRrgetWrite hub v s
  | .stopbaseWrite v => Sys2Proof.Machine.execStopbaseWrite v s
  | .dbgctlStop v => Sys2Proof.Machine.execDbgctlStop v s
  | .dbgctlResume v => Sys2Proof.Machine.execDbgctlResume v s
  | .dbgswapSwapOut => Sys2Proof.Machine.execDbgswapSwapOut s
  | .dbgswapRelease => Sys2Proof.Machine.execDbgswapRelease s
  | .dbgdataRead => Sys2Proof.Machine.execDbgdataRead s
  | .dbgdataWrite v => Sys2Proof.Machine.execDbgdataWrite v s
  | .rcvctlGo => Sys2Proof.Machine.execRcvctlGo s
  | .flashWriteComplete ok => Sys2Proof.Machine.execFlashWriteComplete ok s
  | .pctlEnWrite port v => Sys2Proof.Machine.execPctlEnWrite port v s
  | .registerWrite off v => Sys2Proof.Machine.execRegisterWrite off v s
  | .hostBar2Write off data => Sys2Proof.Machine.execHostBar2Write off data s
  | .hostBar2Read off size => Sys2Proof.Machine.execHostBar2Read off size s
  | .hostLinkDown => Sys2Proof.Machine.execHostLinkDown s
  | .hostLinkReset => Sys2Proof.Machine.execHostLinkReset s
  | .hostLinkUp => Sys2Proof.Machine.execHostLinkUp s
  | .ptmUpdate host => Sys2Proof.Machine.execPtmUpdate host s
  | .perst => Sys2Proof.Machine.execPerst s
  | .powerOnReset => Sys2Proof.Machine.execPowerOnReset s
  | .selftestControllerRun core quarter => Sys2Proof.Machine.execSelftestControllerRun core quarter s
  | .selftestFinish => Sys2Proof.Machine.execSelftestFinish s
  | .getVersion => Sys2Proof.Machine.execGetVersion s
  | .getCapabilities => Sys2Proof.Machine.execGetCapabilities s
  | .negotiateAlgorithms => Sys2Proof.Machine.execNegotiateAlgorithms s
  | .getDigests => Sys2Proof.Machine.execGetDigests s
  | .getCertificate offset len => Sys2Proof.Machine.execGetCertificate offset len s
  | .challenge nonce => Sys2Proof.Machine.execChallenge nonce s
  | .getMeasurements index signed nonce => Sys2Proof.Machine.execGetMeasurements index signed nonce s
  | .powerCapSet watts => Sys2Proof.Machine.execPowerCapSet watts s
  | .blackBoxRead die => Sys2Proof.Machine.execBlackBoxRead die s
  | .instructionFetchComplete t => Sys2Proof.Machine.execInstructionFetchComplete t s
  | .progCheckComplete x => Sys2Proof.Machine.execProgCheckComplete x s
  | .imageVerifyComplete => Sys2Proof.Machine.execImageVerifyComplete s
  | .msixVectorUnmask vector => Sys2Proof.Machine.execMsixVectorUnmask vector s
  | .chunkGet handle seq => Sys2Proof.Machine.execChunkGet handle seq s
  | .sectionUngate section_ => Sys2Proof.Machine.execSectionUngate section_ s

end Sys2Proof.Machine
end

