-- ==== Sys2Proof/Machine/Step.lean ====
section
/-!
DEFINITION. One step of the package (log entry 1), and the placing of one instruction where the next step runs it (log entry 5).
-/
namespace Sys2Proof.Machine

/-- The step: the instruction in focus, else what comes next. -/
def step (s : State) : Host.Outcome State Fault Refusal :=
  match s.focus with
  | .pass p =>
    match s.passWord p with
    | none => .fault .strayFocus
    | some (b, .inl sub) => .next (s.notInstr p b sub)
    | some (_, .inr i) => exec i s
  | .cox x =>
    match s.coxWordAt x with
    | none => .fault .strayFocus
    | some i => exec i s
  | .none =>
    match s.nextTurn with
    | (some (.inl i), t) => exec i t
    | (some (.inr k), t) => .next (t.runTick k)
    | (none, t) => .next t

/-- The launch that stands for the load of one thread instruction: one block of one crew whose threads have 128 registers. -/
def loadLaunch (idx : Nat) : Launch :=
  { idx := idx, seq := 0, asid := 0, cox := ⟨0, 0⟩,
    p := { entry := 0, x := 1, y := 1, z := 1, gx := 1, gy := 1, gz := 1, crews := 1, regs := 128, gran := 1, grows := 0, gcols := 0,
           idem := false, modes := 0, rwrap := false, prio := 0, coop := false, slice := 100, minres := 0, grace := 0, stackbase := 0,
           stride := 16, trapvec := 0, homev := false, harg := 0, stridex := 0, stridey := 0, rings := List.replicate 8 none,
           bpart := List.replicate 16 0, spart := List.replicate 8 0, args := [] },
    next := 0, ended := 0, rr := 0, bars := List.replicate 4 Barrier.reset, lb := 0, endS := 0, isOpen := true, packet := 0 }

/-- Stores the instruction of the opcode table's word where the next step runs it. Up to 32 bits: a cox context that runs it as the first
word of its program, for a STEP packet; more: a crew on core 0 whose 32 lowest threads form the pass, with the words in the core's
instruction cache. -/
def State.withFetchWord (s : State) (nbits w : Nat) : State :=
  if nbits ≤ 32 then
    let x : CoxId := ⟨0, 0⟩
    let load := fun (c : Cox) =>
      { c with en := true, loaded := true, state := 2, code := [BitVec.ofNat 32 w, 0], pc := 0, loops := [], budget := 0,
               packet := [0x205, 0], plen := 2, acted := false, actDone := false, wait := .none, openP := [0] }
    { s.modCox x load with focus := .cox x }
  else
    let idx := s.launches.length
    let l := { loadLaunch idx with next := 0 }
    let s1 := { s with launches := s.launches ++ [l] }
    let s2 := s1.placeNew l 0 [⟨0, 0, [0]⟩]
    let g := s2.serial
    let s3 := s2.modCore 0 (fun c => { c with icache := ⟨0, 0, leBytes 32 (w % 2 ^ nbits)⟩ :: c.icache })
    { s3 with focus := .pass { crew := ⟨g, 0, 0⟩, lanes := List.range 32, pc := 0, num := g, defer := false, collective := false } }

end Sys2Proof.Machine
end

