-- ==== Sys2Proof/Safety.lean ====
section
/-!
DEFINITION. The terms in which claims about the model are stated: safe steps, memories in their canonical form, the issue of a pass without
a fault, the result a lane receives, and what a step leaves as it was.
-/
namespace Sys2Proof.Machine

/-! ## Invariants -/

/-- HBM and the staging area of recovery are in canonical form (log entry 4). -/
def State.memWf (s : State) : Bool :=
  s.mem.wf && s.boot.staging.wf

/-- The fixed parts of a package: six hubs, six sections and eight waiting lists (R16, R21, R280), with HBM and the staging area of recovery
in the canonical form of log entry 4. -/
structure State.Inv (s : State) : Prop where
  mem : s.memWf = true
  hubs : s.hubs.length = 6
  sections : s.sections.length = 6
  waiting : s.waiting.length = 8

/-- A step that neither faults nor refuses. -/
def State.safeStep (s : State) : Prop := ∃ t, step s = .next t

/-! ## The issue of a pass -/

/-- The instruction with this opcode and these operands is the one that pass `p` issues at `s`, and no thread of the pass meets a fault,
consumes poison or is held by a replay there (R31, R334, R382, R393). `extra` gives the faults of the instruction's own entry. -/
structure Issues (s : State) (p : Pass) (code : Nat) (o : Ops) (extra : Env → Lane → List IssueFault) (e : Env) : Prop where
  focus : s.focus = .pass p
  env : s.env? p code o = some e
  nodup : p.lanes.Nodup
  clean : ∀ l ∈ e.lanes o, e.standing o l (extra e) = none
  runs : ∀ l ∈ e.lanes o, l.t.mayIssue = true

/-- A lane of the pass whose guard is true. -/
def Executes (e : Env) (o : Ops) (l : Lane) : Prop := l ∈ e.lanes o ∧ l.exec = true

/-! ## What a lane receives -/

/-- Register `q` of a thread holds `v`. -/
def State.regIs (s : State) (r : TRef) (q : BitVec 7) (v : Word) : Prop := ∃ x, s.thread? r = some x ∧ x.regs[q.toNat]? = some v

/-- The group of `w` registers that starts at `q` holds `v`, its low word in `q` (R47). -/
def State.groupIs (s : State) (r : TRef) (q : BitVec 7) (w v : Nat) : Prop := ∀ i, i < w → s.regIs r (q + BitVec.ofNat 7 i) (wordAtIdx v i)

/-- The group of `w` crew registers that starts at `q` holds `v`. -/
def State.crewIs (s : State) (c : CRef) (q : BitVec 7) (w v : Nat) : Prop :=
  ∀ i, i < w → ∃ x, s.crew? c = some x ∧ x.kregs[(q + BitVec.ofNat 7 i).toNat]? = some (wordAtIdx v i)

/-- The destination of a fixed-latency result holds what `f` gives: in each thread, or, a crew register, what the highest lane gives
(R46, R50), where the crew has those registers. -/
def State.resultIs (s : State) (e : Env) (o : Ops) (w : Nat) (f : Lane → Nat) : Prop :=
  (o.vd.crew = false → ∀ l, Executes e o l → s.groupIs l.ref o.vd.num w (f l))
  ∧ (o.vd.crew = true → (∀ i, i < w → (o.vd.num + BitVec.ofNat 7 i).toNat < e.crew.kregs.length) → ∀ l, ((e.lanes o).filter (fun x => x.exec)).getLast? = some l → s.crewIs e.pass.crew o.vd.num w (f l))

/-- An operation of the thread is under way that writes `ws` to its registers and `ks` to crew registers, and then drops the flag (R52, R138). -/
def State.pendIs (s : State) (l : Lane) (o : Ops) (ws ks : List (BitVec 7 × Word)) : Prop :=
  ∃ x p, s.thread? l.ref = some x ∧ p ∈ x.pend ∧ p.flag = o.flag ∧ p.lane = l.lane ∧ p.todo = none ∧ p.writes = ws ∧ p.kwrites = ks

/-! ## What a step leaves as it was -/

/-- Every byte of memory reads as before: HBM by physical address, the copies at the homes and in the L1 caches, the scratchpads, the operand
slots and the accumulators. -/
structure SameMemory (s t : State) : Prop where
  hbm : ∀ pa, t.physByte pa = s.physByte pa
  home : t.l3 = s.l3
  l1 : ∀ n, (t.core n).l1 = (s.core n).l1
  pad : ∀ b a, (t.block? b).map (fun x => x.scratch.read a) = (s.block? b).map (fun x => x.scratch.read a)
  slots : ∀ n, (t.core n).slots = (s.core n).slots
  accs : ∀ n, (t.core n).accs = (s.core n).accs

/-- The hubs, the contexts, the launches, the registers of the package and everything else outside its cores and groups stand as before. -/
structure SamePackage (s t : State) : Prop where
  hubs : t.hubs = s.hubs
  coxes : t.coxes = s.coxes
  asids : t.asids = s.asids
  launches : t.launches = s.launches
  waiting : t.waiting = s.waiting
  tags : t.tags = s.tags
  dbg : t.dbg = s.dbg
  boot : t.boot = s.boot
  ports : t.ports = s.ports
  host : t.hostO = s.hostO ∧ t.hostS = s.hostS
  now : t.now = s.now

/-- A thread's registers but those of `qs`, its clocks, checkpoint, special, trap and barrier state are as before. -/
structure SameThread (qs : List (BitVec 7)) (x y : Thread) : Prop where
  regs : ∀ q : BitVec 7, q ∉ qs → y.regs[q.toNat]? = x.regs[q.toNat]?
  poison : ∀ q : BitVec 7, q ∉ qs → (q ∈ y.poison ↔ q ∈ x.poison)
  clocks : y.o = x.o ∧ y.s = x.s ∧ y.pa = x.pa ∧ y.fs = x.fs
  syncscope : y.syncscope = x.syncscope
  trap : y.trapvec = x.trapvec ∧ y.trapcause = x.trapcause ∧ y.trapaddr = x.trapaddr ∧ y.trappc = x.trappc ∧ y.handler = x.handler
  faults : y.faults = x.faults
  exited : y.exited = x.exited
  arrivals : y.arrivals = x.arrivals
  wait : y.wait = x.wait
  hints : y.hints = x.hints

end Sys2Proof.Machine
end

