-- ==== Sys2Proof/Certificates/Slice0/Obligations.lean ====
section
/-!
DEFINITION. The statements for the provers, and the spec-side formulas in which they are stated: each formula follows the table or the
pseudocode of the rule its docstring cites.
-/
namespace Sys2Proof.Claims

open Sys2Proof.Machine

/-! ## Class 0 formulas (06_integer_and_control.md) -/

/-- Bits hi..lo of the modifier field (R74). -/
def modBits (o : Ops) (hi lo : Nat) : Nat := o.mod.toNat / 2 ^ lo % 2 ^ (hi - lo + 1)

/-- A modifier bit. -/
def modBit (o : Ops) (n : Nat) : Bool := o.mod.getLsbD n

/-- The type code of mod<4:0>, where 0 stands for the default (R75, R116). -/
def typeOf (dflt : Nat) (o : Ops) : Nat := if modBits o 4 0 = 0 then dflt else modBits o 4 0

/-- ext of R118: signed for `.s32`, else natural. -/
def ext (signed : Bool) (v : Nat) : Int := if signed then (BitVec.ofNat 32 v).toInt else ((v % 2 ^ 32 : Nat) : Int)

/-- The last lines of R118: the clamp of `.sat`, then bits 31:0. -/
def fit32 (signed sat : Bool) (r : Int) : Nat :=
  let lo : Int := if signed then -2 ^ 31 else 0
  let hi : Int := if signed then 2 ^ 31 - 1 else 2 ^ 32 - 1
  ((if sat then min (max r lo) hi else r) % 2 ^ 32).toNat

/-- `.s32` of a 32-bit arithmetic instruction whose default it is (Table 2). -/
def isS32 (o : Ops) : Bool := typeOf 3 o == 3

/-- One row of Table 2 with the values of S1, S2 and S3. -/
def arith (r : Int → Int → Int → Int) (o : Ops) (s1 s2 s3 : Nat) : Nat :=
  fit32 (isS32 o) (modBit o 13) (r (ext (isS32 o) s1) (ext (isS32 o) s2) (ext (isS32 o) s3))

/-- A family's rules: each constructor with the value that its destination receives from the operands read. -/
abbrev Rules := List ((Ops → Instr) × (Ops → Src → Nat))

/-- R118, Table 2; an I form's immediate stands in place of the last source. -/
def arithRules : Rules :=
  [(.iadd, fun o x => arith (fun a b _ => a + b) o x.a x.b x.c), (.iaddI, fun o x => arith (fun a b _ => a + b) o x.a o.imm.toNat x.c),
   (.isub, fun o x => arith (fun a b _ => a - b) o x.a x.b x.c), (.isubI, fun o x => arith (fun a b _ => a - b) o x.a o.imm.toNat x.c),
   (.ineg, fun o x => arith (fun a _ _ => -a) o x.a x.b x.c), (.iadd3, fun o x => arith (fun a b c => a + b + c) o x.a x.b x.c),
   (.imul, fun o x => arith (fun a b _ => a * b) o x.a x.b x.c), (.imulI, fun o x => arith (fun a b _ => a * b) o x.a o.imm.toNat x.c),
   (.imulh, fun o x => arith (fun a b _ => a * b / 2 ^ 32) o x.a x.b x.c),
   (.imad, fun o x => arith (fun a b c => a * b + c) o x.a x.b x.c), (.imadI, fun o x => arith (fun a b c => a * b + c) o x.a x.b o.imm.toNat),
   (.imin, fun o x => arith (fun a b _ => min a b) o x.a x.b x.c), (.iminI, fun o x => arith (fun a b _ => min a b) o x.a o.imm.toNat x.c),
   (.imax, fun o x => arith (fun a b _ => max a b) o x.a x.b x.c), (.imaxI, fun o x => arith (fun a b _ => max a b) o x.a o.imm.toNat x.c),
   (.iabs, fun o x => arith (fun a _ _ => |a|) o x.a x.b x.c),
   (.isad, fun o x =>
      if typeOf 7 o = 5 then
        fit32 false (modBit o 13) (x.c + ((List.range 4).map (fun j => |((x.a / 256 ^ j % 256 : Nat) : Int) - ((x.b / 256 ^ j % 256 : Nat) : Int)|)).sum)
      else
        fit32 (typeOf 7 o == 3) (modBit o 13) (ext (typeOf 7 o == 3) x.c + |ext (typeOf 7 o == 3) x.a - ext (typeOf 7 o == 3) x.b|))]

/-- R119, Table 3. -/
def wideRules : Rules :=
  [(.iadd64, fun _ x => (x.a + x.b) % 2 ^ 64), (.isub64, fun _ x => (((x.a : Int) - x.b) % 2 ^ 64).toNat),
   (.imad64, fun _ x => (x.a * x.b + x.c) % 2 ^ 64),
   (.imadw, fun o x => ((ext (isS32 o) x.a * ext (isS32 o) x.b + x.c) % 2 ^ 64).toNat)]

def w32 (v : Nat) : Word := BitVec.ofNat 32 v

/-- R120, Table 4, and R121. -/
def logicRules : Rules :=
  [(.and, fun _ x => (w32 x.a &&& w32 x.b).toNat), (.andI, fun o x => (w32 x.a &&& w32 o.imm.toNat).toNat),
   (.or, fun _ x => (w32 x.a ||| w32 x.b).toNat), (.orI, fun o x => (w32 x.a ||| w32 o.imm.toNat).toNat),
   (.xor, fun _ x => (w32 x.a ^^^ w32 x.b).toNat), (.xorI, fun o x => (w32 x.a ^^^ w32 o.imm.toNat).toNat),
   (.not, fun _ x => (~~~w32 x.a).toNat),
   (.andn, fun _ x => (w32 x.a &&& ~~~w32 x.b).toNat), (.andnI, fun o x => (w32 x.a &&& ~~~w32 o.imm.toNat).toNat),
   (.brev, fun _ x => (ofBits32 (fun i => (w32 x.a).getLsbD (31 - i))).toNat),
   (.popc, fun _ x => ((List.range 32).map (fun i => ((w32 x.a).getLsbD i).toNat)).sum),
   (.clz, fun _ x => if w32 x.a = 0 then 32 else 31 - (w32 x.a).toNat.log2),
   (.ctz, fun _ x => if w32 x.a = 0 then 32 else padicValNat 2 (w32 x.a).toNat),
   (.lop3, fun o x => (ofBits32 (fun i =>
      (modBits o 19 12).testBit (((w32 x.a).getLsbD i).toNat + 2 * ((w32 x.b).getLsbD i).toNat + 4 * ((w32 x.c).getLsbD i).toNat))).toNat)]

/-- The count of SHL, SHR and SAR, reduced under `.wrap` (R122). -/
def count (o : Ops) (n : Nat) : Nat := if modBit o 13 then n % 32 else n

def shlRule (o : Ops) (a n : Nat) : Nat := a * 2 ^ count o n % 2 ^ 32
def shrRule (o : Ops) (a n : Nat) : Nat := a % 2 ^ 32 / 2 ^ count o n
def sarRule (o : Ops) (a n : Nat) : Nat := ((w32 a).toInt / 2 ^ count o n % 2 ^ 32).toNat

/-- R122, Table 5. -/
def shiftRules : Rules :=
  [(.shl, fun o x => shlRule o x.a x.b), (.shlI, fun o x => shlRule o x.a o.imm.toNat),
   (.shr, fun o x => shrRule o x.a x.b), (.shrI, fun o x => shrRule o x.a o.imm.toNat),
   (.sar, fun o x => sarRule o x.a x.b), (.sarI, fun o x => sarRule o x.a o.imm.toNat),
   (.shf, fun o x =>
      let w := (x.b * 2 ^ 32 + x.a) % 2 ^ 64
      if modBit o 14 then
        let n := min x.c 64
        if modBit o 13 then w / 2 ^ n % 2 ^ 32 else w * 2 ^ n % 2 ^ 64 / 2 ^ 32
      else
        let n := x.c % 64
        if modBit o 13 then (w / 2 ^ n + w * 2 ^ (64 - n)) % 2 ^ 64 % 2 ^ 32 else (w * 2 ^ n + w / 2 ^ (64 - n)) % 2 ^ 64 / 2 ^ 32),
   (.rot, fun o x =>
      let a := x.a % 2 ^ 32
      let n := x.b % 32
      if modBit o 13 then (a / 2 ^ n + a * 2 ^ (32 - n)) % 2 ^ 32 else (a * 2 ^ n + a / 2 ^ (32 - n)) % 2 ^ 32)]

/-- Byte j of PRMT (R124). -/
def prmtByte (x : Src) (j : Nat) : Nat :=
  let s := x.c / 2 ^ (4 * j) % 16
  let r := if s / 8 = 1 then x.b else x.a
  let v := r / 2 ^ (8 * (s % 4)) % 256
  if s / 4 % 2 = 1 then (if v / 128 = 1 then 255 else 0) else v

/-- R123 and R124. -/
def fieldRules : Rules :=
  [(.bfe, fun o x =>
      let p := min (x.b % 256) 32
      let l := min (x.b / 256 % 256) 32
      let signed := typeOf 7 o == 3
      let f := (if signed then (w32 x.a).toInt else (x.a : Int)) / 2 ^ p % 2 ^ l
      ((if signed ∧ 0 < l ∧ 2 ^ (l - 1) ≤ f then f - 2 ^ l else f) % 2 ^ 32).toNat),
   (.bfi, fun _ x =>
      let p := min (x.b % 256) 32
      let l := min (x.b / 256 % 256) 32
      let m := w32 ((2 ^ l - 1) * 2 ^ p)
      ((w32 x.c &&& ~~~m) ||| (w32 (x.a * 2 ^ p) &&& m)).toNat),
   (.prmt, fun _ x => prmtByte x 0 + 2 ^ 8 * prmtByte x 1 + 2 ^ 16 * prmtByte x 2 + 2 ^ 24 * prmtByte x 3)]

/-- The register with bit b replaced and every other bit unchanged. -/
def withBit (d b : Nat) (v : Bool) : Nat := (ofBits32 (fun i => if i = b then v else (w32 d).getLsbD i)).toNat

/-- The comparisons of R125 (codes 6 and 7 are no instruction). -/
def cmpRule (c : Nat) (a b : Int) : Bool :=
  match c with
  | 0 => a = b
  | 1 => a ≠ b
  | 2 => a < b
  | 3 => a ≤ b
  | 4 => b < a
  | _ => b ≤ a

/-- A value as T (R125): 3 `.s32`, 4 `.s64`, else natural. -/
def asType (t v : Nat) : Int := if t = 3 then (w32 v).toInt else if t = 4 then (BitVec.ofNat 64 v).toInt else v

/-- The immediate of ISETB's I form as T (R84, R125). -/
def immType (t : Nat) (o : Ops) : Int :=
  if t = 4 ∨ t = 8 then asType t ((o.imm.extractLsb' 0 32).signExtend 64).toNat else asType t o.imm.toNat

/-- R125 to R127. -/
def bitRules : Rules :=
  [(.isetb, fun o x => withBit x.d (modBits o 18 14) (cmpRule (modBits o 12 10) (asType (typeOf 3 o) x.a) (asType (typeOf 3 o) x.b))),
   (.isetbI, fun o x => withBit x.d (modBits o 18 14) (cmpRule (modBits o 12 10) (asType (typeOf 3 o) x.a) (immType (typeOf 3 o) o))),
   (.sel, fun o x => if (w32 x.a).getLsbD (modBits o 18 14) then x.b else x.c),
   (.selI, fun o x => if (w32 x.a).getLsbD (modBits o 18 14) then x.b else o.imm.toNat),
   (.setbit, fun o x => withBit x.d (if modBit o 19 then x.a % 32 else modBits o 18 14) true),
   (.clrbit, fun o x => withBit x.d (if modBit o 19 then x.a % 32 else modBits o 18 14) false),
   (.bitop, fun o x =>
      let p := (w32 x.a).getLsbD (o.mod2.toNat % 32)
      let q := (w32 x.b).getLsbD (o.mod2.toNat / 32 % 32)
      withBit x.d (modBits o 18 14) (match modBits o 12 10 with
        | 0 => p && q
        | 1 => p || q
        | 2 => xor p q
        | 3 => p && !q
        | 4 => p || !q
        | _ => !(xor p q)))]

/-- R129, Table 7: one register. -/
def moveRules : Rules := [(.mov, fun _ x => x.a), (.movi, fun o _ => o.imm.toNat)]

/-- R129, Table 7: a pair. -/
def addressRules : Rules :=
  [(.mov64, fun _ x => x.a), (.mov64I, fun o _ => o.imm.toNat),
   (.lea, fun o x =>
      (((x.a : Int) + (if modBit o 13 then ((x.b % 2 ^ 32 : Nat) : Int) else (w32 x.b).toInt) * 2 ^ modBits o 18 14) % 2 ^ 64).toNat),
   (.leaI, fun o x => (((x.a : Int) + (o.imm.extractLsb' 0 32).toInt * 2 ^ modBits o 18 14) % 2 ^ 64).toNat)]

/-- Every instruction of the family completes, and its destination, of `w` registers, receives the value of its rule in every lane that
executes it (R46, R50, R113). -/
def GivesResult (w : Ops → Nat) (rules : Rules) : Prop :=
  ∀ (f : Ops → Instr) (v : Ops → Src → Nat), (f, v) ∈ rules → ∀ (o : Ops) (s : State) (p : Pass) (e : Env) (code : Nat),
    opcodeOf (f o) = some (code, o) → Issues s p code o noFaults e →
    ∃ t, exec (f o) s = .next t ∧ t.resultIs e o (w o) (fun l => v o l.src)

/-! ## Class 1 and 2 formulas (07_floating_point.md) -/

/-- Source n after the modifiers of R143: abs clears the sign bit, neg then inverts it. -/
def srcVal (o : Ops) (T : Fmt) (n v : Nat) : Nat :=
  let sign := v / 2 ^ T.signBit % 2 = 1
  v % 2 ^ T.signBit + (if xor (sign ∧ modBit o (16 + n) = false : Bool) (modBit o (13 + n)) then 2 ^ T.signBit else 0)

/-- `.clamp` (R144): +0 for a NaN and for a result at or below zero, 1.0 above 1.0. -/
def clampTo (T : Fmt) (r : Nat) : Nat :=
  if r % 2 ^ T.signBit > T.inf.getD T.maxCode then 0
  else if r / 2 ^ T.signBit % 2 = 1 then 0
  else min r (T.bias * 2 ^ T.frac)

/-- R144: one rounding of the exact result, then `.clamp`. -/
def fpRule (o : Ops) (T : Fmt) (x : Val) : Nat :=
  let r := T.round (modBits o 12 10) false x
  if modBit o 13 then clampTo T r else r

def addRule (o : Ops) (T : Fmt) (a b : Nat) : Nat := fpRule o T (Val.add (modBits o 12 10) (T.val (srcVal o T 1 a)) (T.val (srcVal o T 2 b)))

def mulRule (o : Ops) (T : Fmt) (a b : Nat) : Nat := fpRule o T ((T.val (srcVal o T 1 a)).mul (T.val (srcVal o T 2 b)))

def fmaRule (o : Ops) (T : Fmt) (a b c : Nat) : Nat :=
  fpRule o T (Val.add (modBits o 12 10) ((T.val (srcVal o T 1 a)).mul (T.val (srcVal o T 2 b))) (T.val (srcVal o T 3 c)))

/-- R145: the other operand for one NaN, the canonical NaN for two, else the smaller (or larger) with −0 below +0. -/
def minMaxRule (T : Fmt) (greater : Bool) (a b : Nat) : Nat :=
  if T.val a = .nan ∧ T.val b = .nan then T.nanCode
  else if T.val a = .nan then b
  else if T.val b = .nan then a
  else if greater then (if T.key a < T.key b then b else a) else (if T.key a < T.key b then a else b)

/-- The comparisons of R146; −0 equals +0. -/
def fcmpRule (T : Fmt) (c a b : Nat) : Bool :=
  let nan : Bool := T.val a = .nan ∨ T.val b = .nan
  let x := T.flatKey a
  let y := T.flatKey b
  match c with
  | 0 => !nan && x = y
  | 1 => nan || x ≠ y
  | 2 => !nan && x < y
  | 3 => !nan && x ≤ y
  | 4 => !nan && x > y
  | 5 => !nan && x ≥ y
  | 6 => !nan
  | _ => nan

/-- A compare's source: abs alone (R146). -/
def absVal (o : Ops) (T : Fmt) (n v : Nat) : Nat := if modBit o (16 + n) then v % 2 ^ T.signBit else v

/-- The format of FRND, FSCALE and FCLASS: mod<4:0>, `.f32` the default. -/
def fmtOp (o : Ops) : Fmt := fmtOf (typeOf 15 o)

/-- R147, from the value and the top fraction bit. -/
def classRule (T : Fmt) (c : Nat) : Nat :=
  match T.val c with
  | .inf true => 2 ^ 0
  | .fin true m _ => if m = 0 then 2 ^ 3 else if m < 2 ^ T.frac then 2 ^ 2 else 2 ^ 1
  | .fin false m _ => if m = 0 then 2 ^ 4 else if m < 2 ^ T.frac then 2 ^ 5 else 2 ^ 6
  | .inf false => 2 ^ 7
  | .nan => if c / 2 ^ (T.frac - 1) % 2 = 0 then 2 ^ 8 else 2 ^ 9

/-- R148: NaN is canonical and infinities stand; a finite value becomes the integral value that the mode rounds it to. -/
def rndRule (o : Ops) (T : Fmt) (a : Nat) : Nat :=
  match T.val a with
  | .nan => T.nanCode
  | .inf _ => a
  | .fin s m e => T.round 0 false (.fin s (roundIntegral (modBits o 12 10) s m e) 0)

def scaleRule (o : Ops) (T : Fmt) (a : Nat) (n : Int) : Nat :=
  match T.val a with
  | .nan => T.nanCode
  | .inf _ => a
  | .fin s m e => if m = 0 then a else T.round (modBits o 12 10) false (.fin s m (e + n))

/-- A byte as its type (R153): 1 `.s8`, else natural. -/
def byteAs (t v j : Nat) : Int := if t = 1 then (BitVec.ofNat 8 (v / 256 ^ j)).toInt else ((v / 256 ^ j % 256 : Nat) : Int)

/-- The second type field, mod<9:5>, with its default. -/
def typeOf2 (dflt : Nat) (o : Ops) : Nat := if modBits o 9 5 = 0 then dflt else modBits o 9 5

/-- R144 to R147 and R153. -/
def fp32Rules : Rules :=
  [(.fadd, fun o x => addRule o f32Fmt x.a x.b), (.faddI, fun o x => addRule o f32Fmt x.a o.imm.toNat),
   (.fmul, fun o x => mulRule o f32Fmt x.a x.b), (.fmulI, fun o x => mulRule o f32Fmt x.a o.imm.toNat),
   (.ffma, fun o x => fmaRule o f32Fmt x.a x.b x.c), (.ffmaI, fun o x => fmaRule o f32Fmt x.a x.b o.imm.toNat),
   (.fmin, fun o x => minMaxRule f32Fmt false (srcVal o f32Fmt 1 x.a) (srcVal o f32Fmt 2 x.b)),
   (.fminI, fun o x => minMaxRule f32Fmt false (srcVal o f32Fmt 1 x.a) (srcVal o f32Fmt 2 o.imm.toNat)),
   (.fmax, fun o x => minMaxRule f32Fmt true (srcVal o f32Fmt 1 x.a) (srcVal o f32Fmt 2 x.b)),
   (.fmaxI, fun o x => minMaxRule f32Fmt true (srcVal o f32Fmt 1 x.a) (srcVal o f32Fmt 2 o.imm.toNat)),
   (.fsetb, fun o x => withBit x.d (modBits o 9 5) (fcmpRule f32Fmt (modBits o 16 14) (absVal o f32Fmt 1 x.a) (absVal o f32Fmt 2 x.b))),
   (.fsetbI, fun o x => withBit x.d (modBits o 9 5) (fcmpRule f32Fmt (modBits o 16 14) (absVal o f32Fmt 1 x.a) (absVal o f32Fmt 2 o.imm.toNat))),
   (.fclass, fun o x => classRule (fmtOp o) (x.a % 2 ^ ((fmtOp o).signBit + 1))),
   (.idp4, fun o x =>
      let s := typeOf 1 o == 1 || typeOf2 1 o == 1
      fit32 s (modBit o 13) (ext s x.c + ((List.range 4).map (fun j => byteAs (typeOf 1 o) x.a j * byteAs (typeOf2 1 o) x.b j)).sum))]

/-- R148; the width is that of the type. -/
def roundRules : Rules :=
  [(.frnd, fun o x => rndRule o (fmtOp o) (srcVal o (fmtOp o) 1 x.a)),
   (.fscale, fun o x => scaleRule o (fmtOp o) (srcVal o (fmtOp o) 1 x.a) (w32 x.b).toInt)]

/-- Element h of a packed register (R150). -/
def elem (v h : Nat) : Nat := v / 2 ^ (16 * h) % 2 ^ 16

/-- A packed instruction: its rule on element 0 and on element 1, with the elements of source 2 exchanged under `.cross` (R150). -/
def pack2 (o : Ops) (r : Nat → Nat → Nat → Nat) (a b c : Nat) : Nat :=
  let k := if modBit o 5 then 1 else 0
  r (elem a 0) (elem b k) (elem c 0) + 2 ^ 16 * r (elem a 1) (elem b (1 - k)) (elem c 1)

/-- R150 (Table 5) and R151 (b = 31 is no instruction). -/
def packedRules : Rules :=
  [(.hadd2, fun o x => pack2 o (fun a b _ => addRule o f16Fmt a b) x.a x.b x.c),
   (.hadd2I, fun o x => pack2 o (fun a b _ => addRule o f16Fmt a b) x.a o.imm.toNat x.c),
   (.hmul2, fun o x => pack2 o (fun a b _ => mulRule o f16Fmt a b) x.a x.b x.c),
   (.hmul2I, fun o x => pack2 o (fun a b _ => mulRule o f16Fmt a b) x.a o.imm.toNat x.c),
   (.hfma2, fun o x => pack2 o (fmaRule o f16Fmt) x.a x.b x.c), (.hfma2I, fun o x => pack2 o (fmaRule o f16Fmt) x.a x.b o.imm.toNat),
   (.badd2, fun o x => pack2 o (fun a b _ => addRule o bf16Fmt a b) x.a x.b x.c),
   (.badd2I, fun o x => pack2 o (fun a b _ => addRule o bf16Fmt a b) x.a o.imm.toNat x.c),
   (.bmul2, fun o x => pack2 o (fun a b _ => mulRule o bf16Fmt a b) x.a x.b x.c),
   (.bmul2I, fun o x => pack2 o (fun a b _ => mulRule o bf16Fmt a b) x.a o.imm.toNat x.c),
   (.bfma2, fun o x => pack2 o (fmaRule o bf16Fmt) x.a x.b x.c), (.bfma2I, fun o x => pack2 o (fmaRule o bf16Fmt) x.a x.b o.imm.toNat),
   (.hmin2, fun o x => pack2 o (fun a b _ =>
      minMaxRule (fmtOf (typeOf 16 o)) false (srcVal o (fmtOf (typeOf 16 o)) 1 a) (srcVal o (fmtOf (typeOf 16 o)) 2 b)) x.a x.b 0),
   (.hmax2, fun o x => pack2 o (fun a b _ =>
      minMaxRule (fmtOf (typeOf 16 o)) true (srcVal o (fmtOf (typeOf 16 o)) 1 a) (srcVal o (fmtOf (typeOf 16 o)) 2 b)) x.a x.b 0),
   (.hsetb2, fun o x =>
      let T := fmtOf (typeOf 16 o)
      let c := fun h => fcmpRule T (modBits o 16 14) (absVal o T 1 (elem x.a h)) (absVal o T 2 (elem x.b h))
      withBit (withBit x.d (modBits o 9 5) (c 0)) ((modBits o 9 5 + 1) % 32) (c 1))]

/-- Every instruction of the family completes, and in every lane that executes it an operation comes under way that writes its destination,
of `w` registers, with the value of its rule (R52, R67, R138); of a crew register the highest lane's stands (R50). -/
def GivesLate (w : Nat) (rules : Rules) : Prop :=
  ∀ (f : Ops → Instr) (v : Ops → Src → Nat), (f, v) ∈ rules → ∀ (o : Ops) (s : State) (p : Pass) (e : Env) (code : Nat),
    opcodeOf (f o) = some (code, o) → Issues s p code o noFaults e →
    ∃ t, exec (f o) s = .next t
      ∧ (o.vd.crew = false → ∀ l, Executes e o l → t.pendIs l o (resultWords o.vd w (v o l.src)) [])
      ∧ (o.vd.crew = true → ∀ l, ((e.lanes o).filter (fun x => x.exec)).getLast? = some l → t.pendIs l o [] (resultWords o.vd w (v o l.src)))

def f32Sign (neg : Bool) : Nat := if neg then 2 ^ 31 else 0

/-- Table 4 of R149, and for any other value the rounded function, which `SfuFn.apply` computes (log entry 10). -/
def sfuRule (f : SfuFn) (o : Ops) (a : Nat) : Nat :=
  match f, f32Fmt.val (srcVal o f32Fmt 1 a) with
  | _, .nan => 0x7FC00000
  | .rcp, .inf n => f32Sign n
  | .rsq, .inf n => if n then 0x7FC00000 else 0
  | .sqrt, .inf n => if n then 0x7FC00000 else 0x7F800000
  | .ex2, .inf n => if n then 0 else 0x7F800000
  | .lg2, .inf n => if n then 0x7FC00000 else 0x7F800000
  | .sin, .inf _ => 0x7FC00000
  | .cos, .inf _ => 0x7FC00000
  | .tanh, .inf n => f32Sign n + 0x3F800000
  | g, .fin n m e =>
    if m = 0 then
      match g with
      | .rcp => f32Sign n + 0x7F800000
      | .rsq => f32Sign n + 0x7F800000
      | .sqrt => f32Sign n
      | .ex2 => 0x3F800000
      | .lg2 => 0xFF800000
      | .sin => f32Sign n
      | .cos => 0x3F800000
      | .tanh => f32Sign n
    else if n = true ∧ (g = .rsq ∨ g = .sqrt ∨ g = .lg2) then 0x7FC00000
    else if g = .lg2 ∧ f32Fmt.round 0 false (.fin n m e) = 0x3F800000 ∧ f32Fmt.val 0x3F800000 = .fin n m e then 0
    else g.apply (modBits o 12 10) (.fin n m e)

/-- R149. -/
def sfuRules : Rules :=
  [(.rcp, fun o x => sfuRule .rcp o x.a), (.rsq, fun o x => sfuRule .rsq o x.a), (.sqrt, fun o x => sfuRule .sqrt o x.a),
   (.ex2, fun o x => sfuRule .ex2 o x.a), (.lg2, fun o x => sfuRule .lg2 o x.a), (.sin, fun o x => sfuRule .sin o x.a),
   (.cos, fun o x => sfuRule .cos o x.a), (.tanh, fun o x => sfuRule .tanh o x.a)]

/-- R152: the pairs of DADD to DMAX. -/
def fp64Rules : Rules :=
  [(.dadd, fun o x => addRule o f64Fmt x.a x.b), (.dmul, fun o x => mulRule o f64Fmt x.a x.b), (.dfma, fun o x => fmaRule o f64Fmt x.a x.b x.c),
   (.dmin, fun o x => minMaxRule f64Fmt false (srcVal o f64Fmt 1 x.a) (srcVal o f64Fmt 2 x.b)),
   (.dmax, fun o x => minMaxRule f64Fmt true (srcVal o f64Fmt 1 x.a) (srcVal o f64Fmt 2 x.b))]

/-- R152: DSETB writes one bit of one register. -/
def dsetbRules : Rules :=
  [(.dsetb, fun o x => withBit x.d (modBits o 9 5) (fcmpRule f64Fmt (modBits o 16 14) (absVal o f64Fmt 1 x.a) (absVal o f64Fmt 2 x.b)))]

/-! ## Conversions and lane exchange (07_floating_point.md) -/

/-- Type codes 1 to 4 are signed, 5 to 8 natural, of 8, 16, 32 and 64 bits. -/
def tyBits (t : Nat) : Nat := 8 * 2 ^ ((t - 1) % 4)

/-- An integer source (R154). -/
def intOf (t v : Nat) : Int := if t ≤ 4 then (BitVec.ofNat (tyBits t) v).toInt else ((v % 2 ^ tyBits t : Nat) : Int)

/-- The low bits of an integer in a destination, with sign copies above a narrow signed value (R154). -/
def putInt (t : Nat) (x : Int) : Nat :=
  if t ≤ 3 then ((BitVec.ofInt (tyBits t) x).toInt % 2 ^ 32).toNat else (x % 2 ^ tyBits t).toNat

/-- The range of an integer type. -/
def tyLo (t : Nat) : Int := if t ≤ 4 then -2 ^ (tyBits t - 1) else 0
def tyHi (t : Nat) : Int := if t ≤ 4 then 2 ^ (tyBits t - 1) - 1 else 2 ^ tyBits t - 1

def isFloat (t : Nat) : Bool := 14 ≤ t

/-- The exact value of a source. -/
def valAs (t v : Nat) : Val :=
  if isFloat t then (fmtOf t).val (v % 2 ^ ((fmtOf t).signBit + 1)) else .fin (intOf t v < 0) (intOf t v).natAbs 0

/-- Table 6 for a destination type and an exact value, with the seed before and after (R156: mode 4 is `.rs`). -/
def convTo (t m : Nat) (sat : Bool) (x : Val) (seed : Word) : Nat × Word :=
  if isFloat t then (if m = 4 then (fmtOf t).srnd sat x seed else ((fmtOf t).round m sat x, seed))
  else
    (putInt t (match x with
      | .nan => 0
      | .inf n => if n then tyLo t else tyHi t
      | .fin n c e => min (max ((if n then -1 else 1) * (roundIntegral m n c e : Int)) (tyLo t)) (tyHi t)), seed)

/-- R155: integer to integer keeps the low bits unless `.sat` clamps; else Table 6. -/
def cvtRule (t u m : Nat) (sat : Bool) (v : Nat) (seed : Word) : Nat × Word :=
  if isFloat t || isFloat u then convTo t m sat (valAs u v) seed
  else (putInt t (if sat then min (max (intOf u v) (tyLo t)) (tyHi t) else intOf u v), seed)

/-- Width of an element of CVTPK (R157). -/
def pkBits (t : Nat) : Nat := if t = 20 then 4 else if t = 18 ∨ t = 19 ∨ t = 1 ∨ t = 5 then 8 else 16

/-- Element i, of w bits, replaced. -/
def putAt (d w i x : Nat) : Nat := (ofBits32 (fun j => if w * i ≤ j ∧ j < w * i + w then x.testBit (j - w * i) else (w32 d).getLsbD j)).toNat

/-- R157: vs1 first, vs2 second. -/
def cvtpkRule (o : Ops) (x : Src) : Nat × Word :=
  let t := typeOf 16 o
  let u := typeOf2 15 o
  let h := modBits o 15 14
  let r := cvtRule t u (modBits o 12 10) (modBit o 13) x.a (w32 x.e)
  let q := cvtRule t u (modBits o 12 10) (modBit o 13) x.b r.2
  (putAt (putAt x.c (pkBits t) (2 * h) r.1) (pkBits t) (2 * h + 1) q.1, q.2)

/-- R155, R157 and R158: value and advanced seed, and the seed register. -/
def convRules : List ((Ops → Instr) × (Ops → Src → Nat × Word) × (Ops → Reg)) :=
  [(.cvt, fun o x => cvtRule (typeOf 15 o) (typeOf2 15 o) (modBits o 12 10) (modBit o 13) x.a (w32 x.b), fun o => o.vs2),
   (.cvtpk, cvtpkRule, fun o => o.vs4),
   (.cvts, fun o x => convTo (typeOf 18 o) (modBits o 12 10) true ((valAs (typeOf2 15 o) x.a).mul (f32Fmt.val (x.b % 2 ^ 32))) (w32 x.c),
     fun o => o.vs3)]

/-- The lane that SHFL reads (R160). -/
def shflLane (o : Ops) (l : Lane) : Nat :=
  let w := 32 / 2 ^ modBits o 18 16
  let j := l.lane % w
  let m := l.src.b % 32 % w
  l.lane / w * w + (match modBits o 14 13 with
    | 0 => (((j : Int) - m) % w).toNat
    | 1 => j ^^^ m
    | 2 => m
    | _ => (((m : Int) - j) % w).toNat)

/-- id of R162. -/
def idOf (op t : Nat) : Nat :=
  match op, t with
  | 1, 3 => 0x7FFFFFFF
  | 1, _ => 0xFFFFFFFF
  | 2, 3 => 0x80000000
  | 3, _ => 0xFFFFFFFF
  | _, _ => 0

/-- The operations of R162. -/
def combineOp (op t : Nat) (a b : Nat) : Nat :=
  match op with
  | 0 => (a + b) % 2 ^ 32
  | 1 => if asType t a ≤ asType t b then a else b
  | 2 => if asType t a ≤ asType t b then b else a
  | 3 => a &&& b
  | 4 => a ||| b
  | _ => a ^^^ b

/-- The active lanes that a lane's REDUX covers (R162). -/
def reduxOver (o : Ops) (act : List Lane) (l : Lane) : List Lane :=
  let w := 32 / 2 ^ modBits o 17 16
  act.filter (fun x => x.lane / w == l.lane / w && (match modBits o 19 18 with
    | 0 => true
    | 1 => decide (x.lane ≤ l.lane)
    | _ => decide (x.lane < l.lane)))

/-- R160 to R163: what a lane receives from the active lanes of its pass; none leaves its destination unchanged. -/
def laneRules : List ((Ops → Instr) × (Ops → List Lane → Lane → Option Nat)) :=
  [(.shfl, fun o act l => (act.find? (fun x => x.lane == shflLane o l)).map (fun x => x.src.a)),
   (.vote, fun o act _ =>
      let hits := (act.filter (fun x => (w32 x.src.a).getLsbD (modBits o 19 15))).map (fun x => x.lane)
      some (match modBits o 14 13 with
        | 0 => (ofBits32 (fun i => hits.contains i)).toNat
        | 1 => hits.length
        | 2 => hits.head?.getD 32
        | _ => hits.getLast?.getD 32)),
   (.redux, fun o act l =>
      some (((reduxOver o act l).map (fun x => x.src.a)).foldl (combineOp (modBits o 15 13) (typeOf 3 o)) (idOf (modBits o 15 13) (typeOf 3 o)))),
   (.elect, fun o act l =>
      some (withBit l.src.d (modBits o 19 15) ((act.find? (fun x => x.src.a == l.src.a)).map (fun x => x.lane) == some l.lane)))]

/-! ## Frames -/

/-- The `w` registers from `q` on. -/
def groupOf (q : BitVec 7) (w : Nat) : List (BitVec 7) := (List.range w).map (fun i => q + BitVec.ofNat 7 i)

def withoutSeed (f : Ops → Instr) : (Ops → Instr) × (Ops → List (BitVec 7)) := (f, fun _ => [])

/-- The instructions with a register result computed from the thread's own operands, each with the registers it writes beside vd. -/
def resultInstrs : List ((Ops → Instr) × (Ops → List (BitVec 7))) :=
  (((arithRules ++ wideRules ++ logicRules ++ shiftRules ++ fieldRules ++ bitRules ++ moveRules ++ addressRules ++ fp32Rules ++ roundRules
    ++ packedRules ++ sfuRules ++ fp64Rules ++ dsetbRules).map Prod.fst).map withoutSeed)
  ++ convRules.map (fun r => (r.1, fun o => if modBits o 12 10 = 4 then [(r.2.2 o).num] else []))

/-! ## Control and traps (06_integer_and_control.md, 20_fault_architecture.md) -/

/-- The next sequential PC of the pass (R31). -/
def nextPc (e : Env) (o : Ops) : DWord := e.pass.pc + BitVec.ofNat 64 (lenBytes o.len)

/-- A signed count of 4-byte words from the instruction's own address (R130). -/
def relPc (e : Env) (o : Ops) : DWord := e.pass.pc + BitVec.ofInt 64 (4 * (o.imm.extractLsb' 0 32).toInt)

/-- A 64-bit target with bits 1:0 as zero (R130). -/
def pairPc (v : Nat) : DWord := BitVec.ofNat 64 v &&& ~~~3#64

/-- R131, Table 8: the transfers, each with its target and whether it writes a link. -/
def transferRules : List ((Ops → Instr) × (Env → Ops → Lane → DWord) × Bool) :=
  [(.bra, fun e o _ => relPc e o, false), (.brx, fun _ _ l => pairPc l.src.a, false), (.call, fun e o _ => relPc e o, true),
   (.callx, fun _ _ l => pairPc l.src.a, true), (.ret, fun _ _ l => pairPc l.src.a, false)]

/-- What stands after the delivery of a trap with this cause, address and PC in a thread that was `x` (R378). -/
structure Trapped (x y : Thread) (cause : Word) (addr pc : DWord) : Prop where
  cause : y.trapcause = cause
  addr : y.trapaddr = addr
  pc : y.trappc = pc
  handler : y.handler = true
  skip : y.skip = 0
  vector : y.pc = x.trapvec
  clocks : y.o = x.o ∧ y.s = x.s ∧ y.pa = x.pa ∧ y.fs = x.fs
  flags : y.flags = x.flags
  regs : y.regs = x.regs
  meet : y.meet = x.meet

/-- A thread to which a trap can be delivered: outside handler state, with a handler, every access performed (R377, R378). -/
structure TakesTrap (x : Thread) : Prop where
  outside : x.handler = false
  vector : x.trapvec ≠ 0
  settled : x.settled = true
  running : x.haltFault = none

/-! ## Memory accesses (08_memory_and_sync_instructions.md) -/

/-- Bytes of a type code (R75). -/
def tyBytes (t : Nat) : Nat := if t ∈ [1, 5, 9] then 1 else if t ∈ [2, 6, 10, 16, 17] then 2 else if t ∈ [4, 8, 12, 14] then 8 else if t = 13 then 16 else 4

/-- The effective address of an access of `n` bytes (R166). -/
def addrRule (o : Ops) (n : Nat) (l : Lane) : DWord :=
  BitVec.ofInt 64 ((l.src.a : Int) + (if modBit o 17 then (w32 l.src.b).toInt * (if modBit o 15 then (n : Int) else 1) else 0)
    + (o.imm.extractLsb' 0 32).toInt)

/-- The address of ATOM and RED, which have no index. -/
def baseRule (o : Ops) (l : Lane) : DWord := BitVec.ofInt 64 ((l.src.a : Int) + (o.imm.extractLsb' 0 32).toInt)

/-- The default type of an ATOM or RED operation (Table 6 of R179). -/
def opDefault (op : Nat) : Nat := if op ≤ 3 then 3 else if op ≤ 8 then 11 else if op ≤ 10 then 7 else 15

/-- What each access instruction issues for a lane (R175, R176, R178 to R180). -/
def accessRules : List ((Ops → Instr) × (DWord → Ops → Lane → Access)) :=
  [(.ld, fun pc o l =>
      let t := typeOf 11 o
      { kind := .load (modBits o 14 13 = 1) (t = 1 ∨ t = 2), pc := pc, ea := addrRule o (tyBytes t) l, size := tyBytes t, scope := modBits o 12 10,
        data := 0, dest := groupOf o.vd.num ((tyBytes t + 3) / 4), ldt := none }),
   (.st, fun pc o l =>
      let t := typeOf 11 o
      { kind := .store (modBits o 14 13 = 2), pc := pc, ea := addrRule o (tyBytes t) l, size := tyBytes t, scope := modBits o 12 10,
        data := BitVec.ofNat 128 l.src.d, dest := [], ldt := none }),
   (.ldt, fun pc o l =>
      let w := tyBytes (typeOf 10 o)
      { kind := .load false false, pc := pc, ea := addrRule o (4 * w) l, size := 4 * w, scope := 0, data := 0,
        dest := groupOf o.vd.num (if w = 4 then 2 else 1), ldt := some w }),
   (.atom, fun pc o l =>
      let op := modBits o 8 5
      let t := typeOf (opDefault op) o
      { kind := .atom op t (modBits o 14 13 % 2 = 1) (2 ≤ modBits o 14 13), pc := pc, ea := baseRule o l, size := tyBytes t, scope := modBits o 12 10,
        data := BitVec.ofNat 128 (l.src.b % 2 ^ 64 + (if op = 8 then l.src.c * 2 ^ 64 else 0)), dest := groupOf o.vd.num ((tyBytes t + 3) / 4), ldt := none }),
   (.red, fun pc o l =>
      let op := modBits o 8 5
      let t := typeOf (opDefault op) o
      { kind := .red op t, pc := pc, ea := baseRule o l, size := tyBytes t, scope := modBits o 12 10, data := BitVec.ofNat 128 l.src.b, dest := [],
        ldt := none })]

/-- What MATCH gives a lane (R183). -/
def matchRule (o : Ops) (act : List Lane) (l : Lane) : Nat :=
  let same := act.filter (fun x => x.src.a == l.src.a)
  match modBits o 17 16 with
  | 0 =>
    let lead := (same.map (fun x => x.lane)).headD 0
    let rank := (same.filter (fun x => x.lane < l.lane)).length
    lead + 2 ^ 5 * (same.length - 1) + 2 ^ 10 * rank + (if rank = 0 then 2 ^ 15 else 0)
  | 1 => if act.all (fun x => x.src.a == l.src.a) then 1 else 0
  | _ => if (act.map (fun x => x.src.a)).Nodup then 1 else 0

/-- Operation `p` of thread `r` is an access `a` to place `pl` that nothing holds back, alone in its group, in a launch without race checks. -/
structure Performs (s : State) (r : TRef) (x : Thread) (p : Pend) (a : Access) (pl : Place) : Prop where
  thread : s.thread? r = some x
  find : x.pend.find? (fun q => q.id == p.id) = some p
  todo : p.todo = some a
  plain : a.ldt = none
  near : p.peer = none
  stands : s.stands r.g = true
  place : s.placeOf r a = .inr pl
  alone : s.passActs r.crew p.pass = [(r, p, a)]
  free : s.holders a pl = []
  order : s.orderBlocked r p a pl = false
  noRace : raceMode (s.modesOf r.g) = 0 ∧ x.trapDue = false
  noRing : ringMode0 a.ea = false
  dest : a.kind.reads = false → a.dest = []
  op : match a.kind with
    | .atom op _ _ _ => op ≤ 11
    | .red op _ => op ≤ 6
    | _ => True

/-- The registers that the bytes read give: sign-extended for `.s8` and `.s16`, else zero-extended (R175, R179). -/
def readWrites (a : Access) (v : Nat) : List (BitVec 7 × Word) :=
  let sx : Bool := match a.kind with
    | .load _ sx => sx
    | _ => false
  let e := if sx ∧ a.size < 4 then ((BitVec.ofNat (8 * a.size) v).signExtend 32).toNat else v
  a.dest.mapIdx (fun i q => (q, wordAtIdx e i))

/-- New value of an ATOM (Table 6). -/
def atomRule (op t old v w : Nat) : Nat :=
  let n := 2 ^ (if t ∈ [4, 8, 12, 14] then 64 else if t ∈ [16, 17] then 16 else 32)
  match op with
  | 0 => (old + v) % n
  | 1 => (((old : Int) - v) % n).toNat
  | 2 => if asType t old ≤ asType t v then old else v
  | 3 => if asType t old ≤ asType t v then v else old
  | 4 => old &&& v
  | 5 => old ||| v
  | 6 => old ^^^ v
  | 7 => v
  | 8 => if old = v then w else old
  | 9 => if old ≥ v then 0 else old + 1
  | 10 => if old = 0 ∨ old > v then v else old - 1
  | _ => (fmtOf t).round 0 false (Val.add 0 ((fmtOf t).val old) ((fmtOf t).val v))

/-- The value and swap operands of an access of `n` bytes. -/
def operandV (a : Access) : Nat := a.data.toNat % 2 ^ (8 * a.size)
def operandW (a : Access) : Nat := a.data.toNat / 2 ^ 64 % 2 ^ (8 * a.size)

/-- What an access of this kind leaves at its bytes, which hold `old`; none when it writes nothing. -/
def leaves (a : Access) (old : Nat) : Option Nat :=
  match a.kind with
  | .load _ _ => none
  | .store _ => some (operandV a)
  | .atom op t _ _ => some (atomRule op t old (operandV a) (operandW a))
  | .red op t => some (atomRule op t old (operandV a) 0)

/-- Byte `i` of the bytes that an access leaves. -/
def leftByte (a : Access) (old i : Nat) : Byte := BitVec.ofNat 8 ((leaves a old).getD old / 256 ^ i)

/-- The operation has been performed: it waits for its completion with the registers it will write. -/
def Performed (t : State) (r : TRef) (p : Pend) (ws : List (BitVec 7 × Word)) : Prop :=
  ∃ y q, t.thread? r = some y ∧ q ∈ y.pend ∧ q.id = p.id ∧ q.flag = p.flag ∧ q.todo = none ∧ q.writes = ws

/-! ## Fences, barriers and counters (08_memory_and_sync_instructions.md) -/

/-- The barrier that an instruction of a crew names (R185): `.blk`, `.sec` or `.dev`, with its id. -/
def barNamed (s : State) (o : Ops) (c : CRef) : BarRef :=
  if modBits o 12 10 = 1 then .blk c.g c.k (modBits o 19 16)
  else if modBits o 12 10 = 2 then .sec c.g (modBits o 19 16)
  else .dev (((s.group? c.g).map (fun g => g.launch)).getD 0) (modBits o 19 16)

/-- The barrier stands: its block, group or launch does, and has a barrier of that number. -/
def hasBar (s : State) : BarRef → Prop
  | .blk g k i => ∃ b, s.block? ⟨g, k⟩ = some b ∧ i < b.bars.length
  | .sec g i => ∃ x, s.group? g = some x ∧ i < x.bars.length
  | .dev n i => ∃ l, s.launch? n = some l ∧ i < l.bars.length

/-- The participant count that an arrival names (R186): the declared one, or the operand under `.cnt`. -/
def countNamed (s : State) (o : Ops) (c : CRef) (l : Lane) : Nat := if modBit o 15 then l.src.a % 2 ^ 32 else s.declared (barNamed s o c)

/-- Every lane that arrives names the count `n`, which its scope allows and the phase, where it has one, has (R186, R404). -/
structure GoodCount (s : State) (o : Ops) (e : Env) (n : Nat) : Prop where
  named : ∀ l, Executes e o l → countNamed s o e.pass.crew l = n
  limit : modBit o 15 = true → n ≤ (if modBits o 12 10 = 1 then 64 else if modBits o 12 10 = 2 then 6144 else 0)
  fixed : (s.bar (barNamed s o e.pass.crew)).fixed = none ∨ (s.bar (barNamed s o e.pass.crew)).fixed = some n

/-- The arrivals of a pass stand in the barrier's open phase and in its threads (R186). -/
def ArrivedAll (s t : State) (o : Ops) (e : Env) (n : Nat) : Prop :=
  let r := barNamed s o e.pass.crew
  (t.bar r).arr = (s.bar r).arr ++ ((e.lanes o).filter (fun l => l.exec)).map (fun l => ⟨l.ref, l.t.s, l.t.o, s.identOf l.ref⟩)
  ∧ (t.bar r).phase = (s.bar r).phase ∧ ((∃ l, Executes e o l) → (t.bar r).fixed = some n)
  ∧ ∀ l, Executes e o l → ∃ y a, t.thread? l.ref = some y ∧ y.pc = nextPc e o ∧ a ∈ y.arrivals ∧ a.bar = r ∧ a.phase = (s.bar r).phase ∧ a.waited = false

/-- What a read finds at byte `i` of a block's scratchpad, some of whose cells may be stuck until the self-test has passed (R470), and at `n` bytes. -/
def seenByte (s : State) (b : BRef) (i : Nat) : Byte := ((s.block? b).map (fun z => ((s.padRead z i 1)[0]?).getD 0)).getD 0

def seenNat (s : State) (b : BRef) (off n : Nat) : Nat := leNat ((List.range n).map (fun i => seenByte s b (off + i)))

/-- What a read of a counter in a scratchpad finds. -/
def counterWord (s : State) (b : BRef) (off : Nat) : Nat := seenNat s b off 8

/-! ## Matrix instructions (09_matrix_and_transfer_instructions.md) -/

/-- Every thread of the pass executes the collective instruction: all guards true, no fault, no poison (R191, R393). -/
structure IssuesAll (s : State) (p : Pass) (code : Nat) (o : Ops) (e : Env) : Prop where
  focus : s.focus = .pass p
  env : s.env? p code o = some e
  nodup : p.lanes.Nodup
  some_ : e.lanes o ≠ []
  clean : ∀ l ∈ e.lanes o, e.consumes o l = false ∧ e.faults o l (fun _ => []) = [] ∧ l.t.mayIssue = true
  all : ∀ l ∈ e.lanes o, l.exec = true

/-- The class 6 instructions without a gang, each with the operation it is: resource numbers from vd, vs1 and vs2, and what the first thread reads
(R199 to R203, R205). -/
def matrixRules : List ((Ops → Instr) × (Ops → Lane → MatKind)) :=
  [(.oclaim, fun o _ => .claim false o.vd.num.toNat (o.vs2.num.toNat + 1)), (.aclaim, fun o _ => .claim true o.vd.num.toNat (o.vs2.num.toNat + 1)),
   (.orelease, fun o _ => .release false o.vd.num.toNat (o.vs2.num.toNat + 1)), (.arelease, fun o _ => .release true o.vd.num.toNat (o.vs2.num.toNat + 1)),
   (.ohdr, fun o l => .ohdr o.vd.num.toNat (BitVec.ofNat 64 l.src.a)), (.old, fun o l => .old o.vd.num.toNat (BitVec.ofNat 64 l.src.a)),
   (.azero, fun o _ => .azero o.vd.num.toNat),
   (.ald, fun o l => .ald o.vd.num.toNat (typeOf 11 o) (BitVec.ofNat 64 l.src.a)),
   (.ast, fun o l => .ast o.vd.num.toNat (typeOf 11 o) (BitVec.ofNat 64 l.src.a)),
   (.ard, fun o l => .ard o.vd.num o.vs1.num.toNat (l.src.b % 2 ^ 32)),
   (.mma, fun o _ => .mma false false o.vd.num.toNat o.vs1.num.toNat o.vs2.num.toNat 0),
   (.mmas, fun o _ => .mma true false o.vd.num.toNat o.vs1.num.toNat o.vs2.num.toNat 0)]

/-- The operation stands behind every earlier one on its core, and each thread has gone on with its flag raised (R191, R204). -/
def OperationIssued (s t : State) (o : Ops) (e : Env) (k : MatKind) : Prop :=
  (∃ x, (t.core e.core).ops = (s.core e.core).ops ++ [x] ∧ x.kind = k ∧ x.crew = e.pass.crew ∧ x.flag = o.flag ∧ x.id = s.serial)
  ∧ (t.core e.core).slots = (s.core e.core).slots ∧ (t.core e.core).accs = (s.core e.core).accs
  ∧ ∀ l ∈ e.lanes o, ∃ y, t.thread? l.ref = some y ∧ y.pc = nextPc e o ∧ y.regs = l.t.regs
      ∧ ∀ i : Fin 12, y.flag i = if o.flag = some i ∧ i.val < l.t.flags.length then l.t.flag i + 1 else l.t.flag i

/-- The operation's turn has come: no earlier operation on its resources, no scoreboard entry before it, its engine runs (R204, R213). -/
structure Turn6 (s : State) (core : Nat) (x : MatOp) : Prop where
  found : s.findOp core x.id = some x
  runs : s.engineRuns x.crew.block = true
  first : s.orderAhead core x = false
  free : s.opHolders core x = []
  may : x.engine = true → s.engineMay x.crew x.eop = true
  reads : s.readsHeld x = false
  launch : (s.launchOf x.crew.g).isSome = true

/-- The crew owns slot `n`, which stands as `y`. -/
def OwnsSlot (s : State) (core : Nat) (c : CRef) (n : Nat) (y : Slot) : Prop := (s.core core).slots.find? (fun z => z.num == n) = some y ∧ y.owner = c

/-- The crew owns accumulator `n`, which stands as `y`. -/
def OwnsAcc (s : State) (core : Nat) (c : CRef) (n : Nat) (y : Acc) : Prop := (s.core core).accs.find? (fun z => z.num == n) = some y ∧ y.owner = c

/-- Byte `i` of a block's scratchpad, as a write leaves it. -/
def padByte (s : State) (b : BRef) (i : Nat) : Byte := ((s.block? b).map (fun z => z.scratch.read i)).getD 0

def padNat (s : State) (b : BRef) (off n : Nat) : Nat := leNat ((List.range n).map (fun i => padByte s b (off + i)))

/-- Bytes of an accumulator element under `.b32`, `.f16` or `.bf16` (R202). -/
def elemSize (ty : Nat) : Nat := if ty = 11 then 4 else 2

/-- An element loaded: raw, or widened exactly (R202). -/
def widen (ty v : Nat) : Word := if ty = 11 then w32 v else w32 (f32Fmt.round 0 false ((fmtOf ty).val v))

/-- An element stored: raw, or rounded to nearest even (R202). -/
def narrow (ty : Nat) (v : Word) : Nat := if ty = 11 then v.toNat else (fmtOf ty).round 0 false (f32Fmt.val v.toNat)

/-- A step of a move of `size` bytes is over: the operation has ended, or stands 4 KiB further on (R229). -/
def MoveGoesOn (t : State) (core : Nat) (x : MatOp) (size : Nat) : Prop :=
  if size ≤ x.pos + 4096 then t.findOp core x.id = none
  else ∃ w, t.findOp core x.id = some w ∧ w.pos = x.pos + 4096 ∧ w.kind = x.kind ∧ w.crew = x.crew ∧ w.range = x.range

/-- The element that index `i` of an integer tile holds (R94, R198): `.s8` (1) or `.n8` (5). -/
def tileInt (fmt : Nat) (d : Memory) (i : Nat) : Int := if fmt = 1 then (d.read i).toInt else (((d.read i).toNat : Nat) : Int)

/-! ## System instructions (10_system_instructions.md) -/

/-- The position of a block in its gang: gang, row, column (R38), and none without a gang. -/
def gangOf (p : LaunchP) (k : Nat) : Nat × Nat × Nat :=
  if p.grows * p.gcols = 0 then (0, 0, 0) else (k / (p.grows * p.gcols), k % (p.grows * p.gcols) / p.gcols, k % p.gcols)

/-- Table 2 of R233 outside replay, but for the numbers with a read point: what MOVS returns for lane `l` of a pass of a launch `la`. -/
def sregRules (s : State) (la : Launch) (e : Env) (l : Lane) : List (Nat × Nat) :=
  let co := s.coordsOf l.ref.block
  let x := l.t
  [(0x00, 128 * l.ref.c + l.ref.t), (0x01, l.ref.t), (0x02, l.ref.c), (0x03, la.p.crews), (0x04, co.1), (0x05, co.2.1), (0x06, co.2.2), (0x07, la.p.x),
   (0x08, la.p.y), (0x09, la.p.z), (0x0A, l.ref.k), (0x0B, (gangOf la.p l.ref.k).1), (0x0C, (gangOf la.p l.ref.k).2.1), (0x0D, (gangOf la.p l.ref.k).2.2),
   (0x0E, s.chip.toNat), (0x0F, e.core / 96 % 8), (0x10, e.core % 96), (0x11, e.crew.slot % 64), (0x12, l.lane), (0x13, 2 ^ e.pass.lanes.length - 1),
   (0x14, la.seq.toNat), (0x15, la.p.modes.toNat), (0x19, ((List.finRange 12).map (fun i => if x.flag i = 0 then 0 else 2 ^ i.val)).sum),
   (0x1C, x.regionPc.toNat), (0x1D, x.regionCount.toNat), (0x1E, x.trapvec.toNat),
   (0x1F, x.trapcause.toNat), (0x20, x.trapaddr.toNat), (0x21, x.trappc.toNat), (0x22, s.time.toNat), (0x23, s.cycle)]

/-- The registers of 64 bits. -/
def wideSregs : List Nat := [0x14, 0x1C, 0x1E, 0x20, 0x21, 0x22, 0x23]

/-- What MOVS waits for at a read point: the earlier accesses of the thread, or its earlier acquires and clears of `$syncscope` (R60, R233). -/
def readPoint (x : Thread) (p : Pend) (n : Nat) : Prop :=
  ∀ q ∈ x.pend, q.seq < p.seq → (q.access = true → (n = 0x18 → q.acquire = true) → q.todo = none ∧ q.peer = none)
    ∧ (n = 0x18 → ∀ r, q.sreg = some r → r.1 ≠ 0x80)

/-- A queue handle and the ring that it names (Table 3 of R241): aligned, of SIZELOG2 9 to 21, with the hub and context that serve it. -/
structure GoodHandle (h : Handle) : Prop where
  base : h.base.toNat % 4096 = 0
  log : 9 ≤ h.log ∧ h.log ≤ 21
  owner : h.hub < 6 ∧ h.ctx < 16

/-- A line of HBM in no L1, with no combine unit, error or mark. -/
structure PlainLine (s : State) (l : LineId) : Prop where
  copies : (∀ n, s.l1Line n l = none) ∧ (s.homeLine l).holders = []
  home : (s.homeLine l).uo = none ∧ (s.homeLine l).bad = none ∧ s.marked l = false

/-- A range of `n` bytes at a global address that lies within one plain line of HBM, from byte `key` of it on. -/
structure GlobalBytes (s : State) (t : TRef) (ea : DWord) (n align need key : Nat) : Prop where
  place : ∃ pa l off, s.locate (s.asker t) ea n align need onGlobal false = .inr (.phys pa true) ∧ lineOf pa = some (l, off) ∧ off + n ≤ 128
    ∧ key = l.key + off ∧ PlainLine s l

/-- The handle at `ea` and the image at `packet` that a thread posts from its own scratchpad: the handle's 64 bytes at `hk`, `n` words at `off`. -/
structure Posting (s : State) (r : TRef) (ea packet : DWord) (hk off n : Nat) (h : Handle) : Prop where
  modes : raceMode (s.modesOf r.g) = 0 ∧ recordMode (s.modesOf r.g) = 0
  handle : GlobalBytes s r ea 64 64 2 hk
  fields : h = handleOf (s.mem.readN hk 64) ∧ GoodHandle h
  image : s.locate (s.asker r) packet 8 8 0 (fun ap => ap == .global || ap == .own) false = .inr (.pad r.block off)
  len : n = seenNat s r.block off 8 / 2 ^ 8 % 2 ^ 10 ∧ 0 < n ∧ n ≤ 512 ∧ off % 128 + 8 * n ≤ 128

def resvOf (s : State) (hk : Nat) : Nat := leNat (s.mem.readN (hk + 8) 8)

/-- The words that a PAD takes before a packet of `n` words (R242). -/
def padOf (h : Handle) (start n : Nat) : Nat := if h.size < start % h.size + n then h.size - start % h.size else 0

/-- The packet has room, and its ring words, at `ik`, and those of its PAD, at `pk`, are plain bytes apart from the handle. -/
structure PostRoom (s : State) (r : TRef) (hk ik pk n : Nat) (h : Handle) : Prop where
  room : resvOf s hk + padOf h (resvOf s hk) n + n - h.read.toNat ≤ h.size ∧ resvOf s hk + padOf h (resvOf s hk) n + n < 2 ^ 64
  words : GlobalBytes s r (h.wordVa (resvOf s hk + padOf h (resvOf s hk) n)) (8 * n) 8 1 ik
  pad : 0 < padOf h (resvOf s hk) n → GlobalBytes s r (h.wordVa (resvOf s hk)) 8 8 1 pk
  apart : (ik + 8 * n ≤ hk ∨ hk + 64 ≤ ik) ∧ (pk + 8 ≤ hk ∨ hk + 64 ≤ pk) ∧ (pk + 8 ≤ ik ∨ ik + 8 * n ≤ pk)

/-- RESV is past the packet, its words hold the PAD and the image, and the thread waits to publish (R242). -/
def Posted (s t : State) (r : TRef) (pc ea : DWord) (hk ik pk off n : Nat) (h : Handle) (d : BitVec 7) (k : Nat) : Prop :=
  let start := resvOf s hk
  let first := start + padOf h start n
  (∃ y, t.thread? r = some y ∧ y.wait = .enqPub pc ea (BitVec.ofNat 64 start) (BitVec.ofNat 64 (first + n)) (BitVec.ofNat 64 first) d k)
  ∧ resvOf t hk = first + n ∧ (∀ i < 8 * n, t.mem.read (ik + i) = seenByte s r.block (off + i))
  ∧ (0 < padOf h start n → leNat (t.mem.readN pk 8) = 2 ^ 8 * padOf h start n)

/-! ## Transfer commands (09_matrix_and_transfer_instructions.md, 24_engine_and_scheduler_faults.md) -/

/-- The commands of Table 12, each with its opcode less 0x1C0. -/
def transferOps : List ((Ops → Instr) × Nat) := [(.xcopy, 0), (.xloop, 1), (.xgather, 2), (.xscatter, 3), (.xred, 4)]

/-- The slice names what its crew's registers hold at issue: descriptor, box record, local side (R214, R215, R220). -/
structure SliceIssued (e : Env) (o : Ops) (l : Lane) (op : Nat) (x : Slice) : Prop where
  crew : x.crew = e.pass.crew.c
  desc : x.desc = (List.range 16).map (fun i => e.crew.readReg e.cyc (o.vs1.num + BitVec.ofNat 7 i))
  box : x.box = (List.range 8).map (fun i => e.crew.readReg e.cyc (o.vs3.num + BitVec.ofNat 7 i))
  slot : x.slot = if op = 0 ∧ modBit o 15 then some o.vs2.num.toNat else none
  place : x.slot = none → x.localAddr = BitVec.ofNat 64 l.src.b
  begins : x.mod = o.mod ∧ x.flag = o.flag ∧ x.pos = 0 ∧ x.done = false

/-- Every thread of the pass has gone on with its flag raised (R52, R191). -/
def WentOn (t : State) (o : Ops) (e : Env) : Prop :=
  ∀ l ∈ e.lanes o, ∃ y, t.thread? l.ref = some y ∧ y.pc = nextPc e o ∧ y.regs = l.t.regs
    ∧ ∀ i : Fin 12, y.flag i = if o.flag = some i ∧ i.val < l.t.flags.length then l.t.flag i + 1 else l.t.flag i

/-- The slices that name a box: word `k` of the descriptor, and of the box record as a signed number. -/
def descW (x : Slice) (k : Nat) : Nat := ((x.desc[k]?).getD 0).toNat
def boxW (x : Slice) (k : Nat) : Int := ((x.box[k]?).getD 0).toInt

/-- B0 to B4 (Table 9). -/
def boxExtents (x : Slice) : List Nat :=
  [descW x 12 % 2 ^ 16 + 1, descW x 12 / 2 ^ 16 + 1, descW x 13 % 2 ^ 8 + 1, descW x 13 / 2 ^ 8 % 2 ^ 8 + 1, descW x 13 / 2 ^ 16 % 2 ^ 8 + 1]

/-- Extent of dimension `k` of the tensor; those at or above NDIM read as 1. -/
def tensorExtent (x : Slice) (k : Nat) : Nat := if k < descW x 2 / 2 ^ 13 % 8 + 1 then descW x (3 + k) else 1

/-- bi of box element `i` in dimension `k`: the local side is packed in box order (R216). -/
def boxIndex (x : Slice) (i k : Nat) : Nat := i / ((boxExtents x).take k).prod % (boxExtents x).getD k 1

/-- Coordinate `k` of box element `i`; XLOOP's iteration `j` moves its step dimension (R216, R224). -/
def boxCoordinate (op j : Nat) (x : Slice) (i k : Nat) : Int :=
  boxW x k + boxIndex x i k + (if op = 1 ∧ boxW x 6 % 8 = k then boxW x 6 / 2 ^ 8 * j else 0)

/-- The address of box element `i` of XCOPY and XLOOP; none beyond the edge (R216). -/
def boxAddress (op j : Nat) (x : Slice) (i : Nat) : Option DWord :=
  if ∀ k < 5, 0 ≤ boxCoordinate op j x i k ∧ boxCoordinate op j x i k < tensorExtent x k then
    some (BitVec.ofInt 64 (descW x 0 + 2 ^ 32 * descW x 1 + boxCoordinate op j x i 0 * x.msize
      + ((List.range 4).map (fun k => boxCoordinate op j x i (k + 1) * 16 * descW x (8 + k))).sum))
  else none

/-- Elements that the next chunk of a slice moves: up to 4 KiB of the local side (R229). -/
def chunkSize (op : Nat) (x : Slice) : Nat := min (4096 / x.msize) (x.count op - x.pos)

/-- Slice `k` of a command in its block, which has begun and whose next chunk nothing holds: no earlier entry, no replay, no request to a peer. -/
structure ChunkReady (s : State) (b : BRef) (c : Cmd) (k : Nat) (x : Slice) : Prop where
  found : s.cmd? b c.id = some c
  slice : c.slices[k]? = some x
  begun : c.begun = true
  open_ : x.done = false
  runs : s.engineRuns b = true
  may : s.engineMay (c.owner b x) c.eop = true
  alone : s.awaitsPeer b c x = false ∧ s.isPeer b c x = false
  raw : x.mod.getLsbD 16 = false ∧ x.mod.getLsbD 17 = false ∧ x.slot = none ∧ x.mtype = x.ltype ∧ x.msize ∈ [1, 2, 4, 8]
  quiet : raceMode (s.modesOf b.g) = 0 ∧ recordMode (s.modesOf b.g) = 0

/-- A local element of `n` bytes at `ea` may be moved and lies at physical address `pa`, in a line that no L1 and no combine unit holds. -/
def PlainAt (s : State) (b : BRef) (x : Slice) (write : Bool) (ea : DWord) (pa : Nat) : Prop :=
  (∃ near, s.locate (s.asker (s.lowThread (b.crew x.crew))) ea x.msize x.msize (if write then 1 else 0)
    (fun ap => ap == .global || ap == .peerGlobal || ap == .peerPad) false = .inr (.phys pa near))
  ∧ ∃ l off, lineOf pa = some (l, off) ∧ off + x.msize ≤ 128 ∧ (s.homeLine l).uo = none ∧ (s.homeLine l).holders = [] ∧ (s.homeLine l).bad = none
      ∧ s.marked l = false ∧ ∀ n, s.l1Line n l = none

/-- A load's chunk has been moved: box element `i` stands at its place of the local side from `off` on, zero beyond the edge; nothing else of any
scratchpad and nothing of HBM has changed (R216). -/
def LoadedChunk (s t : State) (b : BRef) (op j off : Nat) (x : Slice) : Prop :=
  (∀ i, x.pos ≤ i → i < x.pos + chunkSize op x → (boxAddress op j x i = none → padNat t b (off + x.msize * i) x.msize = 0)
    ∧ ∀ ea pa, boxAddress op j x i = some ea → PlainAt s b x false ea pa → padNat t b (off + x.msize * i) x.msize = s.physNat pa x.msize)
  ∧ (∀ c i, (c ≠ b ∨ i < off + x.msize * x.pos ∨ off + x.msize * (x.pos + chunkSize op x) ≤ i) → padByte t c i = padByte s c i)
  ∧ t.mem = s.mem

/-- The operation `id` has ended in every thread of a crew: its flag has fallen by one (R52, R221). -/
def FlagsFell (s t : State) (c : CRef) (id : Nat) : Prop :=
  ∀ n < 128, ∀ x p, s.thread? (c.thread n) = some x → x.pend.find? (fun q => q.id == id) = some p → x.flags.length = 12 →
    ∃ y, t.thread? (c.thread n) = some y ∧ (∀ q ∈ y.pend, q.id ≠ id) ∧ ∀ i : Fin 12, y.flag i = if p.flag = some i then x.flag i - 1 else x.flag i

/-- `c` stands at the head of queue `q`: nothing that is not over was issued to it before (R218). -/
def AtHead (cmds : List Cmd) (q : Nat) (c : Cmd) : Prop :=
  c ∈ cmds ∧ q ∈ c.queues ∧ c.live = true ∧ ∀ d ∈ cmds, q ∈ d.queues → d.live = true → d ≠ c → c.order < d.order

/-- A fault of the crew stands in a thread: asynchronous, with this cause and address (R376). -/
def FaultStands (t : State) (r : TRef) (cause : Nat) (addr : DWord) : Prop :=
  ∃ y f, t.thread? r = some y ∧ f ∈ y.faults ∧ f.how = .async ∧ f.cause.toNat = cause ∧ f.addr = addr

/-! ## Cox programs (14_queues_host_fabric.md) -/

/-- Context `x`, which stands as `c`, is about to execute an instruction within its budget (R302, R308); no launch of it replays (R334). -/
structure CoxRuns (s : State) (x : CoxId) (c : Cox) : Prop where
  focus : s.focus = .cox x
  here : s.cox x = c
  running : c.state = 2
  budget : c.budget < 2048
  regs : c.x.length = 16
  free : s.coxReplays x = false

/-- The context goes on at `pc` and nothing else of it but its registers, packet and loops has changed; nor has anything outside it. -/
structure CoxWentOn (s t : State) (x : CoxId) (c : Cox) (pc : Nat) : Prop where
  pc : (t.cox x).pc = pc
  state : (t.cox x).state = 2 ∧ (t.cox x).wait = c.wait ∧ (t.cox x).code = c.code ∧ (t.cox x).windows = c.windows
  budget : (t.cox x).budget = c.budget + 1
  acted : (t.cox x).acted = c.acted ∧ (t.cox x).actDone = c.actDone
  others : ∀ y, y ≠ x → t.cox y = s.cox y
  mem : SameMemory s t
  rest : t.groups = s.groups ∧ t.launches = s.launches ∧ t.asids = s.asids ∧ t.hubs = s.hubs

/-- Every register but rd stands; x0 reads zero. -/
def CoxSets (t : State) (x : CoxId) (c : Cox) (rd : BitVec 4) (v : DWord) : Prop :=
  ∀ r, (t.cox x).reg r = if r = 0 then 0 else if r = rd then v else c.reg r

/-- The instruction completes and gives rd the value (Table 5 of R304). -/
def CoxGives (i : Instr) (rd : BitVec 4) (v : Cox → DWord) : Prop :=
  ∀ (s : State) (x : CoxId) (c : Cox), CoxRuns s x c → ∃ t, exec i s = .next t ∧ CoxSets t x c rd (v c)
    ∧ (c.pc + 1 < c.code.length → CoxWentOn s t x c (c.pc + 1) ∧ (t.cox x).packet = c.packet ∧ (t.cox x).loops = c.loops)

def coxInt (c : Cox) (r : BitVec 4) : Int := ((c.reg r).toNat : Int)

/-- addr(w) of R304. -/
def coxAddr (d : Window) (c : Cox) (ra : BitVec 4) (imm : BitVec 15) : DWord :=
  d.base + ((c.reg ra + BitVec.ofInt 64 (8 * imm.toInt)) &&& BitVec.ofNat 64 (2 ^ d.log - 1) &&& ~~~7#64)

/-- An aligned word of the context's address space that lies in a line which no L1 holds, no combine unit has, and no mark or error bears. -/
structure CoxWord (s : State) (x : CoxId) (va : DWord) (need key : Nat) : Prop where
  place : ∃ pa l off, s.unitPa (s.ctxAsid x) va 8 need = .inr pa ∧ lineOf pa = some (l, off) ∧ off + 8 ≤ 128 ∧ key = l.key + off
    ∧ (s.homeLine l).uo = none ∧ (s.homeLine l).bad = none ∧ s.marked l = false ∧ (s.homeLine l).holders = [] ∧ ∀ n, s.l1Line n l = none
  quiet : s.recordsCox x = [] ∧ s.racingAsids = []

def coxRead (s : State) (key : Nat) : Nat := leNat (s.mem.readN key 8)

/-- HBM but for the eight bytes at `key`, which hold `v`. -/
def WordStored (s t : State) (key v : Nat) : Prop :=
  ∀ k, t.mem.read k = if key ≤ k ∧ k < key + 8 then BitVec.ofNat 8 (v / 256 ^ (k - key)) else s.mem.read k

/-- The branches of R304, each with its condition. -/
def coxBranches : List ((BitVec 4 → BitVec 4 → BitVec 14 → Instr) × (Int → Int → Bool)) :=
  [(.coxBeq, fun a b => a = b), (.coxBne, fun a b => a ≠ b), (.coxBltu, fun a b => a < b)]

/-! ## Packets and actions (14_queues_host_fabric.md, 15_record_replay.md) -/

/-- No line is update-only, bears an error or a mark, or is held by an L1; the context is not recorded, and nothing checks races. -/
structure Plain (s : State) (x : CoxId) : Prop where
  lines : ∀ l, (s.homeLine l).uo = none ∧ (s.homeLine l).bad = none ∧ (s.homeLine l).holders = [] ∧ s.marked l = false ∧ ∀ n, s.l1Line n l = none
  quiet : s.recordsCox x = [] ∧ s.pktRec x = none ∧ s.racingAsids = []

/-- Field of a word. -/
def bitsOf (v hi lo : Nat) : Nat := v / 2 ^ lo % 2 ^ (hi - lo + 1)

/-- The context waits with a packet at READ, whose header is `w`, of a queue whose handle reads `h` (R298, R302). -/
structure PacketAt (s : State) (x : CoxId) (h : Handle) (w : Nat) : Prop where
  waiting : (s.cox x).en = true ∧ (s.cox x).state = 1 ∧ (s.asid (s.ctxAsid x)).halt = false
  plain : Plain s x
  handle : ∃ pa, s.unitPa (s.ctxAsid x) (s.cox x).qhandle 64 0 = .inr pa ∧ (lineOf pa).isSome = true ∧ h = handleOf (s.physRead pa 64)
  good : h.bad = none ∧ h.read ≠ h.write
  header : ∃ pa, s.unitPa (s.ctxAsid x) (h.wordVa h.read.toNat) 8 0 = .inr pa ∧ (lineOf pa).isSome = true ∧ w = s.physNat pa 8
  len : 1 ≤ bitsOf w 17 8 ∧ bitsOf w 17 8 ≤ 512 ∧ h.read.toNat % 2 ^ h.log + bitsOf w 17 8 ≤ 2 ^ h.log

/-- The events that take a packet, each with the TYPEs it takes; unused TYPEs go with LAUNCH (log entry 36). -/
def packetRules : List ((CoxId → Instr) × (Nat → Bool)) :=
  [(.pad, fun t => t = 0), (.launch, fun t => t = 1 ∨ 6 < t), (.copy, fun t => t = 2), (.counterAdd, fun t => t = 3), (.counterWait, fun t => t = 4),
   (.step, fun t => t = 5), (.checkpoint, fun t => t = 6)]

/-- The context executes its packet's first ACT, at a program that goes on behind it. -/
structure Acts (s : State) (x : CoxId) (c : Cox) (ty len : Nat) (ws : List DWord) : Prop where
  runs : CoxRuns s x c
  more : c.pc + 1 < c.code.length
  first : c.acted = false ∧ c.actDone = false
  packet : c.packet = BitVec.ofNat 64 (ty + 2 ^ 8 * len) :: ws ∧ ty < 2 ^ 8 ∧ len < 2 ^ 10

/-- A launch that a lower context of the hub has offered is due now (R25). -/
def LowerDue (s : State) (x : CoxId) : Prop :=
  ∃ c < x.ctx, ∃ u ∈ s.agenda.takeWhile (fun (v : Turn) => v.dt == 0), u.act = .event (.launchAccept ⟨x.hub, c⟩)

/-- The action is done and complete (R310). -/
def ActDone (t : State) (x : CoxId) (c : Cox) : Prop :=
  (t.cox x).actDone = true ∧ (t.cox x).state = 2 ∧ (t.cox x).wait = .none ∧ ∀ n, n ∈ (t.cox x).openP ↔ n ∈ c.openP ∧ n ≠ c.packets - 1

/-! ## Scheduling (13_scheduling.md) -/

/-- The head of list `p` that hub `n` places now: its section and spots; no head of the hub with a higher priority fits (R281, R282), and no other
sequencer steps in this hub cycle. -/
structure WalkHead (s : State) (n p : Nat) (hd : Head) (h : Nat) (spots : List (Nat × Spot)) : Prop where
  hub : n < 6
  head : p < 8 ∧ p < s.waiting.length ∧ s.head p = some hd
  mine : hd.launch.cox.hub = n ∧ s.barred hd = false
  fit : s.fit hd = some (h, spots)
  first : ∀ q, p < q → q < 8 → ∀ d, s.head q = some d → d.launch.cox.hub ≠ n ∨ s.barred d = true ∨ s.fit d = none
  alone : (∀ u ∈ s.agenda, ∀ m, u.act = .event (.walkStep m) → u.dt ≠ 0) ∧ ∀ w ∈ s.walks, w.now ≠ s.now
  quiet : recordMode hd.launch.p.modes = 0 ∧ s.dbg.trigger = none

/-- Of the sequencers that step in this hub cycle, `v` has chosen section `h` too and goes before hub `n`: the section's own hub first, then the lower hubs (R26). -/
def Ahead (s : State) (n h : Nat) (v : Walk) : Prop :=
  v.now = s.now ∧ (∃ q, v.pick = some (q, h)) ∧ v.hub ≠ n ∧ (v.hub = h ∨ (n ≠ h ∧ v.hub < n))

/-- Nothing of the group is under way: its blocks have ended, or their crews have given up their slots and stand still. -/
def GroupStill (s : State) (g : Nat) (x : Group) : Prop := ∀ k b, x.blocks[k]? = some b → b.ended = true ∨ s.blockStill ⟨g, k⟩ b = true

/-! ## Clocks, caches and Sweep (11_memory_hierarchy.md, 14_queues_host_fabric.md, 26_fabric_boot_selftest.md) -/

/-- The floor of a hub: HW less 2^29 (R258). -/
def floorRule (s : State) (h : Nat) : Word := (s.hub h).hw - 0x20000000#32

/-- A stamp with a clock below `f` in serial order, and the settle clock that takes it in (R259). -/
def below (f : Word) (x : Stamp) : Prop := above f x.wo = true ∨ above f x.ro = true ∨ above f x.ws = true ∨ above f x.rs = true
def takesIn (sc : Word) (x : Stamp) : Word := smax (smax sc x.wo) x.ro

/-- What a peer access reads and leaves. -/
def peerLeaves (k : PeerKind) (old : Nat) : Option Nat :=
  match k with
  | .write _ d => some (leNat d)
  | .atomic op ty v w _ _ => some (atomRule op ty old (v.toNat % 2 ^ (8 * tyBytes ty)) (w.toNat % 2 ^ (8 * tyBytes ty)))
  | .counterAdd n => some (min (old + n.toNat) (2 ^ 64 - 1))
  | _ => none

/-- The request's bytes lie in one line that no L1 holds and that bears no mark, error or partial. -/
structure PeerLine (s : State) (r : PeerReq) (l : LineId) (off : Nat) : Prop where
  place : ∃ pa e, s.translate none r.asid r.va.toNat (needOf (peerAcc r.kind).need) = .inr (pa, e) ∧ lineOf pa = some (l, off) ∧ off + r.size ≤ 128
  clean : (s.homeLine l).uo = none ∧ (s.homeLine l).bad = none ∧ (s.homeLine l).holders = [] ∧ s.marked l = false ∧ ∀ n, s.l1Line n l = none

/-- The request is the last of its group, which no other request of it waits for (R168). -/
def ServedAlone (s : State) (r : PeerReq) : Prop := r.group.2 ≤ 1 ∧ ∀ q ∈ s.peerHeld, q.src ≠ r.src ∨ q.group ≠ r.group

/-! ## Debug, trace, errors, registers and the host link (14, 16, 22, 25) -/

/-- The host's registers answer: the link is up, and the package is not in recovery (R465, R467). -/
def BarOpen (s : State) : Prop := s.linkUp = true ∧ (s.boot.rcvState = 0 ∨ s.boot.firmware = true) ∧ s.hostHeld = []

/-- No open launch is recorded. -/
def NothingRecorded (s : State) : Prop := ∀ l ∈ s.launches, l.isOpen = true → recordMode l.p.modes ≠ 1

/-- `bs` has been written over one line of HBM from its first byte on. -/
def LineStored (s t : State) (l : LineId) (bs : List Byte) : Prop :=
  t.mem.readN l.key bs.length = bs ∧ ∀ k, (k < l.key ∨ l.key + bs.length ≤ k) → t.mem.read k = s.mem.read k

/-- The host writes that the link's loss makes vanish. -/
def BarInstr (x : CoxId) (v : DWord) (n : Nat) (i : Instr) : Prop :=
  i ∈ [Instr.qwriteWrite x v, .progWrite x v, .qctlEnSet x v, .qctlEnClear x v, .tinvWrite x v, .ctxrecWrite x v, .fstatHaltWrite x, .fstatKillWrite x,
    .rlogbaseWrite x v, .rrgetWrite n v, .stopbaseWrite v, .dbgctlStop v, .dbgctlResume v, .dbgswapSwapOut, .dbgswapRelease, .dbgdataWrite v, .pctlEnWrite n v,
    .registerWrite n v, .ptmUpdate v, .rcvctlGo, .dbgdataRead, .hostBar2Write n [], .hostBar2Read n 0]

/-- The item of the read window for KINDs 0 to 4 and 6 (R348). -/
def windowItem (s : State) (b : BRef) (kind c t ix : Nat) : Option DWord :=
  if kind = 4 then
    (s.block? b).bind (fun z => if 8 * ix + 8 ≤ s.padBytes b.g then some (BitVec.ofNat 64 (leNat (s.padRead z (8 * ix) 8))) else none)
  else match s.crew? (b.crew c), s.thread? ((b.crew c).thread t) with
  | some y, some x =>
    match kind with
    | 0 => (x.regs[ix]?).map (fun v => v.zeroExtend 64)
    | 1 => (y.kregs[ix]?).map (fun v => v.zeroExtend 64)
    | 2 => some x.pc
    | 3 => if ix = 0 then some (x.o.zeroExtend 64) else if ix = 1 then some (x.s.zeroExtend 64) else if ix = 2 then some (x.pa.zeroExtend 64) else none
    | 6 => some (BitVec.ofNat 64 ((List.range x.flags.length).map (fun i => (((x.flags[i]?).getD 0).toNat) * 64 ^ i)).sum)
    | _ => none
  | _, _ => none

/-- The debugged block that DBGBLK names, halted. -/
structure Window (s : State) (b : BRef) (x : Block) (kind c t ix : Nat) : Prop where
  block : s.windowBlock = some (b, x) ∧ s.block? b = some x
  sel : kind = bitsOf s.dbg.sel.toNat 3 0 ∧ c = bitsOf s.dbg.sel.toNat 9 4 ∧ t = bitsOf s.dbg.sel.toNat 16 10 ∧ ix = bitsOf s.dbg.sel.toNat 47 20

/-- The answers of the identity requests without operands (R323). -/
def SpdmRule (i : Instr) (m : Spdm) : Prop :=
  (i, m) ∈ [(Instr.getVersion, Spdm.version 0x13), (.getCapabilities, .capabilities true),
    (.negotiateAlgorithms, .algorithms "SLH-DSA-SHA2-192s" "SHA-256" "SHA-256"),
    (.getDigests, .digests (Config.sha256 Config.certificate))]

/-- Measurement slot `i` (Table 11). -/
def slotRule (s : State) (i : Nat) : BitVec 256 :=
  if i = 0 then Config.romDigest else if i = 1 then s.boot.slot1 else if i = 2 then Config.fuseDigest else if i = 3 then s.boot.slot3 else 0

/-- The slots of an index, the bytes that a signature covers, and the bytes of an answer. -/
def slotsOf (index : Nat) : List Nat := if index = 255 then List.range 8 else if index < 8 then [index] else []
def slotBytes (s : State) (is : List Nat) : List Byte := is.flatMap (fun i => leBytes 1 i ++ leBytes 32 (slotRule s i).toNat)

/-- The signature of the device's identity key, 16,224 bytes (R323). -/
def identitySig (bs : List Byte) : List Byte := leBytes 16224 (Config.slhSign (Config.keySeed Config.deviceSecret) bs).toNat

def spdmBytes : Spdm → Nat
  | .digests _ => 32
  | .certificate p _ => p.length
  | .challengeAuth _ sig => 32 + sig.length
  | .measurements ms sig => 33 * ms.length + (sig.getD []).length
  | .chunk _ _ p => p.length
  | _ => 0

/-- What the host receives for an answer (R323): ERROR before the firmware runs, or where it does not fit the transport. -/
def Answers (s t : State) (m : Spdm) : Prop :=
  t.hostOut = s.hostOut ++ [.spdm (if s.boot.firmware = false ∨ Config.transportSize < spdmBytes m then .error else m)] ∧ SameMemory s t

/-- Operands with every field zero, in the 64-bit form. -/
def noOps : Ops :=
  { len := .w64, flag := none, wait := 0, stall := 0, guard := ⟨0, 0, false⟩, vd := ⟨false, 0⟩, vs1 := ⟨false, 0⟩, vs2 := ⟨false, 0⟩, vs3 := ⟨false, 0⟩,
    vs4 := ⟨false, 0⟩, mod := 0, mod2 := 0, imm := 0 }

end Sys2Proof.Claims

open Sys2Proof Sys2Proof.Machine Sys2Proof.Claims

/-- R118: the 32-bit arithmetic of Table 2. -/
def Sys2Proof.Claims.ArithResult : Prop := GivesResult (fun _ => 1) arithRules

/-- R119: the 64-bit arithmetic of Table 3. -/
def Sys2Proof.Claims.WideResult : Prop := GivesResult (fun _ => 2) wideRules

/-- R118 and R119: the 32-bit and the 64-bit arithmetic. -/
def Obligations.IntegerResult : Prop := ArithResult ∧ WideResult

/-- R120 and R121, and that a word made from its bits has them. -/
def Sys2Proof.Claims.LogicResult : Prop :=
  GivesResult (fun _ => 1) logicRules ∧ ∀ (f : Nat → Bool) (i : Nat), i < 32 → (ofBits32 f).getLsbD i = f i

/-- R122: the shifts of Table 5. -/
def Sys2Proof.Claims.ShiftResult : Prop := GivesResult (fun _ => 1) shiftRules

/-- R123 and R124: bit fields and byte permutes. -/
def Sys2Proof.Claims.FieldResult : Prop := GivesResult (fun _ => 1) fieldRules

/-- R120 to R124: logic, shifts, bit fields and byte permutes. -/
def Obligations.BitwiseResult : Prop := LogicResult ∧ ShiftResult ∧ FieldResult

/-- R125 to R127: compares, selects and guard bits. -/
def Sys2Proof.Claims.BitResult : Prop := GivesResult (fun _ => 1) bitRules

/-- R129: moves and addresses. -/
def Sys2Proof.Claims.MoveResult : Prop := GivesResult (fun _ => 1) moveRules ∧ GivesResult (fun _ => 2) addressRules

/-- R125 to R127 and R129: compares, selects, guard bits, moves and addresses. -/
def Obligations.BitMoveResult : Prop := BitResult ∧ MoveResult

/-- R144 to R147 and R153: FP32 arithmetic, minimum and maximum, compares, classes and IDP4. -/
def Sys2Proof.Claims.Fp32Result : Prop := GivesResult (fun _ => 1) fp32Rules

/-- R148: FRND and FSCALE, whose destination is a pair under `.f64`. -/
def Sys2Proof.Claims.RoundResult : Prop := GivesResult (fun o => if modBits o 4 0 = 14 then 2 else 1) roundRules

/-- R144 to R148 and R153: FP32 arithmetic and its companions, rounding and scaling. -/
def Obligations.FloatResult : Prop := Fp32Result ∧ RoundResult

/-- R150 and R151: the packed instructions. -/
def Obligations.PackedResult : Prop := GivesResult (fun _ => 1) packedRules

/-- R149: the special functions, whose results come later; the values at the special inputs of Table 4 are the spec's, the rounded function at
any other is `SfuFn.apply` (log entry 10). -/
def Obligations.SpecialFunctionResult : Prop := GivesLate 1 sfuRules

/-- R152: FP64 arithmetic and compares, whose results come later. -/
def Obligations.Fp64Result : Prop := GivesLate 2 fp64Rules ∧ GivesLate 1 dsetbRules

/-- R154 to R158: the conversions, and the seed register of `.rs`, which is written back unless the result stands in it. -/
def Obligations.ConvertResult : Prop :=
  ∀ (f : Ops → Instr) (v : Ops → Src → Nat × Word) (seed : Ops → Reg), (f, v, seed) ∈ convRules →
    ∀ (o : Ops) (s : State) (p : Pass) (e : Env) (code : Nat), (f o).wellFormed = true → opcodeOf (f o) = some (code, o) → Issues s p code o noFaults e →
    ∃ t, exec (f o) s = .next t ∧ t.resultIs e o e.row.vd.width (fun l => (v o l.src).1)
      ∧ (modBits o 12 10 = 4 → (o.vd.crew = true ∨ (seed o).num ∉ groupOf o.vd.num e.row.vd.width) →
          ∀ l, Executes e o l → t.regIs l.ref (seed o).num (v o l.src).2)

/-- R160 to R163: every active lane receives its value, or keeps its destination where SHFL's source lane is inactive. -/
def Sys2Proof.Claims.LaneExchangeResult : Prop :=
  ∀ (f : Ops → Instr) (v : Ops → List Lane → Lane → Option Nat), (f, v) ∈ laneRules →
    ∀ (o : Ops) (s : State) (p : Pass) (e : Env) (code : Nat), (f o).wellFormed = true → opcodeOf (f o) = some (code, o) → Issues s p code o noFaults e →
    ∃ t, exec (f o) s = .next t ∧ ∀ l, Executes e o l →
      (∀ n, v o ((e.lanes o).filter (fun x => x.exec)) l = some n → t.groupIs l.ref o.vd.num e.row.vd.width n)
      ∧ (v o ((e.lanes o).filter (fun x => x.exec)) l = none →
          ∀ q ∈ groupOf o.vd.num e.row.vd.width, (t.thread? l.ref).map (fun x => x.regs[q.toNat]?) = (s.thread? l.ref).map (fun x => x.regs[q.toNat]?))

/-- R183: MATCH, whose result comes later. -/
def Sys2Proof.Claims.MatchResult : Prop :=
  ∀ (o : Ops) (s : State) (p : Pass) (e : Env), (Instr.match o).wellFormed = true → Issues s p 0x142 o noFaults e →
    ∃ t, exec (.match o) s = .next t ∧ ∀ l, Executes e o l →
      t.pendIs l o (resultWords o.vd 1 (matchRule o ((e.lanes o).filter (fun x => x.exec)) l)) []

/-- R160 to R163 and R183: lane exchange and MATCH. -/
def Obligations.LaneResult : Prop := LaneExchangeResult ∧ MatchResult

/-- What an instruction with a register result leaves unchanged: all memory, the package, every other register and flag of a thread, every
register of a thread that does not execute it, every other crew register. -/
def Obligations.ResultFrame : Prop :=
  ∀ (f : Ops → Instr) (also : Ops → List (BitVec 7)), (f, also) ∈ resultInstrs →
    ∀ (o : Ops) (s : State) (p : Pass) (e : Env) (code : Nat), opcodeOf (f o) = some (code, o) → Issues s p code o noFaults e →
    ∀ t, exec (f o) s = .next t → SameMemory s t ∧ SamePackage s t
      ∧ (∀ r x, s.thread? r = some x → ∃ y, t.thread? r = some y
          ∧ SameThread ((if o.vd.crew then [] else groupOf o.vd.num e.row.vd.width) ++ also o) x y
          ∧ ((∀ l, Executes e o l → l.ref ≠ r) → SameThread [] x y)
          ∧ (∀ i : Fin 12, o.flag ≠ some i → y.flag i = x.flag i))
      ∧ (∀ c x, s.crew? c = some x → ∃ y, t.crew? c = some y
          ∧ ∀ q : BitVec 7, (c ≠ p.crew ∨ o.vd.crew = false ∨ q ∉ groupOf o.vd.num e.row.vd.width) → y.kregs[q.toNat]? = x.kregs[q.toNat]?)

/-- A write of a later instruction to crew register `q` has come before that of the operation (R50). -/
def Sys2Proof.Claims.laterWrite (c : Crew) (p : Pend) (q : BitVec 7) : Bool :=
  c.klate.any (fun u => u.reg == q && decide (writeOrder p.pass p.lane < u.order))

/-- The operation `p` has written the registers `ws` of its thread, but for those that a later instruction has written since (R401), and `ks` of its crew, in
which the write of the highest lane of the latest pass stands (R50). -/
structure Sys2Proof.Claims.LateWritten (s t : State) (r : TRef) (x y : Thread) (p : Pend) (ws ks : List (BitVec 7 × Word)) : Prop where
  regs : ∀ w ∈ ws, y.regs[w.1.toNat]? = if w.1 ∈ p.gone then x.regs[w.1.toNat]? else some w.2
  others : ∀ q : BitVec 7, q ∉ ws.map Prod.fst → y.regs[q.toNat]? = x.regs[q.toNat]?
  crew : ∀ c, s.crew? r.crew = some c → (∀ w ∈ ks, w.1.toNat < c.kregs.length) → ∃ d, t.crew? r.crew = some d
    ∧ (∀ w ∈ ks, d.kregs[w.1.toNat]? = if laterWrite c p w.1 then c.kregs[w.1.toNat]? else some w.2)
    ∧ ∀ q : BitVec 7, q ∉ ks.map Prod.fst → d.kregs[q.toNat]? = c.kregs[q.toNat]?
  flag : ∀ i : Fin 12, y.flag i = if p.flag = some i then x.flag i - 1 else x.flag i
  ended : ∀ q ∈ y.pend, q.id ≠ p.id

/-- The registers of the operation are distinct and there, and the thread has its twelve flags. -/
structure Sys2Proof.Claims.LateForm (x : Thread) (p : Pend) : Prop where
  flags : x.flags.length = 12
  regs : (p.writes.map Prod.fst).Nodup ∧ ∀ w ∈ p.writes, w.1.toNat < x.regs.length
  kregs : (p.kwrites.map Prod.fst).Nodup

/-- R50, R52, R138, R244 and R401: RESULT_WRITTEN writes the registers of the operation, of the thread and of the crew, lowers its flag by one and ends it; every
other register stands. A thread that waits for its INVI goes on. -/
def Sys2Proof.Claims.ResultWritten : Prop :=
  ∀ (t : TRef) (id : Nat) (s : State) (x : Thread) (p : Pend), s.thread? t = some x → x.pend.find? (fun q => q.id == id) = some p → p.sreg = none →
    p.cctl = none → LateForm x p →
    ∃ s' y, exec (.resultWritten t id) s = .next s' ∧ s'.thread? t = some y ∧ LateWritten s s' t x y p p.writes p.kwrites
      ∧ (x.wait = .inval id → y.wait = .none)
      ∧ SameMemory s s' ∧ ∀ r, r ≠ t → (s'.thread? r).map (fun z => z.regs) = (s.thread? r).map (fun z => z.regs)

/-- R54 and R401: an access that has been performed completes: its registers take their values, its flag falls by one, the operation ends. -/
def Sys2Proof.Claims.AccessCompleted : Prop :=
  ∀ (t : TRef) (id : Nat) (s : State) (x : Thread) (p : Pend), s.thread? t = some x → x.pend.find? (fun q => q.id == id) = some p → p.todo = none →
    LateForm x p → ∃ s' y, exec (.accessComplete t id) s = .next s' ∧ s'.thread? t = some y ∧ LateWritten s s' t x y p p.writes p.kwrites ∧ SameMemory s s'

/-- R50, R52, R54, R138, R244 and R401: the completion of a result and of an access. -/
def Obligations.OperationCompletes : Prop := ResultWritten ∧ AccessCompleted

/-- R130 and R131: a thread whose guard is true goes to the target, any other to the next sequential PC; CALL and CALLX write the link. -/
def Obligations.TransferResult : Prop :=
  ∀ (f : Ops → Instr) (target : Env → Ops → Lane → DWord) (link : Bool), (f, target, link) ∈ transferRules →
    ∀ (o : Ops) (s : State) (p : Pass) (e : Env) (code : Nat), opcodeOf (f o) = some (code, o) → Issues s p code o noFaults e →
    (link = true → o.vd.crew = false) →
    ∃ t, exec (f o) s = .next t ∧ SameMemory s t
      ∧ (∀ l ∈ e.lanes o, ∃ x, t.thread? l.ref = some x ∧ x.pc = (if l.exec then target e o l else nextPc e o)
          ∧ (l.exec = true → link = true → t.groupIs l.ref o.vd.num 2 (nextPc e o).toNat)
          ∧ ∀ q : BitVec 7, (l.exec = false ∨ link = false ∨ q ∉ groupOf o.vd.num 2) → x.regs[q.toNat]? = l.t.regs[q.toNat]?)

/-- R33, R130 and R131: MEET sets the meet target of the threads that execute it; every thread of the pass goes on. -/
def Sys2Proof.Claims.MeetSetsTarget : Prop :=
  ∀ (o : Ops) (s : State) (p : Pass) (e : Env), Issues s p 0x0C6 o noFaults e →
    ∃ t, exec (.meet o) s = .next t ∧ ∀ l ∈ e.lanes o, ∃ x, t.thread? l.ref = some x ∧ x.pc = nextPc e o ∧ SameThread [] l.t x
      ∧ (l.exec = true → x.meet = some (relPc e o)) ∧ (l.exec = false → x.meet = if l.t.meet = some p.pc then none else l.t.meet)

/-- R133, R135 and R41: NOP has no effect but that of its control group; REGION, outside handler state, ends a region, and the next begins behind it:
`$regionpc` is the next PC and `$regioncount` one higher. -/
def Sys2Proof.Claims.NopAndRegion : Prop :=
  (∀ (o : Ops) (s : State) (p : Pass) (e : Env), Issues s p 0x0C8 o noFaults e →
    ∃ t, exec (.nop o) s = .next t ∧ SameMemory s t ∧ SamePackage s t ∧ ∀ l ∈ e.lanes o, ∃ x, t.thread? l.ref = some x ∧ x.pc = nextPc e o
      ∧ SameThread [] l.t x ∧ ∀ i : Fin 12, x.flag i = if l.exec = true ∧ o.flag = some i ∧ i.val < l.t.flags.length then l.t.flag i + 1 else l.t.flag i)
  ∧ (∀ (o : Ops) (s : State) (p : Pass) (e : Env), Issues s p 0x0C7 o noFaults e →
    ∃ t, exec (.region o) s = .next t ∧ SameMemory s t ∧ SamePackage s t ∧ ∀ l ∈ e.lanes o, ∃ x, t.thread? l.ref = some x ∧ x.pc = nextPc e o
      ∧ SameThread [] l.t x ∧ x.regionPc = (if l.t.handler then l.t.regionPc else nextPc e o)
      ∧ x.regionCount = (if l.t.handler then l.t.regionCount else l.t.regionCount + 1))

/-- R386: CLRP clears every poison bit and the record; CLRP.one that of vd, and the record when none remains. -/
def Sys2Proof.Claims.ClrpClears : Prop :=
  ∀ (o : Ops) (s : State) (p : Pass) (e : Env), Issues s p 0x0CB o noFaults e →
    ∃ t, exec (.clrp o) s = .next t ∧ ∀ l, Executes e o l → ∃ y, t.thread? l.ref = some y ∧ y.regs = l.t.regs ∧ y.pc = nextPc e o
      ∧ (∀ q : BitVec 7, q ∈ y.poison ↔ q ∈ l.t.poison ∧ modBit o 13 = true ∧ q ≠ o.vd.num)
      ∧ (y.poison = [] → y.poisonRec = none)

/-- R177: PREF has no architectural effect. -/
def Sys2Proof.Claims.PrefetchNothing : Prop :=
  ∀ (o : Ops) (s : State) (p : Pass) (e : Env), Issues s p 0x103 o noFaults e →
    ∃ t, exec (.pref o) s = .next t ∧ SameMemory s t ∧ SamePackage s t ∧ ∀ l ∈ e.lanes o, ∃ y, t.thread? l.ref = some y ∧ y.pc = nextPc e o
      ∧ SameThread [] l.t y

/-- R33, R41, R130, R131, R135, R177 and R386: the instructions whose effect lies in the thread alone. -/
def Obligations.ThreadEffects : Prop := MeetSetsTarget ∧ NopAndRegion ∧ ClrpClears ∧ PrefetchNothing

/-- R134: the threads that execute EXIT have exited and hold no meet target, every other thread of the crew stands, and a crew all of whose
threads have exited gives up its slot and registers. -/
def Obligations.ExitEndsThreads : Prop :=
  ∀ (o : Ops) (s : State) (p : Pass) (e : Env), Issues s p 0x0C5 o noFaults e →
    ∃ t c, exec (.exit o) s = .next t ∧ t.crew? p.crew = some c
      ∧ (∀ l, Executes e o l → ∃ x, t.thread? l.ref = some x ∧ x.exited = true ∧ x.meet = none)
      ∧ (∀ r, (∀ l, Executes e o l → l.ref ≠ r) → (t.thread? r).map (fun x => x.exited) = (s.thread? r).map (fun x => x.exited))
      ∧ (c.threads.all (fun x => x.exited) = true → c.released = true)

/-- R384 with R376 and R378: TRAP n takes a class 6 trap with CODE n in each thread that executes it; `$trappc` is its own PC, `$trapaddr` the
pair under `.a` and 0 otherwise, and no flag rises. -/
def Obligations.TrapTaken : Prop :=
  ∀ (o : Ops) (s : State) (p : Pass) (e : Env), Issues s p 0x0C9 o noFaults e → s.replays p.crew.g = false →
    (∀ l, Executes e o l → TakesTrap l.t ∧ l.t.faults = []) →
    ∃ t, exec (.trap o) s = .next t
      ∧ (∀ l, Executes e o l → ∃ y, t.thread? l.ref = some y
          ∧ Trapped l.t y (BitVec.ofNat 32 (6 * 2 ^ 8 + o.vd.num.toNat)) (if modBit o 13 then BitVec.ofNat 64 l.src.a else 0) p.pc
          ∧ y.poison = l.t.poison)
      ∧ (∀ l ∈ e.lanes o, l.exec = false → ∃ y, t.thread? l.ref = some y ∧ y.pc = nextPc e o ∧ y.handler = l.t.handler)

/-- R377: of several standing faults the one delivered comes before every other: region faults in order of issue and address, poison,
asynchronous faults the oldest first, issue faults. -/
def Sys2Proof.Claims.FaultPrecedence : Prop :=
  ∀ (fs : List PFault), (fs = [] ↔ firstFault fs = none) ∧ ∀ f, firstFault fs = some f → f ∈ fs ∧ ∀ g ∈ fs,
    f.how.rank < g.how.rank ∨ (f.how.rank = g.how.rank ∧ (f.order < g.order ∨ (f.order = g.order ∧ f.addr.toNat ≤ g.addr.toNat)))

/-- R377 and R378: delivery of the first standing fault. A region or poison fault rolls back to `$regionpc` with the poison cleared; the `$trappc` of an
asynchronous fault is the thread's next instruction. Other asynchronous faults stay pending while the thread is in handler state. -/
def Sys2Proof.Claims.TrapDelivered : Prop :=
  ∀ (r : TRef) (s : State) (x : Thread) (f : PFault), s.thread? r = some x → s.stands r.g = true → s.replays r.g = false → firstFault x.faults = some f →
    TakesTrap x → (∀ g ∈ x.faults, g.race = none) → ∃ t y, exec (.trapDelivery r) s = .next t ∧ t.thread? r = some y
      ∧ Trapped x y f.cause f.addr (if f.how = .async then x.pc else f.pc)
      ∧ y.poison = (if f.how = .region ∨ f.how = .poison then [] else x.poison)
      ∧ y.faults = [] ∧ ∀ g ∈ x.faults, g.how = .async → g.order ≠ f.order → g ∈ y.later

/-- R378, R387 and R389: a trap in handler state, or with `$trapvec` zero, halts the context: FSTAT.HALT of its ASID becomes 1 and the thread
keeps its PC. -/
def Sys2Proof.Claims.TrapHalts : Prop :=
  ∀ (r : TRef) (s : State) (x : Thread) (f : PFault) (l : Launch), s.thread? r = some x → s.stands r.g = true → s.replays r.g = false →
    s.launchOf r.g = some l → firstFault x.faults = some f → x.settled = true → x.haltFault = none → (x.handler = true ∨ x.trapvec = 0) →
    (∀ g ∈ x.faults, g.race = none) → x.wait = .none →
    ∃ t y, exec (.trapDelivery r) s = .next t ∧ t.thread? r = some y ∧ y.pc = x.pc ∧ y.regs = x.regs ∧ y.haltFault.isSome = true
      ∧ (t.asid l.asid).halt = true

/-- R377, R378, R387 and R389: which standing fault is delivered, its delivery, and its halt. -/
def Obligations.TrapCourse : Prop := FaultPrecedence ∧ TrapDelivered ∧ TrapHalts

/-- R64 and R385: RESUME leaves handler state at `$regionpc`, past the word at `$trappc`, or at `$trappc`, bits 1:0 of a PC being zero; the trap registers
stand. Under `.next` the pass has one thread that executes it, and the length is the one that its word gives. -/
def Obligations.ResumeReturns : Prop :=
  ∀ (o : Ops) (s : State) (p : Pass) (e : Env), Issues s p 0x0CA o noFaults e → (o.mod.toNat / 2 ^ 13 % 4 ≠ 3) →
    (∀ l, Executes e o l → l.t.handler = true) →
    (o.mod.toNat / 2 ^ 13 % 4 = 1 → ∃ l bs u, (e.lanes o).filter (fun x => x.exec) = [l]
      ∧ s.fetch e.core (s.asidOf p.crew.g) (pairPc l.t.trappc.toNat) = .inr (bs, u)) →
    ∃ t, exec (.resume o) s = .next t ∧ ∀ l, Executes e o l → ∃ y, t.thread? l.ref = some y ∧ y.handler = false
      ∧ y.trapcause = l.t.trapcause ∧ y.trapaddr = l.t.trapaddr ∧ y.trappc = l.t.trappc ∧ y.trapvec = l.t.trapvec ∧ y.regs = l.t.regs
      ∧ (o.mod.toNat / 2 ^ 13 % 4 = 0 → y.pc = l.t.regionPc) ∧ (o.mod.toNat / 2 ^ 13 % 4 = 2 → y.pc = pairPc l.t.trappc.toNat)
      ∧ (o.mod.toNat / 2 ^ 13 % 4 = 1 → ∀ bs u, s.fetch e.core (s.asidOf p.crew.g) (pairPc l.t.trappc.toNat) = .inr (bs, u) →
          y.pc = pairPc l.t.trappc.toNat + BitVec.ofNat 64 (match ((bs[0]?).getD 0).toNat % 4 with
            | 0 => 8
            | 1 => 12
            | 2 => 16
            | _ => 4))

/-- R54, R164, R166, R175, R176 and R178 to R180: where its accesses are performed later, each lane that executes the instruction has its access
under way, at its effective address, the flag raised and no byte of memory changed (log entry 2: when an access is performed). -/
def Obligations.AccessIssued : Prop :=
  ∀ (f : Ops → Instr) (a : DWord → Ops → Lane → Access), (f, a) ∈ accessRules → ∀ (o : Ops) (s : State) (p : Pass) (e : Env) (code : Nat),
    (f o).wellFormed = true → opcodeOf (f o) = some (code, o) → Issues s p code o noFaults e → p.defer = true →
    ((∃ op, f o = .atom op ∨ f o = .red op) → ((e.lanes o).filter (fun l => l.exec)).Pairwise (fun l k => baseRule o l ≠ baseRule o k)) →
    ∃ t, exec (f o) s = .next t ∧ (recordMode (s.modesOf p.crew.g) = 0 → SameMemory s t)
      ∧ ∀ l, Executes e o l → ∃ y q, t.thread? l.ref = some y ∧ y.pc = nextPc e o ∧ y.regs = l.t.regs ∧ q ∈ y.pend ∧ q.todo = some (a p.pc o l)
          ∧ q.flag = o.flag ∧ q.lane = l.lane ∧ q.access = true
          ∧ ∀ i : Fin 12, y.flag i = if o.flag = some i ∧ i.val < l.t.flags.length then l.t.flag i + 1 else l.t.flag i

/-- R167, R170, R175, R176, R179, R180: an access to a scratchpad reads its bytes and leaves what its kind leaves; every other byte of every
scratchpad is unchanged. -/
def Sys2Proof.Claims.ScratchpadPerformed : Prop :=
  ∀ (r : TRef) (s : State) (x : Thread) (p : Pend) (a : Access) (b : BRef) (off : Nat), Performs s r x p a (.pad b off) → off % 128 + a.size ≤ 128 →
    ∃ t, exec (.accessComplete r p.id) s = .next t
      ∧ Performed t r p (readWrites a (seenNat s b off a.size))
      ∧ ∀ b' i, (t.block? b').map (fun z => z.scratch.read i)
          = (s.block? b').map (fun z => if a.kind.writes = true ∧ b' = b ∧ off ≤ i ∧ i < off + a.size then leftByte a (seenNat s b off a.size) (i - off)
              else z.scratch.read i)

/-- R167, R175, R176, R249: an access of scope `.crew` or `.blk` to a global line that the core's L1 holds reads the copy; a store or ATOM
leaves its bytes in the copy, which becomes Dirty-block; every other byte of the copy and all of HBM are unchanged. -/
def Sys2Proof.Claims.L1Performed : Prop :=
  ∀ (r : TRef) (s : State) (x : Thread) (p : Pend) (a : Access) (pa off : Nat) (l : LineId) (c : L1Line), Performs s r x p a (.phys pa true) →
    a.scope ≤ 1 → (∀ op t, a.kind ≠ .red op t) → lineOf pa = some (l, off) → off + a.size ≤ 128 → s.l1Line (s.coreOf r.block) l = some c →
    c.st ≠ .updateOnly → c.data.length = 128 → (s.homeLine l).uo = none → (s.homeLine l).holders = [] → (s.homeLine l).bad = none → s.marked l = false →
    recordMode (s.modesOf r.g) = 0 →
    ∃ t d, exec (.accessComplete r p.id) s = .next t ∧ Performed t r p (readWrites a (leNat ((c.data.drop off).take a.size)))
      ∧ t.mem = s.mem ∧ t.l1Line (s.coreOf r.block) l = some d ∧ d.st = (if a.kind.writes then .dirty else c.st)
      ∧ ∀ i, i < 128 → d.data[i]? = if off ≤ i ∧ i < off + a.size then some (leftByte a (leNat ((c.data.drop off).take a.size)) (i - off)) else c.data[i]?

/-- R167, R175, R176, R179: an access that is performed at the L3 home reads the home's bytes and leaves what its kind leaves; every other byte
of HBM is unchanged. -/
def Sys2Proof.Claims.HomePerformed : Prop :=
  ∀ (r : TRef) (s : State) (x : Thread) (p : Pend) (a : Access) (pa off : Nat) (near : Bool) (l : LineId), Performs s r x p a (.phys pa near) →
    (near = true → 2 ≤ a.scope) → (∀ op t, a.kind ≠ .red op t) → a.kind.acquires = false → a.kind.releases = false →
    lineOf pa = some (l, off) → off + a.size ≤ 128 → s.l1Line (s.coreOf r.block) l = none → (s.homeLine l).uo = none → (s.homeLine l).holders = [] →
    (s.homeLine l).bad = none → s.marked l = false → recordMode (s.modesOf r.g) = 0 →
    ∃ t, exec (.accessComplete r p.id) s = .next t ∧ Performed t r p (readWrites a (leNat (s.mem.readN (l.key + off) a.size)))
      ∧ ∀ k, t.mem.read k = if l.key + off ≤ k ∧ k < l.key + off + a.size then leftByte a (leNat (s.mem.readN (l.key + off) a.size)) (k - (l.key + off))
          else s.mem.read k

/-- R167, R170, R175, R176, R179, R180 and R249: an access where it is performed. -/
def Obligations.AccessPerformed : Prop := ScratchpadPerformed ∧ L1Performed ∧ HomePerformed

/-- R418: a contribution that waits for a spill entry tries again when one becomes free; one that has waited 100 µs takes SPILLFULL with region
delivery instead, and its flag falls. -/
def Obligations.SpillWait : Prop :=
  (∀ (r : TRef) (id : Nat) (s : State), ∃ t, exec (.spillEntryFree r id) s = .next t
    ∧ ∀ x p, s.thread? r = some x → x.pend.find? (fun q => q.id == id) = some p → p.todo.isSome = true → exec (.accessComplete r id) s = .next t)
  ∧ (∀ (r : TRef) (s : State) (x : Thread) (p : Pend) (a : Access) (pa off : Nat) (near : Bool) (l : LineId) (op ty : Nat),
    s.thread? r = some x → x.pend.find? (fun q => q.id == p.id) = some p → p.todo = some a → a.kind = .red op ty → x.flags.length = 12 →
    s.cmd? r.block p.id = none → s.placeOf r a = .inr (.phys pa near) → (near = true → 2 ≤ a.scope) → lineOf pa = some (l, off) →
    s.canBuffer l ty = false →
    ∃ t y g, exec (.spillWaitTimeout r p.id) s = .next t ∧ t.thread? r = some y ∧ g ∈ y.faults ∧ g.how = .region
      ∧ g.cause.toNat % 2 ^ 12 = 2 * 2 ^ 8 + 0x0A ∧ g.addr = a.ea ∧ (∀ q ∈ y.pend, q.id ≠ p.id)
      ∧ (∀ i : Fin 12, y.flag i = if p.flag = some i then x.flag i - 1 else x.flag i) ∧ SameMemory s t)

/-- R184: FENCE sets s to max(s, PA) + 1 and the fence scope to its scope in each thread that executes it, and leaves its registers and its order
clock. -/
def Obligations.FenceEffect : Prop :=
  ∀ (o : Ops) (s : State) (p : Pass) (e : Env), Issues s p 0x143 o noFaults e →
    ∃ t, exec (.fence o) s = .next t ∧ ∀ l, Executes e o l → ∃ y, t.thread? l.ref = some y ∧ y.pc = nextPc e o ∧ y.regs = l.t.regs
      ∧ y.s = smax l.t.s l.t.pa + 1 ∧ y.o = l.t.o ∧ y.fs = some (modBits o 12 10) ∧ y.syncscope = l.t.syncscope

/-- R186 and R188: BAR.ARR arrives and the thread continues at once. -/
def Sys2Proof.Claims.BarrierArrive : Prop :=
  ∀ (o : Ops) (s : State) (p : Pass) (e : Env) (n : Nat), (Instr.barArr o).wellFormed = true → Issues s p 0x144 o noFaults e → GoodCount s o e n →
    hasBar s (barNamed s o p.crew) →
    ∃ t, exec (.barArr o) s = .next t ∧ ArrivedAll s t o e n ∧ ∀ l, Executes e o l → ∃ y, t.thread? l.ref = some y ∧ y.wait = l.t.wait ∧ y.regs = l.t.regs

/-- R186 and R188: BAR.SYNC arrives and then waits for the phase of its arrival. -/
def Sys2Proof.Claims.BarrierSync : Prop :=
  ∀ (o : Ops) (s : State) (p : Pass) (e : Env) (n : Nat), (Instr.barSync o).wellFormed = true → Issues s p 0x146 o noFaults e → GoodCount s o e n →
    hasBar s (barNamed s o p.crew) → (∀ d ∈ (s.bar (barNamed s o p.crew)).done, d.1 ≠ (s.bar (barNamed s o p.crew)).phase) →
    ∃ t, exec (.barSync o) s = .next t ∧ ArrivedAll s t o e n ∧ ∀ l, Executes e o l → ∃ y k, t.thread? l.ref = some y ∧ y.regs = l.t.regs
      ∧ y.wait = .bar (barNamed s o p.crew) (s.bar (barNamed s o p.crew)).phase k

/-- R188: BAR.WAIT completes at once, without a clock effect, in a thread with no arrival at the barrier or whose arrival has been waited on; it
sets s to max(s, M + 1) where the phase of the arrival is complete, and waits for it where it is not. -/
def Sys2Proof.Claims.BarrierWait : Prop :=
  ∀ (o : Ops) (s : State) (p : Pass) (e : Env), Issues s p 0x145 o noFaults e →
    ∃ t, exec (.barWait o) s = .next t ∧ ∀ l, Executes e o l → ∃ y, t.thread? l.ref = some y ∧ y.pc = nextPc e o ∧ y.regs = l.t.regs ∧ y.o = l.t.o
      ∧ ((∀ a ∈ l.t.arrivals, a.bar = barNamed s o p.crew → a.waited = true) → y.s = l.t.s ∧ y.wait = l.t.wait)
      ∧ (∀ a, l.t.arrivals.find? (fun a => a.bar == barNamed s o p.crew && !a.waited) = some a →
          (∀ d, (s.bar (barNamed s o p.crew)).done.find? (fun d => d.1 == a.phase) = some d → y.s = smax l.t.s (d.2 + 1) ∧ y.wait = .none)
          ∧ ((s.bar (barNamed s o p.crew)).done.find? (fun d => d.1 == a.phase) = none →
              y.s = l.t.s ∧ ∃ k, y.wait = .bar (barNamed s o p.crew) a.phase k))

/-- R186 and R188: the three barrier instructions. -/
def Obligations.BarrierInstructions : Prop := BarrierArrive ∧ BarrierSync ∧ BarrierWait

/-- R186 and R187: the phase of a barrier without declared count completes once every thread of the crews that share it has arrived or exited: the
counter increments and the threads that wait on the phase go on with s at max(s, M + 1), M being the serial maximum of the sync clocks of
the arrivals. A phase that still lacks a crew stays open. The block's barrier rotates no ring. -/
def Sys2Proof.Claims.BarrierPhase : Prop :=
  ∀ (r : BarRef) (s : State) (a : Arr) (as : List Arr), hasBar s r → (s.bar r).arr = a :: as → (s.bar r).fixed.getD 0 = 0 → s.rotated r = [] → s.allStanding r = true →
    (∀ x ∈ (s.bar r).arr, ∃ c ∈ s.barCrews r, x.who.crew = c.1) → ((s.barCrews r).map Prod.fst).Nodup →
    ((∀ c ∈ s.barCrews r, ∀ x ∈ c.2.allThreads c.1, x.2.exited = true ∨ ∃ y ∈ (s.bar r).arr, y.who = x.1) →
      (∀ c ∈ s.barCrews r, c.2.gone = true ∨ ∃ y ∈ (s.bar r).arr, y.who.crew = c.1) →
      ∃ t, exec (.barrierPhaseComplete r) s = .next t ∧ (t.bar r).phase = (s.bar r).phase + 1 ∧ (t.bar r).arr = []
        ∧ ∀ c ∈ s.barCrews r, ∀ x ∈ c.2.allThreads c.1, ∀ k, s.thread? x.1 = some x.2 → x.2.wait = .bar r (s.bar r).phase k →
            ∃ y, t.thread? x.1 = some y ∧ y.wait = .none ∧ y.s = smax x.2.s (smaxList a.s (as.map (fun z => z.s)) + 1))
    ∧ ((∃ c ∈ s.barCrews r, c.2.gone = false ∧ ∃ x ∈ c.2.allThreads c.1, x.2.exited = false ∧ ∀ y ∈ (s.bar r).arr, y.who ≠ x.1) →
      ∃ t, exec (.barrierPhaseComplete r) s = .next t ∧ (t.bar r).phase = (s.bar r).phase ∧ (t.bar r).arr = (s.bar r).arr ∧ ∀ w, t.thread? w = s.thread? w)

/-- R187, R223 and R248: a block barrier that completes advances the stroke pointer of each ring region it rotates by one, modulo its stage count,
and its rotation count by one. Outside replay. -/
def Sys2Proof.Claims.BarrierRotates : Prop :=
  ∀ (g k i : Nat) (s : State) (b : Block) (l : Launch), s.block? ⟨g, k⟩ = some b → i < b.bars.length → s.launchOf g = some l →
    (s.bar (.blk g k i)).arr ≠ [] → (s.bar (.blk g k i)).fixed.getD 0 = 0 → s.replays g = false → recordMode (s.modesOf g) = 0 →
    (∀ x ∈ (s.bar (.blk g k i)).arr, x.who.g = g ∧ x.who.k = k ∧ x.who.c < b.crews.length) →
    (∀ c ∈ s.barCrews (.blk g k i), c.2.gone = true ∨ crewArrived (s.bar (.blk g k i)) c.1 c.2 = true) →
    ∃ t c, exec (.barrierPhaseComplete (.blk g k i)) s = .next t ∧ t.block? ⟨g, k⟩ = some c ∧ ∀ n x, b.rings[n]? = some x →
      ∃ y, c.rings[n]? = some y ∧ (match (l.p.rings[n]?).getD none with
        | some d => if d.bar = i ∧ n < 8 then y.stroke = BitVec.ofNat 4 ((x.stroke.toNat + 1) % d.stages) ∧ y.rot = x.rot + 1 else y = x
        | none => y = x)

/-- R186, R187, R223 and R248: the completion of a phase. -/
def Obligations.BarrierCompletes : Prop := BarrierPhase ∧ BarrierRotates

/-- R190: each thread that executes CTRWAIT waits on the counter in vs1, with its flag raised, until a read finds the value of vs2 or more; it reads
first at the end of this cycle (R447, log entry 22). -/
def Sys2Proof.Claims.CounterWait : Prop :=
  ∀ (o : Ops) (s : State) (p : Pass) (e : Env), Issues s p 0x147 o noFaults e →
    ∃ t, exec (.ctrwait o) s = .next t ∧ SameMemory s t ∧ ∀ l, Executes e o l → ∃ y k q, t.thread? l.ref = some y ∧ y.pc = nextPc e o ∧ y.regs = l.t.regs
      ∧ y.wait = .ctr (BitVec.ofNat 64 l.src.a) (BitVec.ofNat 64 l.src.b) o.vd.num (modBits o 12 10) none k ∧ q ∈ y.pend ∧ q.id = k ∧ q.flag = o.flag
      ∧ (∃ a, q.todo = some a ∧ a.pc = p.pc ∧ a.ea = BitVec.ofNat 64 l.src.a ∧ a.size = 8)
      ∧ ∀ i : Fin 12, y.flag i = if o.flag = some i ∧ i.val < l.t.flags.length then l.t.flag i + 1 else l.t.flag i

/-- R190: a read of a waiting CTRWAIT ends the wait once the value has reached the target. -/
def Sys2Proof.Claims.CounterReread : Prop :=
  ∀ (r : TRef) (s : State) (x : Thread) (ea target : DWord) (dest : BitVec 7) (scope k off : Nat) (last : Option DWord) (q : Pend),
    s.thread? r = some x → x.wait = .ctr ea target dest scope last k → x.pend = [q] → q.id = k →
    s.locate (s.asker r) ea 8 8 0 (fun ap => ap == .global || ap == .stack || ap == .peerGlobal || ap == .own) false = .inr (.pad r.block off) →
    raceMode (s.modesOf r.g) = 0 → x.trapDue = false → (∀ v, last = some v → v.toNat ≤ counterWord s r.block off) →
    counterWord s r.block off < 2 ^ 64 - 1 →
    ∃ t y, exec (.ctrwaitReread r) s = .next t ∧ t.thread? r = some y ∧ y.regs = x.regs
      ∧ (if target.toNat ≤ counterWord s r.block off then
          y.wait = .none ∧ ∃ z ∈ y.pend, z.id = k ∧ z.todo = none ∧ z.writes = resultWords ⟨false, dest⟩ 2 (counterWord s r.block off)
        else y.wait = .ctr ea target dest scope (some (BitVec.ofNat 64 (counterWord s r.block off))) k)

/-- R190: CTRWAIT and its reads. -/
def Obligations.CounterWaits : Prop := CounterWait ∧ CounterReread

/-- R134 and R56: a block ends once its crews have given up their slots and nothing it began is under way: its slots, accumulators and
scratchpad return, and its launch counts it. -/
def Obligations.BlockEnds : Prop :=
  ∀ (b : BRef) (s : State) (x : Block) (g : Group) (l : Launch), s.block? b = some x → s.group? b.g = some g → s.launch? g.launch = some l →
    x.ended = false → g.placed = true → x.crews.all (fun c => c.released) = true → x.cmds = [] → (s.core x.core).ops = [] →
    (∀ c ∈ x.crews, ∀ th ∈ c.threads, th.pend = []) →
    ∃ t l', exec (.blockEnd b) s = .next t ∧ t.launch? g.launch = some l' ∧ l'.ended = l.ended + 1
      ∧ (l'.isOpen = (l.isOpen && decide (l.ended + 1 ≠ l.p.x * l.p.y * l.p.z)))
      ∧ (∀ z ∈ (t.core x.core).slots, z.owner.block ≠ b) ∧ (∀ z ∈ (t.core x.core).accs, z.owner.block ≠ b)
      ∧ (∀ z, t.block? b = some z → z.ended = true ∧ ∀ i, z.scratch.read i = 0)

/-- R191, R199 to R205: a class 6 instruction issues once for its crew: its operation joins the order of its core and every thread goes on. -/
def Obligations.MatrixIssued : Prop :=
  (∀ (f : Ops → Instr) (k : Ops → Lane → MatKind), (f, k) ∈ matrixRules → ∀ (o : Ops) (s : State) (p : Pass) (e : Env) (code : Nat) (l : Lane),
    (f o).wellFormed = true → opcodeOf (f o) = some (code, o) → IssuesAll s p code o e → (e.lanes o).head? = some l →
    (f o = .ard o → ∀ x ∈ e.lanes o, x.src.b % 2 ^ 32 = l.src.b % 2 ^ 32 ∧ l.src.b % 2 ^ 32 ≤ 15) →
    ∃ t, exec (f o) s = .next t ∧ OperationIssued s t o e (k o l))
  ∧ (∀ (f : Ops → Instr) (sparse : Bool), (f, sparse) ∈ [(Instr.mmag, false), (Instr.mmags, true)] → ∀ (o : Ops) (s : State) (p : Pass) (e : Env)
      (code : Nat) (c : Crew), opcodeOf (f o) = some (code, o) → IssuesAll s p code o e → s.gangSize p.crew.g ≠ 0 → s.crew? p.crew = some c →
    (∀ n, ∀ y ∈ (s.core n).ops, kindSparse y.kind = sparse) → (∀ y ∈ (s.core e.core).ops, y.id ≠ s.serial) →
    ∃ t d, exec (f o) s = .next t ∧ OperationIssued s t o e (.mma sparse true o.vd.num.toNat o.vs1.num.toNat o.vs2.num.toNat c.gangSeq)
      ∧ t.crew? p.crew = some d ∧ d.gangSeq = c.gangSeq + 1)

/-- R199 and R56: a claim is granted once every resource it names is free and no earlier operation stands before it, all of them or none, each
cleared; while another crew owns one of them the claim waits. -/
def Sys2Proof.Claims.ClaimGranted : Prop :=
  ∀ (core n k : Nat) (acc : Bool) (s : State) (x : MatOp), s.findOp core x.id = some x → x.kind = .claim acc n k → s.engineRuns x.crew.block = true →
    (s.launchOf x.crew.g).isSome = true → s.readsHeld x = false →
    ((∀ y ∈ (s.core core).ops, y.id < x.id → shares (s.opNames y) (s.opNames x) = false) →
      (∀ i < k, if acc then ∀ y ∈ (s.core core).accs, y.num ≠ n + i else ∀ y ∈ (s.core core).slots, y.num ≠ n + i) →
      ∃ t, exec (.claimGrant core x.id) s = .next t ∧ t.findOp core x.id = none
        ∧ ∀ i < k, if acc then ∃ y, OwnsAcc t core x.crew (n + i) y ∧ ∀ j, y.elem j = 0 else ∃ y, OwnsSlot t core x.crew (n + i) y ∧ y.header = 0 ∧ ∀ j, y.data.read j = 0)
    ∧ ((∃ i < k, if acc then ∃ y ∈ (s.core core).accs, y.num = n + i ∧ y.owner ≠ x.crew else ∃ y ∈ (s.core core).slots, y.num = n + i ∧ y.owner ≠ x.crew) →
      ∃ t, exec (.claimGrant core x.id) s = .next t ∧ (t.core core).ops = (s.core core).ops ∧ (t.core core).slots = (s.core core).slots
        ∧ (t.core core).accs = (s.core core).accs)

/-- R200: a release frees the resources it names once its turn has come. -/
def Sys2Proof.Claims.ReleaseDone : Prop :=
  ∀ (core n k : Nat) (acc : Bool) (s : State) (x : MatOp), Turn6 s core x → x.kind = .release acc n k →
    (∀ i < k, if acc then ∃ y, OwnsAcc s core x.crew (n + i) y else ∃ y, OwnsSlot s core x.crew (n + i) y) →
    ∃ t, exec (.resourceReleaseDone core x.id) s = .next t ∧ t.findOp core x.id = none
      ∧ (∀ i < k, if acc then ∀ y ∈ (t.core core).accs, y.num ≠ n + i else ∀ y ∈ (t.core core).slots, y.num ≠ n + i)
      ∧ (∀ y ∈ (s.core core).slots, (acc = true ∨ ∀ i < k, y.num ≠ n + i) → y ∈ (t.core core).slots)
      ∧ (∀ y ∈ (s.core core).accs, (acc = false ∨ ∀ i < k, y.num ≠ n + i) → y ∈ (t.core core).accs)

/-- R56, R199 and R200: claims and releases. -/
def Obligations.ResourcesOwned : Prop := ClaimGranted ∧ ReleaseDone

/-- R201 to R203: OHDR writes the header, AZERO zeroes the accumulator, ARD gives each thread t row 4j + t / 32, columns from 4 (t mod 32) on. -/
def Sys2Proof.Claims.RegisterMoves : Prop :=
  ∀ (core : Nat) (s : State) (x : MatOp), Turn6 s core x →
    (∀ n h y, x.kind = .ohdr n h → OwnsSlot s core x.crew n y →
      ∃ t, exec (.dataMoveComplete core x.id) s = .next t ∧ t.findOp core x.id = none ∧ OwnsSlot t core x.crew n { y with header := h })
    ∧ (∀ n y, x.kind = .azero n → OwnsAcc s core x.crew n y →
      ∃ t z, exec (.dataMoveComplete core x.id) s = .next t ∧ t.findOp core x.id = none ∧ OwnsAcc t core x.crew n z ∧ ∀ i, z.elem i = 0)
    ∧ (∀ vd n j y, x.kind = .ard vd n j → OwnsAcc s core x.crew n y →
      ∃ t, exec (.dataMoveComplete core x.id) s = .next t ∧ t.findOp core x.id = none ∧ OwnsAcc t core x.crew n y
        ∧ ∀ i < 128, ∀ th p, s.thread? (x.crew.thread i) = some th → th.pend.find? (fun q => q.id == x.id) = some p →
            (∀ c < 4, (vd + BitVec.ofNat 7 c).toNat < th.regs.length) →
            ∀ c < 4, vd + BitVec.ofNat 7 c ∉ p.gone → t.regIs (x.crew.thread i) (vd + BitVec.ofNat 7 c) (y.elem (128 * (4 * j + i / 32) + 4 * (i % 32) + c)))

/-- R201, R202 and R229: a step of OLD copies up to 4 KiB of a tile from scratchpad into the slot, one of ALD loads as many bytes of an accumulator, one of
AST stores them, with every other byte of every scratchpad unchanged; at the end of the data the operation is over, before it goes on from there. `off` is
the offset that the operation took at issue. -/
def Sys2Proof.Claims.ScratchpadMoves : Prop :=
  ∀ (core off : Nat) (s : State) (x : MatOp), Turn6 s core x → x.pos % 4096 = 0 → (s.block? x.crew.block).isSome = true →
    (∀ n ea y, x.kind = .old n ea → OwnsSlot s core x.crew n y → headerBad y.header = none → s.moveSide x ea (tileBytes y.header) 0 = .inr off →
      ∃ t z, exec (.dataMoveComplete core x.id) s = .next t ∧ MoveGoesOn t core x (tileBytes y.header) ∧ OwnsSlot t core x.crew n z ∧ z.header = y.header
        ∧ ∀ i, z.data.read i = if x.pos ≤ i ∧ i < x.pos + 4096 ∧ i < tileBytes y.header then seenByte s x.crew.block (off + i) else y.data.read i)
    ∧ (∀ n ty ea y, x.kind = .ald n ty ea → OwnsAcc s core x.crew n y → s.moveSide x ea (8192 * elemSize ty) 0 = .inr off →
      ∃ t z, exec (.dataMoveComplete core x.id) s = .next t ∧ MoveGoesOn t core x (8192 * elemSize ty) ∧ OwnsAcc t core x.crew n z
        ∧ ∀ i < 8192, z.elem i = if x.pos ≤ elemSize ty * i ∧ elemSize ty * i < x.pos + 4096 then
            widen ty (seenNat s x.crew.block (off + elemSize ty * i) (elemSize ty)) else y.elem i)
    ∧ (∀ n ty ea y, x.kind = .ast n ty ea → OwnsAcc s core x.crew n y → s.moveSide x ea (8192 * elemSize ty) 1 = .inr off →
      ∃ t, exec (.dataMoveComplete core x.id) s = .next t ∧ MoveGoesOn t core x (8192 * elemSize ty) ∧ OwnsAcc t core x.crew n y
        ∧ ∀ b i, padByte t b i =
            if b = x.crew.block ∧ off + x.pos ≤ i ∧ i < off + x.pos + 4096 ∧ i < off + 8192 * elemSize ty then
              BitVec.ofNat 8 (narrow ty (y.elem ((i - off) / elemSize ty)) / 256 ^ ((i - off) % elemSize ty)) else padByte s b i)

/-- R201 to R203: headers, tiles and accumulators. -/
def Obligations.DataMoves : Prop := RegisterMoves ∧ ScratchpadMoves

/-- R473 and R210: the matrix unit accepts a product, with every paired one, once each has its turn and its unit holds fewer than 16. -/
def Sys2Proof.Claims.ProductAccepted : Prop :=
  ∀ (core d a b : Nat) (sparse gang : Bool) (seq : Word) (s : State) (x : MatOp) (ms : List (Nat × MatOp)), s.findOp core x.id = some x →
    x.kind = .mma sparse gang d a b seq → x.accepted = false → s.engineRuns x.crew.block = true → ms = (if gang then s.gangOps x else [(core, x)]) →
    (gang = true → ms.length = s.gangSize x.crew.g) → (∀ m ∈ ms, s.orderAhead m.1 m.2 = false ∧ s.opHolders m.1 m.2 = []) →
    ∃ t, exec (.productAccept core x.id) s = .next t
      ∧ ((∀ m ∈ ms, ((s.core m.1).ops.filter (fun y => y.accepted)).length < 16) → ∀ m ∈ ms, ∀ y ∈ (t.core m.1).ops, y.id = m.2.id → y.accepted = true)
      ∧ ((∃ m ∈ ms, 16 ≤ ((s.core m.1).ops.filter (fun y => y.accepted)).length) → (t.core core).ops.map (fun y => y.accepted) = (s.core core).ops.map (fun y => y.accepted))

/-- R207 and R209: an accepted product adds A·B, under the headers of its sources, into the accumulator of each paired crew; the elements are those
of `productElem`, which IntegerProduct gives for the integer formats. -/
def Sys2Proof.Claims.ProductDone : Prop :=
  ∀ (core d a b : Nat) (sparse gang : Bool) (seq : Word) (s : State) (x : MatOp) (ms : List (Nat × MatOp)), s.findOp core x.id = some x →
    x.kind = .mma sparse gang d a b seq → x.accepted = true → ms = (if gang then s.gangOps x else [(core, x)]) → (ms.map Prod.fst).Nodup →
    (∀ m ∈ ms, s.sourceFault sparse (s.sources m.1 m.2 ms).1 (s.sources m.1 m.2 ms).2 = none) →
    (∀ m ∈ ms, ∃ dm am bm qm y, m.2.kind = .mma sparse gang dm am bm qm ∧ OwnsAcc s m.1 m.2.crew dm y) →
    ∃ t, exec (.productComplete core x.id) s = .next t ∧ ∀ m ∈ ms, ∀ dm am bm qm y, m.2.kind = .mma sparse gang dm am bm qm → OwnsAcc s m.1 m.2.crew dm y →
      ∃ z, OwnsAcc t m.1 m.2.crew dm z ∧ ∀ i < 8192, z.elem i =
        let q := s.sources m.1 m.2 ms
        let u := (s.core q.1.1).slot q.1.2.2 q.1.2.1
        let v := (s.core q.2.1).slot q.2.2.2 q.2.2.1
        productElem u.header v.header u.data v.data (i / 128) (i % 128) (y.elem i)

/-- R207 with R107 and R94: an element of a dense product of integer tiles is the accumulator plus the exact sum of the K products, modulo 2^32. -/
def Sys2Proof.Claims.IntegerProduct : Prop :=
  ∀ (ha hb : DWord) (da db : Memory) (m n : Nat) (c : Word), hdrFmt ha ∈ [1, 5] → hdrFmt hb ∈ [1, 5] → hdrSparse ha = 0 → hdrTscale ha = 127 →
    hdrTscale hb = 127 → hdrShape ha = 0 → hdrShape hb = 1 → hdrK ha = hdrK hb → m < 64 → n < 128 →
    productElem ha hb da db m n c = c + BitVec.ofInt 32
      (((List.range (hdrK ha)).map (fun k => tileInt (hdrFmt ha) da (m * hdrK ha + k) * tileInt (hdrFmt hb) db (128 * k + n))).sum)

/-- R207, R209, R210 and R473: products. -/
def Obligations.ProductCourse : Prop := ProductAccepted ∧ ProductDone ∧ IntegerProduct

/-- R233 and R234: outside replay a MOVS of a register without a read point has the value of Table 2 under way to its destination; one with a read
point has its operation under way, which holds only its own flag. -/
def Sys2Proof.Claims.SpecialRead : Prop :=
  ∀ (o : Ops) (s : State) (p : Pass) (e : Env) (la : Launch), Issues s p 0x1C8 o noFaults e → s.launchOf p.crew.g = some la → s.replays p.crew.g = false →
    recordMode (s.modesOf p.crew.g) ≠ 2 →
    ∃ t, exec (.movs o) s = .next t
      ∧ (∀ l ∈ e.lanes o, ∃ y, t.thread? l.ref = some y ∧ y.pc = nextPc e o ∧ y.regs = l.t.regs ∧ y.wait = l.t.wait)
      ∧ (∀ l n v, Executes e o l → (n, v) ∈ sregRules s la e l → o.vs1.num.toNat = n →
          let ws := resultWords o.vd (if n ∈ wideSregs then 2 else 1) v
          (o.vd.crew = false → t.pendIs l o ws []) ∧ (o.vd.crew = true → ((e.lanes o).filter (fun x => x.exec)).getLast? = some l → t.pendIs l o [] ws))
      ∧ (∀ l, Executes e o l → o.vs1.num.toNat ∈ [0x16, 0x17, 0x18, 0x1A, 0x1B] →
          ∃ y q, t.thread? l.ref = some y ∧ q ∈ y.pend ∧ q.sreg = some (o.vs1.num.toNat, o.vd) ∧ q.flag = o.flag ∧ q.access = false ∧ q.seq = l.t.issued)

/-- R233 and R234: at its read point a MOVS writes the clocks, `$syncscope` or the resources that the crew owns to its destination, a register of the thread or of the
crew; before it the MOVS goes on waiting. -/
def Sys2Proof.Claims.SpecialReadPoint : Prop :=
  ∀ (r : TRef) (id n : Nat) (d : Reg) (s : State) (x : Thread) (p : Pend) (la : Launch), s.thread? r = some x → x.pend.find? (fun q => q.id == id) = some p →
    p.sreg = some (n, d) → LateForm x p → (d.crew = false → d.num.toNat < x.regs.length) → s.launchOf r.g = some la → recordMode (s.modesOf r.g) ≠ 2 → s.stands r.g = true →
    let lands := fun (t : State) (y : Thread) (v : Word) => LateWritten s t r x y p (if d.crew then [] else [(d.num, v)]) (if d.crew then [(d.num, v)] else [])
    (∀ (v : Nat), (n, v) ∈ [(0x16, x.o.toNat), (0x17, x.s.toNat), (0x18, x.syncscope.toNat)] →
      (readPoint x p n → ∃ t y, exec (.resultWritten r id) s = .next t ∧ t.thread? r = some y ∧ lands t y (w32 v))
      ∧ (¬readPoint x p n → ∃ t, exec (.resultWritten r id) s = .next t ∧ t.thread? r = some x))
    ∧ (∀ (owned : List Nat), (n, owned) ∈ [(0x1A, ((s.core (s.coreOf r.block)).slots.filter (fun y => y.owner == r.crew)).map (fun y => y.num)),
        (0x1B, ((s.core (s.coreOf r.block)).accs.filter (fun y => y.owner == r.crew)).map (fun y => y.num))] → owned.Nodup →
      ((∀ y ∈ (s.core (s.coreOf r.block)).ops, y.crew = r.crew → y.id < p.id → y.isClaim = false ∧ y.isRelease = false) →
        ∃ t y v, exec (.resultWritten r id) s = .next t ∧ t.thread? r = some y ∧ lands t y v ∧ ∀ i < 32, v.getLsbD i = decide (i ∈ owned))
      ∧ ((∃ y ∈ (s.core (s.coreOf r.block)).ops, y.crew = r.crew ∧ y.id < p.id ∧ (y.isClaim = true ∨ y.isRelease = true)) →
        ∃ t, exec (.resultWritten r id) s = .next t ∧ t.thread? r = some x))

/-- R233 and R234: MOVS, at once and at a read point. -/
def Obligations.SpecialReads : Prop := SpecialRead ∧ SpecialReadPoint

/-- R58, R60, R235 and R398: MOVSW writes the special register that it names, a clear of STICKY behind every earlier acquire of its thread; one that is not
writable takes ROWRITE instead. -/
def Sys2Proof.Claims.SpecialWrite : Prop :=
  (∀ (o : Ops) (s : State) (p : Pass) (e : Env), Issues s p 0x1C9 o (movswFaults o) e →
    ∃ t, exec (.movsw o) s = .next t ∧ SameMemory s t ∧ SamePackage s t
      ∧ ∀ l, Executes e o l → ∃ y, t.thread? l.ref = some y ∧ y.pc = nextPc e o ∧ y.regs = l.t.regs ∧ y.handler = l.t.handler
        ∧ ((∀ q ∈ l.t.pend, q.access = true → q.acquire = false) →
            y.syncscope = (if o.vd.num = 0x18 ∧ l.src.a % 2 = 1 then l.t.syncscope &&& ~~~1#32 else l.t.syncscope))
        ∧ (o.vd.num = 0x18 → l.src.a % 2 = 1 → (∃ q ∈ l.t.pend, q.access = true ∧ q.acquire = true) →
            y.syncscope = l.t.syncscope ∧ ∃ q ∈ y.pend, q.seq = l.t.issued ∧ q.sreg.map Prod.fst = some 0x80)
        ∧ y.trapvec = (if o.vd.num = 0x1E then pairPc l.src.a else l.t.trapvec)
        ∧ y.trapcause = (if o.vd.num = 0x1F then BitVec.ofNat 32 l.src.a &&& ~~~0x3000#32 else l.t.trapcause)
        ∧ y.trapaddr = (if o.vd.num = 0x20 then BitVec.ofNat 64 l.src.a else l.t.trapaddr)
        ∧ y.trappc = (if o.vd.num = 0x21 then BitVec.ofNat 64 l.src.a else l.t.trappc))
  ∧ (∀ (o : Ops) (s : State) (p : Pass) (e : Env), Issues s p 0x1C9 o noFaults e → o.vd.num.toNat ∉ [0x18, 0x1E, 0x1F, 0x20, 0x21] →
    s.replays p.crew.g = false → (∀ l, Executes e o l → TakesTrap l.t ∧ l.t.faults = []) →
    ∃ t, exec (.movsw o) s = .next t ∧ ∀ l, Executes e o l → ∃ y, t.thread? l.ref = some y
      ∧ Trapped l.t y (BitVec.ofNat 32 (1 * 2 ^ 8 + 5 + o.vd.num.toNat * 2 ^ 16)) 0 p.pc ∧ y.syncscope = l.t.syncscope)

/-- R236 and R239: YIELD makes its threads yielded, `.req` only under a pending request; TMARK changes no thread, and under trace adds one MARK packet. -/
def Sys2Proof.Claims.YieldAndMark : Prop :=
  (∀ (o : Ops) (s : State) (p : Pass) (e : Env), Issues s p 0x1CA o noFaults e →
    ∃ t, exec (.yield o) s = .next t ∧ SameMemory s t ∧ SamePackage s t ∧ ∀ l ∈ e.lanes o, ∃ y, t.thread? l.ref = some y ∧ y.pc = nextPc e o ∧ SameThread [] l.t y
      ∧ (l.exec = true → (modBit o 13 = true → ∃ g d, s.group? p.crew.g = some g ∧ g.st = .requested ∧ g.deadline = some d) → y.yielded = some s.cycle)
      ∧ (l.exec = false ∨ (modBit o 13 = true ∧ ∀ g, s.group? p.crew.g = some g → g.st ≠ .requested ∨ g.deadline = none) → y.yielded = l.t.yielded))
  ∧ (∀ (o : Ops) (s : State) (p : Pass) (e : Env), Issues s p 0x1CB o noFaults e →
    ∃ t, exec (.tmark o) s = .next t ∧ SameMemory s t ∧ SamePackage s t
      ∧ (∀ l ∈ e.lanes o, ∃ y, t.thread? l.ref = some y ∧ y.pc = nextPc e o ∧ SameThread [] l.t y ∧ y.yielded = l.t.yielded)
      ∧ (traceOn e.modes = false → ∀ x, s.crew? p.crew = some x → ∃ y, t.crew? p.crew = some y ∧ y.trace = x.trace)
      ∧ (traceOn e.modes = true → sampleOn e.modes = false → (∀ q, (((s.core e.core).quarters[q]?).getD (Quarter.reset e.core q)).tagged = []) →
          ∀ l ls, (e.lanes o).filter (fun x => x.exec) = l :: ls → e.crew.trace.started = true → e.crew.trace.packets < 256 → e.crew.trace.loss = 0 →
          s.now - e.crew.trace.syncTime < 72000 → s.cycle - e.crew.trace.lastCycle < 2 ^ 24 → (s.sect (coreSection e.core)).buffer.length + s.openFrames (coreSection e.core) p.crew < 8000 →
          ∃ y, t.crew? p.crew = some y ∧ y.trace.packets = e.crew.trace.packets + 1 ∧ y.trace.lastCycle = s.cycle ∧ y.trace.lastPc = e.crew.trace.lastPc
            ∧ fillFrames (identity s.chip (coreSection e.core) (e.core % 96) e.crew.slot 0) e.crew.trace.open_
                (passPacket 3 p.lanes (s.cycle - e.crew.trace.lastCycle) 0 [] (leBytes 4 (l.src.a % 2 ^ 32)))
              = ((t.sect (coreSection e.core)).buffer.drop (s.sect (coreSection e.core)).buffer.length, y.trace.open_)))

/-- R235, R236, R239 and R398: MOVSW, YIELD and TMARK. -/
def Obligations.SystemEffects : Prop := SpecialWrite ∧ YieldAndMark

/-- R240: with breakpoints disabled BKPT is a NOP; with them enabled for the context the pass stops with its PCs, its block latches a stop, and
a thread that stands at a BKPT where it stopped passes over it once. -/
def Sys2Proof.Claims.BreakpointStops : Prop :=
  ∀ (o : Ops) (s : State) (p : Pass) (e : Env), Issues s p 0x1CD o noFaults e →
    (s.dbg.bpen = false ∨ s.asidOf p.crew.g ≠ s.dbg.asid ∨ (∀ l, Executes e o l → l.t.passBkpt = some p.pc) →
      ∃ t, exec (.bkpt o) s = .next t ∧ SameMemory s t ∧ SamePackage s t
        ∧ ∀ l ∈ e.lanes o, ∃ y, t.thread? l.ref = some y ∧ y.pc = nextPc e o ∧ SameThread [] l.t y ∧ y.passBkpt = none)
    ∧ (s.dbg.bpen = true → s.asidOf p.crew.g = s.dbg.asid → (∀ l ∈ e.lanes o, l.exec = true ∧ l.t.passBkpt ≠ some p.pc ∧ l.t.pc = p.pc) → e.lanes o ≠ [] →
      (∀ l ∈ e.lanes o, l.t.wait = .none) → (s.groups.map (fun g => g.gid)).Nodup → (s.launchOf p.crew.g).isSome = true →
      ∃ t, exec (.bkpt o) s = .next t ∧ (∃ n, t.dbg.trigger = some n ∨ t.dbg.halted = true)
        ∧ (∀ l ∈ e.lanes o, ∃ y, t.thread? l.ref = some y ∧ y.pc = p.pc ∧ y.regs = l.t.regs ∧ y.passBkpt = some p.pc)
        ∧ ∀ b, s.block? p.crew.block = some b → b.ended = false → b.stop = .run → ∃ c r, t.block? p.crew.block = some c ∧ c.stop = .latched r
            ∧ r[0]? = some 1 ∧ r[1]? = some (BitVec.ofNat 8 o.vd.num.toNat))

/-- R342, R343, R344, R346 and R387: the trigger latches the running blocks of the debugged context, each with the record of its stop; a block that stands
still writes it at STOPPUT and is halted; RESUME lets the halted blocks go on. -/
def Sys2Proof.Claims.DebugStops : Prop :=
  (∀ (core c : Nat) (s : State) (b : BRef) (x : Block), s.dbg.trigger = some c → (b, x) ∈ s.allBlocks → s.block? b = some x → s.asidOf b.g = s.dbg.asid → x.core = core →
    x.ended = false → x.stop = .run → (∀ g, s.group? b.g = some g → g.st ≠ .saved) → (s.launchOf b.g).isSome = true → (s.groups.map (fun g => g.gid)).Nodup →
    ∃ t y r, exec (.debugTrigger core) s = .next t ∧ t.block? b = some y ∧ y.stop = .latched r ∧ r[0]? = some (BitVec.ofNat 8 c))
  ∧ (∀ (s : State) (b : BRef) (x : Block) (r : List Byte) (l : LineId), s.block? b = some x → x.stop = .latched r → (s.groups.map (fun g => g.gid)).Nodup →
    (s.stands b.g = true → s.blockStill b x = false → ∃ t, exec (.stopRecordWrite b) s = .next t ∧ t.block? b = some x ∧ t.mem = s.mem)
    ∧ ((s.stands b.g = true → s.blockStill b x = true) → ∃ t y, exec (.stopRecordWrite b) s = .next t ∧ t.block? b = some y ∧ y.stop = .halted ∧ y.crews = x.crews
      ∧ (r.length = 128 → s.dbg.stopsize ≠ 0 → lineOf (s.dbg.stopbase.toNat + 128 * (s.dbg.stopput.toNat % s.dbg.stopsize.toNat)) = some (l, 0) →
          LineStored s t l r ∧ t.dbg.stopput = s.dbg.stopput + 1)))
  ∧ (∀ (s : State) (v : DWord), BarOpen s → v.getLsbD 2 = false → s.dbg.halted = false →
    ∃ t, exec (.dbgctlStop v) s = .next t ∧ t.dbg.bpen = v.getLsbD 0 ∧ t.dbg.wpen = v.extractLsb' 4 4 ∧ t.dbg.asid = v.extractLsb' 32 16
      ∧ (t.dbg.halted = true ∨ t.dbg.trigger = some (s.dbg.trigger.getD 3)))
  ∧ (∀ (s : State) (v : DWord) (b : BRef) (x : Block), BarOpen s → v.getLsbD 1 = false → s.dbg.halted = true → (s.asid s.dbg.asid).halt = false → (b, x) ∈ s.allBlocks →
    s.block? b = some x → s.asidOf b.g = s.dbg.asid → x.ended = false → x.stop = .halted → (s.groups.map (fun g => g.gid)).Nodup →
    ∃ t y, exec (.dbgctlResume v) s = .next t ∧ t.dbg.halted = false ∧ t.block? b = some y ∧ y.stop = .run)
  ∧ (∀ (s : State) (v : DWord), BarOpen s → ∃ t, exec (.stopbaseWrite v) s = .next t ∧ t.dbg.stopbase = v ∧ t.dbg.stopput = 0 ∧ t.dbg.asid = s.dbg.asid ∧ SameMemory s t)

/-- R295, R347 and R348: the debugger swaps a halted group out, through Stopping, and gives it back, and reads and sets the items of a halted block. -/
def Sys2Proof.Claims.DebugWindow : Prop :=
  (∀ (s : State) (b : BRef) (x : Block) (g : Group), BarOpen s → s.dbg.halted = true → s.dbgBlock = some (b, x) → s.group? b.g = some g →
    (g.st = .resident ∨ g.st = .requested) → (s.groups.map (fun y => y.gid)).Nodup →
    ∃ t y, exec .dbgswapSwapOut s = .next t ∧ t.group? b.g = some y ∧ y.swapped = true ∧ y.st = .stopping)
  ∧ (∀ (s : State) (b : BRef) (x : Block) (g : Group) (l : Launch), BarOpen s → s.dbgBlock = some (b, x) → s.group? b.g = some g → s.launchOf b.g = some l → g.swapped = true →
    g.st = .saved → (s.groups.map (fun y => y.gid)).Nodup →
    ∃ t y, exec .dbgswapRelease s = .next t ∧ t.group? b.g = some y ∧ y.swapped = false ∧ t.waiting[l.p.prio]? = (s.waiting[l.p.prio]?).map (fun w => w ++ [.saved b.g]))
  ∧ (∀ (s : State) (b : BRef) (x : Block) (kind c t ix : Nat), Window s b x kind c t ix → s.linkUp = true → ∀ v, windowItem s b kind c t ix = some v →
    ∃ u, exec .dbgdataRead s = .next u ∧ u.hostOut = s.hostOut ++ [.register v] ∧ SameMemory s u ∧ u.groups = s.groups)
  ∧ (∀ (s : State) (b : BRef) (x : Block) (kind c t ix : Nat) (v : DWord), Window s b x kind c t ix → BarOpen s → recordMode (s.modesOf b.g) = 0 →
    (s.groups.map (fun y => y.gid)).Nodup →
    ∃ u, exec (.dbgdataWrite v) s = .next u
      ∧ (∀ th, kind = 0 → s.thread? ((b.crew c).thread t) = some th → ix < th.regs.length → u.regIs ((b.crew c).thread t) (BitVec.ofNat 7 ix) (v.extractLsb' 0 32) ∨ 128 ≤ ix)
      ∧ (∀ cr, kind = 1 → s.crew? (b.crew c) = some cr → ∃ y, u.crew? (b.crew c) = some y ∧ y.kregs = cr.kregs.set ix (v.extractLsb' 0 32))
      ∧ (∀ th, kind = 2 → s.thread? ((b.crew c).thread t) = some th → ∃ y, u.thread? ((b.crew c).thread t) = some y ∧ y.pc = pairPc v.toNat ∧ y.regs = th.regs)
      ∧ (kind = 4 → 8 * ix + 8 ≤ s.padBytes b.g → ∀ b' i, padByte u b' i = if b' = b ∧ 8 * ix ≤ i ∧ i < 8 * ix + 8 then BitVec.ofNat 8 (v.toNat / 256 ^ (i - 8 * ix)) else padByte s b' i))

/-- R240, R342 to R344, R346 to R348 and R387: breakpoints, stops and the debug window. -/
def Obligations.DebugWorks : Prop := BreakpointStops ∧ DebugStops ∧ DebugWindow

/-- R243: CCTL in threads without an earlier access under way. Each goes on with its flag raised; `.wb` and `.inv` send the core's copy of the line of the
address to its home, `.wball` and `.invall` every copy, and `.inv` and `.invall` drop them; an update-only line is converted (R254), and no other core's L1
changes but where it holds partials. -/
def Sys2Proof.Claims.CacheLines : Prop :=
  ∀ (o : Ops) (s : State) (p : Pass) (e : Env), Issues s p 0x1CE o noFaults e → s.stands p.crew.g = true →
    (∀ l, Executes e o l → ∀ q ∈ l.t.pend, q.todo = none) →
    ∃ t, exec (.cctl o) s = .next t
      ∧ (∀ l ∈ e.lanes o, ∃ y, t.thread? l.ref = some y ∧ y.pc = nextPc e o ∧ SameThread [] l.t y
        ∧ ∀ i : Fin 12, y.flag i = if l.exec = true ∧ o.flag = some i ∧ i.val < l.t.flags.length then l.t.flag i + 1 else l.t.flag i)
      ∧ ((∀ h ∈ s.l3, h.holders = []) → ∀ n, n ≠ e.core → (t.core n).l1 = (s.core n).l1)
      ∧ ((∀ l, ¬Executes e o l) → SameMemory s t)
      ∧ ((∃ l, Executes e o l) → modBits o 16 14 = 3 → (t.core e.core).l1 = [])
      ∧ ((∃ l, Executes e o l) → modBits o 16 14 = 2 → ((s.core e.core).l1.map (fun x => x.line)).Nodup →
          (∀ x ∈ (s.core e.core).l1, x.st = .updateOnly → x.part.isSome = true ∧ e.core ∈ (s.homeLine x.line).holders) → ∀ x ∈ (t.core e.core).l1, x.st = .shared)
      ∧ (∀ l va pa u id off x, modBits o 16 14 ≤ 1 → (e.lanes o).filter (fun k => k.exec) = [l] →
          s.resolve (s.asker l.ref) (BitVec.ofNat 64 l.src.a) = .inr (.global, .va none va) →
          s.translate (some e.core) (s.asidOf p.crew.g) va 0 = .inr (pa, u) → lineOf pa = some (id, off) → s.l1Line e.core id = some x →
          (modBits o 16 14 = 1 → t.l1Line e.core id = none) ∧ (modBits o 16 14 = 0 → x.st = .dirty → ∃ y, t.l1Line e.core id = some y ∧ y.st = .shared ∧ y.data = x.data)
          ∧ (x.st = .dirty → x.data.length = 128 → s.marked id = false → (s.homeLine id).uo = none → (s.homeLine id).holders = [] → s.racingAsids = [] →
              ∀ i < 128, t.mem.read (id.key + i) = if x.mask.getLsbD i then (x.data[i]?).getD 0 else s.mem.read (id.key + i)))

/-- R244: INVI empties the core's instruction cache of its range, all of it where vs2 is zero; each thread that executes it waits, its flag raised, until
the invalidation is complete. -/
def Sys2Proof.Claims.InstructionLines : Prop :=
  ∀ (o : Ops) (s : State) (p : Pass) (e : Env), Issues s p 0x1CF o noFaults e →
    ∃ t, exec (.invi o) s = .next t ∧ SameMemory s t ∧ SamePackage s t
      ∧ (∀ l, Executes e o l → ∃ y q, t.thread? l.ref = some y ∧ y.pc = nextPc e o ∧ y.regs = l.t.regs ∧ y.o = l.t.o ∧ y.s = l.t.s ∧ q ∈ y.pend
        ∧ y.wait = .inval q.id ∧ q.flag = o.flag ∧ q.writes = [] ∧ q.todo = none
        ∧ ∀ i : Fin 12, y.flag i = if o.flag = some i ∧ i.val < l.t.flags.length then l.t.flag i + 1 else l.t.flag i)
      ∧ (∀ l ∈ e.lanes o, l.exec = false → ∃ y, t.thread? l.ref = some y ∧ y.pc = nextPc e o ∧ SameThread [] l.t y)
      ∧ ∀ b, b ∈ (t.core e.core).icache ↔ b ∈ (s.core e.core).icache ∧ ∀ l, Executes e o l → l.src.b % 2 ^ 32 ≠ 0
          ∧ (b.asid = s.asidOf p.crew.g → b.va.toNat + 32 ≤ l.src.a % 2 ^ 64 ∨ l.src.a % 2 ^ 64 + l.src.b % 2 ^ 32 ≤ b.va.toNat)

/-- R243 and R244: CCTL and INVI. -/
def Obligations.CacheControl : Prop := CacheLines ∧ InstructionLines

/-- R29, R33, R236 and R287: the events beside the choice. A meet target and a yield end after 2,048 cycles, and not before; a score halves, and again 1,024
cycles later while it is then not zero; a fetch that succeeds puts the block of the PC into the instruction cache. -/
def Sys2Proof.Claims.IssueEvents : Prop :=
  (∀ (r : TRef) (s : State) (x : Thread), s.thread? r = some x →
    (∀ m, x.meetAt = some m → x.meet = some x.pc → m + 2048 ≤ s.cycle →
      ∃ t, exec (.meetTargetExpiry r) s = .next t ∧ t.thread? r = some { x with meet := none, meetAt := none } ∧ SameMemory s t ∧ SamePackage s t)
    ∧ (∀ m, x.meetAt = some m → s.cycle < m + 2048 ∨ x.meet ≠ some x.pc →
      ∃ t, exec (.meetTargetExpiry r) s = .next t ∧ t.thread? r = some x ∧ SameMemory s t ∧ SamePackage s t)
    ∧ (∀ c, x.yielded = some c → c + 2048 ≤ s.cycle →
      ∃ t, exec (.yieldExpiry r) s = .next t ∧ t.thread? r = some { x with yielded := none } ∧ SameMemory s t ∧ SamePackage s t)
    ∧ (∀ c, x.yielded = some c → s.cycle < c + 2048 →
      ∃ t, exec (.yieldExpiry r) s = .next t ∧ t.thread? r = some x ∧ SameMemory s t ∧ SamePackage s t)
    ∧ (∀ bs u, s.engineRuns r.block = true → x.exited = false → s.fetch (s.coreOf r.block) (s.asidOf r.g) x.pc = .inr (bs, u) →
        ∃ t, exec (.instructionFetchComplete r) s = .next t ∧ SameMemory s t ∧ t.groups = s.groups
          ∧ t.fetchBytes (s.coreOf r.block) (s.asidOf r.g) x.pc = some bs))
  ∧ (∀ (core q : Nat) (s : State) (z : Quarter), (s.core core).quarters[q]? = some z →
    ∃ t, exec (.throttleScoreHalve core q) s = .next t ∧ t.groups = s.groups ∧ SameMemory s t ∧ (t.core core).quarters[q]? = some { z with score := z.score / 2 }
      ∧ t.agenda = if z.score < 2 then s.agenda else insertTurn (10 * (s.cycle + 1024) - s.now) (.event (.throttleScoreHalve core q)) s.agenda)

/-- R29 to R32 and R285 to R287: the pass that a quarter issues is of one of its own crews: threads of one PC, in ascending order, at most 32 of
them or all 128, each ready, whose skip counts become zero; the crew chosen has the highest priority of those that can issue. -/
def Sys2Proof.Claims.PassFormed : Prop :=
  (∀ (core q : Nat) (deferred : Bool) (s : State), s.focus = .none → (s.groups.map (fun g => g.gid)).Nodup →
    ∃ t, exec (.quarterIssue core q deferred) s = .next t ∧ (t.focus = .none ∨ ∃ p, t.focus = .pass p ∧ p.defer = deferred ∧ p.lanes ≠ [] ∧ p.lanes.Pairwise (fun a b => a < b)
      ∧ (p.lanes.length ≤ 32 ∨ p.collective = true) ∧ (∃ c, t.crew? p.crew = some c ∧ c.slot / 16 = q ∧ c.released = false ∧ c.wait = 0)
      ∧ ∀ n ∈ p.lanes, ∃ x, t.thread? (p.crew.thread n) = some x ∧ x.pc = p.pc ∧ x.exited = false ∧ x.readyAt ≤ s.cycle ∧ x.wait = .none ∧ x.yielded = none ∧ x.skip = 0))
  ∧ (∀ (core q : Nat) (deferred : Bool) (s : State) (y : Turner), chooseCrew (s.turners core q (s.quarterCrews core q)) = some y →
    (((s.core core).quarters[q]?).getD (Quarter.reset core q)).freeAt ≤ s.cycle → s.dbg.wpen = 0 →
    (∀ x ∈ s.quarterCrews core q, s.replays x.2.2.1.g = false ∧ (∀ th ∈ x.2.2.2.threads, th.meet = none ∧ th.meetAt = none)
      ∧ (∀ w ∈ s.seenPcs x.2.2.1 x.2.2.2, w.2 ≠ AtPc.missing) ∧ converge s.cycle s.fresh (s.seen x.2.2.1 x.2.2.2) = none) →
    ∃ t, exec (.quarterIssue core q deferred) s = .next t
      ∧ t.focus = .pass { crew := y.f.crew, lanes := y.f.lanes, pc := y.f.pc, num := s.serial, defer := deferred, collective := y.f.collective })
  ∧ (∀ (ts : List Turner), (chooseCrew ts = none ↔ ∀ x ∈ ts, x.blocked = true ∨ x.noToken = true)
    ∧ ∀ y, chooseCrew ts = some y → y ∈ ts ∧ y.blocked = false ∧ y.noToken = false ∧ ∀ x ∈ ts, x.blocked = false → x.noToken = false → x.prio ≤ y.prio
      ∧ (x.prio = y.prio → 4 ≤ x.wait → 4 ≤ y.wait ∧ x.wait ≤ y.wait))
  ∧ (∀ (cs : List Cand), (∀ c ∈ cs, c.form = none ∧ c.seen.t.handler = false ∧ c.seen.t.skip < 1024) → ∀ k, chooseGroup cs = some k →
    ∀ j, let held := fun (pc : DWord) => (cs.filter (fun c => c.seen.t.pc == pc)).length
      held j < held k.pc ∨ (held j = held k.pc ∧ (held j = 0 ∨ k.pc.toNat ≤ j.toNat)))

/-- R29 to R33, R236 and R285 to R287: the choice of a pass and the events beside it. -/
def Obligations.IssueChoice : Prop := IssueEvents ∧ PassFormed

/-- R242: an ENQ whose packet fits reserves its words, with a PAD where the ring wraps, copies the image and waits to publish. One that does not fit
reserves nothing: under `.nb` it returns all ones, else it waits for READ. The pass has one thread that executes it. -/
def Sys2Proof.Claims.PacketPosted : Prop :=
  ∀ (o : Ops) (s : State) (p : Pass) (e : Env) (l : Lane) (hk off n : Nat) (h : Handle), Issues s p 0x1CC o noFaults e →
    (e.lanes o).filter (fun x => x.exec) = [l] → l.t.pend = [] → l.t.trapDue = false →
    Posting s l.ref (BitVec.ofNat 64 l.src.a) (BitVec.ofNat 64 l.src.b) hk off n h →
    ∃ t y q, exec (.enq o) s = .next t ∧ t.thread? l.ref = some y ∧ y.pc = nextPc e o ∧ y.regs = l.t.regs ∧ q ∈ y.pend ∧ q.flag = o.flag
      ∧ (∀ i : Fin 12, y.flag i = if o.flag = some i ∧ i.val < l.t.flags.length then l.t.flag i + 1 else l.t.flag i)
      ∧ (∀ ik pk, PostRoom s l.ref hk ik pk n h → Posted s t l.ref p.pc (BitVec.ofNat 64 l.src.a) hk ik pk off n h o.vd.num q.id)
      ∧ (h.size < resvOf s hk + padOf h (resvOf s hk) n + n - h.read.toNat → resvOf t hk = resvOf s hk
        ∧ (if modBit o 13 then y.wait = .none ∧ q.writes = resultWords o.vd 2 (2 ^ 64 - 1)
          else y.wait = .enqRoom p.pc (BitVec.ofNat 64 l.src.a) (BitVec.ofNat 64 l.src.b) o.vd.num h.read q.id (l.t.regionPc, l.t.regionCount, l.t.regionNew)))

/-- R242: an ENQ that waits for room reserves once READ has changed, and one that has reserved publishes once WRITE has come to its reservation: WRITE
moves past it and the result pair is under way. Until then each waits. -/
def Sys2Proof.Claims.PacketPublished : Prop :=
  ∀ (r : TRef) (s : State) (x : Thread) (pc ea : DWord) (d : BitVec 7) (q : Pend), s.thread? r = some x → x.pend = [q] → q.todo = none → x.trapDue = false →
    (∀ start next v h, x.wait = .enqPub pc ea start next v d q.id → s.peekHandle (s.asidOf r.g) ea = some h →
      (h.write ≠ start → ∃ t, exec (.enqPublish r) s = .next t ∧ t.thread? r = some x ∧ SameMemory s t)
      ∧ (∀ wk, h.write = start → (s.core (s.coreOf r.block)).l1 = [] → raceMode (s.modesOf r.g) = 0 → recordMode (s.modesOf r.g) = 0 →
        GlobalBytes s r (ea + 16) 8 8 1 wk →
        ∃ t y z, exec (.enqPublish r) s = .next t ∧ t.thread? r = some y ∧ y.wait = .none ∧ y.regs = x.regs ∧ leNat (t.mem.readN wk 8) = next.toNat
          ∧ z ∈ y.pend ∧ z.id = q.id ∧ z.flag = q.flag ∧ z.writes = resultWords ⟨false, d⟩ 2 v.toNat))
    ∧ (∀ packet seen h region, x.wait = .enqRoom pc ea packet d seen q.id region → s.peekHandle (s.asidOf r.g) ea = some h →
      (h.read = seen → ∃ t, exec (.enqRetry r) s = .next t ∧ t.thread? r = some x ∧ SameMemory s t)
      ∧ (∀ hk ik pk off n, h.read ≠ seen → Posting s r ea packet hk off n h → PostRoom s r hk ik pk n h →
        ∃ t, exec (.enqRetry r) s = .next t ∧ Posted s t r pc ea hk ik pk off n h d q.id))

/-- R242: ENQ. -/
def Obligations.QueuePosts : Prop := PacketPosted ∧ PacketPublished

/-- A slice of the crew's next XCOPY leaves the block's command standing: it joins none, or one that no broken queue has flushed and with whose earlier slices its
modifiers `m` agree or whose last slice it is not (R437, R438). -/
def Sys2Proof.Claims.JoinsWell (s : State) (c : CRef) (b : Block) (k : Crew) (m : BitVec 20) : Prop :=
  ∀ d, b.cmds.find? (fun d => d.op == 0 && d.count == k.xcopies && !d.begun) = some d → d.flushed = false ∧ (∀ u ∈ b.broken, u.1 ∉ d.queues)
    ∧ ((∀ y ∈ d.slices, y.mod = m) ∨ ∃ a ∈ s.missing c.block d, a ≠ c)

/-- R214, R215, R218, R220, R221, R228 and R437: a transfer command enters the queue that it names behind what stands there; a crew's k-th XCOPY joins the
block's k-th as its slice, which fails when the last slice comes and their modifiers differ; XFENCE enters every queue it names. The queues named are not
broken. -/
def Sys2Proof.Claims.TransferIssued : Prop :=
  (∀ (f : Ops → Instr) (op : Nat), (f, op) ∈ transferOps → ∀ (o : Ops) (s : State) (p : Pass) (e : Env) (code : Nat) (l : Lane) (b : Block) (k : Crew),
    (f o).wellFormed = true → opcodeOf (f o) = some (code, o) → IssuesAll s p code o e → (e.lanes o).head? = some l → s.block? p.crew.block = some b →
    s.crew? p.crew = some k → (∀ u ∈ b.broken, u.1 ≠ modBits o 14 13) → (op = 0 → JoinsWell s p.crew b k o.mod) → (∀ c ∈ b.cmds, c.id ≠ s.serial) → (b.cmds.map (fun c => c.id)).Nodup →
    ∃ t b' x, exec (f o) s = .next t ∧ t.block? p.crew.block = some b' ∧ SliceIssued e o l op x ∧ WentOn t o e
      ∧ (recordMode (s.modesOf p.crew.g) = 0 → SameMemory s t)
      ∧ ((op = 0 → ∀ c ∈ b.cmds, c.op = 0 → c.count = k.xcopies → c.begun = true) →
          ∃ c, b'.cmds = b.cmds ++ [c] ∧ c.op = op ∧ c.queues = [modBits o 14 13] ∧ c.scope = modBits o 12 10 ∧ c.slices = [x] ∧ c.begun = false
            ∧ (op = 0 → c.count = k.xcopies))
      ∧ (op = 0 → ∀ c, b.cmds.find? (fun c => c.op == 0 && c.count == k.xcopies && !c.begun) = some c →
          b'.cmds.map (fun d => (d.id, d.slices)) = b.cmds.map (fun d => (d.id, if d.id = c.id then c.slices ++ [x] else d.slices))))
  ∧ (∀ (o : Ops) (s : State) (p : Pass) (e : Env) (b : Block), (Instr.xfence o).wellFormed = true → IssuesAll s p 0x1C5 o e → s.block? p.crew.block = some b →
    (∀ q < 4, modBit o (13 + q) = true → ∀ u ∈ b.broken, u.1 ≠ q) →
    ∃ t b' c, exec (.xfence o) s = .next t ∧ t.block? p.crew.block = some b' ∧ b'.cmds = b.cmds ++ [c] ∧ c.op = 5 ∧ c.begun = false
      ∧ (∀ q, q ∈ c.queues ↔ q < 4 ∧ modBit o (13 + q) = true) ∧ WentOn t o e ∧ SameMemory s t)
  ∧ (∀ (o : Ops) (s : State) (p : Pass) (e : Env) (l : Lane) (b : Block) (k : Crew) (c : Cmd) (q : Nat), (Instr.xcopy o).wellFormed = true → IssuesAll s p 0x1C0 o e →
    (e.lanes o).head? = some l → s.block? p.crew.block = some b → s.crew? p.crew = some k → (b.cmds.map (fun d => d.id)).Nodup →
    b.cmds.find? (fun d => d.op == 0 && d.count == k.xcopies && !d.begun) = some c → c.flushed = false → c.queues = [q] → (∀ u ∈ b.broken, u.1 ≠ q) →
    s.missing p.crew.block c = [p.crew] → (∃ y ∈ c.slices, y.mod ≠ o.mod) →
    ∃ t b', exec (.xcopy o) s = .next t ∧ t.block? p.crew.block = some b' ∧ (∀ d ∈ b'.cmds, d.id ≠ c.id) ∧ ∃ u ∈ b'.broken, u.1 = q)

/-- R218, R221, R228 and R437: a command begins at the head of its queues and not before; an XCOPY waits for a slice of every crew that has not
exited, and fails where their modifiers differ, which breaks its queue; an XLOOP waits for those issued before it to its ring. -/
def Sys2Proof.Claims.TransferBegins : Prop :=
  ∀ (b : BRef) (s : State) (x : Block) (l : Launch) (c : Cmd) (q : Nat), s.block? b = some x → s.launchOf b.g = some l → c ∈ x.cmds → c.begun = false →
    s.engineRuns b = true → (x.cmds.map (fun d => d.id)).Nodup → q ∈ c.queues →
    ∃ t x', exec (.transferCommandBegin b q) s = .next t ∧ t.block? b = some x'
      ∧ ((∀ k ∈ c.queues, AtHead x.cmds k c) → c.op = 5 → ∃ d ∈ x'.cmds, d.id = c.id ∧ d.begun = true)
      ∧ ((∀ k ∈ c.queues, AtHead x.cmds k c) → c.op ∈ [0, 1, 2, 3, 4] → c.slices ≠ [] → (∀ y ∈ c.slices, s.sliceBad b l.p c.op y = none ∧ s.claimAhead b y = false) →
          loopBusy x.cmds c = false →
          (c.op = 0 → s.missing b c = [] ∧ ∀ y ∈ c.slices, ∀ z ∈ c.slices, y.mod = z.mod) → ∃ d ∈ x'.cmds, d.id = c.id ∧ d.begun = true)
      ∧ ((∃ d ∈ x.cmds, d.live = true ∧ d.order < c.order ∧ ∃ k ∈ c.queues, k ∈ d.queues) → ∀ d ∈ x'.cmds, d.id = c.id → d.begun = false)
      ∧ (c.op = 0 → s.missing b c ≠ [] → (∀ k ∈ c.queues, AtHead x.cmds k c) → x'.cmds = x.cmds)
      ∧ ((∀ k ∈ c.queues, AtHead x.cmds k c) → c.op = 0 → s.missing b c = [] → (∀ y ∈ c.slices, s.claimAhead b y = false) → c.queues = [q] →
          (∃ y ∈ c.slices, ∃ z ∈ c.slices, y.mod ≠ z.mod) → (∀ d ∈ x'.cmds, d.id ≠ c.id)
            ∧ ((∃ y ∈ c.slices, ∃ k, s.crew? (b.crew y.crew) = some k ∧ k.gone = false) → ∃ u ∈ x'.broken, u.1 = q))

/-- R214, R215, R218, R220, R221, R228 and R437: transfer commands from issue to their begin. -/
def Obligations.TransferStarts : Prop := TransferIssued ∧ TransferBegins

/-- R216, R219, R224 and R229: the chunks of XCOPY and of an XLOOP iteration move their box elements; what an iteration writes waits until its stage
has been released. -/
def Obligations.TransferMoves : Prop :=
  (∀ (b : BRef) (k off : Nat) (s : State) (c : Cmd) (x : Slice), ChunkReady s b c k x → c.op = 0 → x.mod.getLsbD 18 = false → x.off = some off →
    s.engineHolders (s.coreOf b) b none off (off + x.localBytes 0) true x.order c.id = [] →
    (∀ i ea, i < x.count 0 → boxAddress 0 c.iter x i = some ea → ∃ pa, PlainAt s b x false ea pa) →
    ∃ t, exec (.transferChunk b c.id k) s = .next t ∧ LoadedChunk s t b 0 c.iter off x
      ∧ ∃ d y, t.cmd? b c.id = some d ∧ d.slices[k]? = some y ∧ y.pos = x.pos + chunkSize 0 x ∧ (y.done = true ↔ x.count 0 ≤ y.pos))
  ∧ (∀ (b : BRef) (k off : Nat) (s : State) (c : Cmd) (x : Slice), ChunkReady s b c k x → c.op = 0 → x.mod.getLsbD 18 = true → x.off = some off →
    s.engineHolders (s.coreOf b) b none off (off + x.localBytes 0) false x.order c.id = [] →
    (∀ i ea, i < x.count 0 → boxAddress 0 c.iter x i = some ea → ∃ pa, PlainAt s b x true ea pa) →
    (∀ i j ea, i < x.count 0 → j < x.count 0 → boxAddress 0 c.iter x i = some ea → boxAddress 0 c.iter x j = some ea → i = j) →
    ∃ t, exec (.transferChunk b c.id k) s = .next t
      ∧ (∀ i ea pa, x.pos ≤ i → i < x.pos + chunkSize 0 x → boxAddress 0 c.iter x i = some ea → PlainAt s b x true ea pa →
          t.physNat pa x.msize = seenNat s b (off + x.msize * i) x.msize)
      ∧ ∀ b' i, padByte t b' i = padByte s b' i)
  ∧ (∀ (b : BRef) (s : State) (c : Cmd) (x : Slice) (l : Launch) (d : RingDecl) (z : Block) (r : Ring), ChunkReady s b c 0 x → c.op = 1 →
    s.launchOf b.g = some l → (l.p.rings[x.localAddr.toNat / 2 ^ 24 % 8]?).getD none = some d → s.block? b = some z →
    z.rings[x.localAddr.toNat / 2 ^ 24 % 8]? = some r →
    let rel := x.localAddr.toNat / 2 ^ 19 % 16 + c.iter
    let stage := (c.p0 + rel) % d.stages
    (d.stages ≤ (c.q0 + BitVec.ofNat 32 rel - r.rot).toNat → (c.q0 + BitVec.ofNat 32 rel - r.rot).toNat < 2 ^ 31 →
      ∃ t y, exec (.xloopIteration b c.id) s = .next t ∧ t.cmd? b c.id = some y ∧ y.iter = c.iter ∧ y.slices = c.slices ∧ (∀ b' i, padByte t b' i = padByte s b' i)
        ∧ t.mem = s.mem)
    ∧ ((c.q0 + BitVec.ofNat 32 rel - r.rot).toNat < d.stages →
      s.stageHolders (s.coreOf b) b (d.base + stage * d.stage) (d.base + (stage + 1) * d.stage) (r.rel (c.q0 + BitVec.ofNat 32 rel)) c.id c.id = [] →
      (∀ i ea, i < x.count 1 → boxAddress 1 c.iter x i = some ea → ∃ pa, PlainAt s b x false ea pa) →
      ∃ t, exec (.xloopIteration b c.id) s = .next t ∧ LoadedChunk s t b 1 c.iter (d.base + stage * d.stage + x.localAddr.toNat % 2 ^ 19) x))

/-- R219, R221, R224 and R228: a command whose slices are done completes: its counter takes one add, its crews' flags fall, it leaves its queues. An
iteration of an XLOOP is counted, and the last one completes the command. -/
def Sys2Proof.Claims.TransferCompletes : Prop :=
  (∀ (b : BRef) (s : State) (c : Cmd), s.cmd? b c.id = some c → c.begun = true → c.op ≠ 1 → (∀ x ∈ c.slices, x.done = true ∧ s.awaitsPeer b c x = false) →
    s.engineRuns b = true → s.cmdMay b c = true → recordMode (s.modesOf b.g) = 0 → raceMode (s.modesOf b.g) = 0 →
    ((c.op = 5 ∨ ∀ x, c.counterSlice = some x → x.ctr = 0) → (c.op = 4 → ∀ h ∈ s.l3, ∀ u ∈ h.staged, ∀ x ∈ c.slices, sameCmd u.1 (chunkKey s c x 0) = false) →
      ∃ t, exec (.transferCommandComplete b c.id) s = .next t ∧ t.cmd? b c.id = none ∧ (∀ x ∈ c.slices, FlagsFell s t (b.crew x.crew) c.id) ∧ SameMemory s t)
    ∧ (∀ x off, c.op ≠ 5 → c.counterSlice = some x → x.ctr ≠ 0 →
      s.locate (s.asker (s.lowThread (b.crew x.crew))) x.ctr 8 8 2 (fun ap => ap == .global || ap == .peerGlobal || ap == .own) false = .inr (.pad b off) →
      seenNat s b off 8 + 1 < 2 ^ 64 - 1 →
      ∃ t, exec (.transferCommandComplete b c.id) s = .next t ∧ t.cmd? b c.id = none ∧ (∀ y ∈ c.slices, FlagsFell s t (b.crew y.crew) c.id)
        ∧ padNat t b off 8 = seenNat s b off 8 + 1 ∧ (∀ b' i, (b' ≠ b ∨ i < off ∨ off + 8 ≤ i) → padByte t b' i = padByte s b' i)))
  ∧ (∀ (b : BRef) (s : State) (c : Cmd) (x : Slice) (l : Launch) (d : RingDecl) (z : Block) (r : Ring), s.cmd? b c.id = some c → c.slices = [x] → c.op = 1 →
    c.begun = true → x.done = true → s.engineRuns b = true → s.awaitsPeer b c x = false → s.launchOf b.g = some l →
    (l.p.rings[x.localAddr.toNat / 2 ^ 24 % 8]?).getD none = some d → s.block? b = some z → z.rings[x.localAddr.toNat / 2 ^ 24 % 8]? = some r → x.ctr = 0 →
    s.cmdMay b c = true → recordMode (s.modesOf b.g) = 0 →
    ∃ t, exec (.xloopIteration b c.id) s = .next t
      ∧ ((c.iter : Int) + 1 < boxW x 5 % 2 ^ 32 → ∃ y, t.cmd? b c.id = some y ∧ y.iter = c.iter + 1 ∧ y.slices = [{ x with pos := 0, got := [], done := false, since := none }])
      ∧ (boxW x 5 % 2 ^ 32 ≤ (c.iter : Int) + 1 → t.cmd? b c.id = none ∧ FlagsFell s t (b.crew x.crew) c.id))

/-- R227, R441 and R462: a chunk of an XRED commits once: each line's buffer takes in what was staged for it, and the chunk's key enters the commit
table. A chunk without an acknowledgement for 20 ms is sent once more; without one again the command fails with NOBACK. -/
def Sys2Proof.Claims.ReductionCommits : Prop :=
  (∀ (b : BRef) (s : State) (c : Cmd) (x : Slice), s.cmd? b c.id = some c → c.slices = [x] → c.op = 4 → x.done = false → s.engineRuns b = true →
    s.isPeer b c x = false → recordMode (s.modesOf b.g) = 0 → raceMode (s.modesOf b.g) = 0 → (s.l3.map (fun h => h.line)).Nodup →
    (∀ p ∈ s.peerChunks, p.b = b → p.cmd = c.id → p.chunk ≠ x.pos / x.chunkElems) →
    let key : ChunkKey := { chip := s.chip, core := x.at_.1, slot := x.at_.2, count := c.count, chunk := x.pos / x.chunkElems, cmd := c.id }
    (∀ h ∈ s.l3, h.line.hub < 6 ∧ (h.staged.any (fun t => t.1 == key) = true → h.bad = none ∧ h.holders = [] ∧ s.marked h.line = false
      ∧ h.spilled = false ∧ (h.uo.isSome = true ∨ s.buffers h.line.hub + 2 * s.l3.length < 8192) ∧ (∀ n, s.l1Line n h.line = none) ∧ ∀ t ∈ h.staged, t.1 = key → ∀ p, h.uo = some p → p.op = t.2.1.op ∧ p.ty = t.2.1.ty)) →
    ∃ t d y, exec (.xredChunkCommit b c.id (x.pos / x.chunkElems)) s = .next t ∧ t.cmd? b c.id = some d ∧ d.slices = [y]
      ∧ y.pos = x.pos + min x.chunkElems (x.count 4 - x.pos)
      ∧ (∀ h ∈ s.l3, ∀ q, h.staged.find? (fun u => u.1 == key) = some q →
          (t.homeLine h.line).uo = mergePartials h.uo (some q.2.1) ∧ (∀ u ∈ (t.homeLine h.line).staged, u.1 ≠ key)
          ∧ (h.line.hub < s.hubs.length → key ∈ (t.hub h.line.hub).commits))
      ∧ (∀ h ∈ s.l3, h.staged.any (fun u => u.1 == key) = false → t.homeLine h.line = h))
  ∧ (∀ (b : BRef) (s : State) (c : Cmd) (x : Slice) (p : PeerChunk) (y : Block),
    s.peerChunks.find? (fun q => q.b == b && q.cmd == c.id && q.chunk == p.chunk && decide (q.sent + 20000 * usTicks ≤ s.now)) = some p →
    s.cmd? b c.id = some c → c.slices = [x] → s.block? b = some y →
    (p.again = false → ∃ t, exec (.xredChunkTimeout b c.id p.chunk) s = .next t ∧ t.cmd? b c.id = some c ∧ { p with again := true, sent := s.now } ∈ t.peerChunks)
    ∧ (p.again = true → ∃ t, exec (.xredChunkTimeout b c.id p.chunk) s = .next t ∧ t.cmd? b c.id = none
        ∧ ∀ n < 128, ∀ z, s.thread? ((b.crew x.crew).thread n) = some z → z.exited = false →
            FaultStands t ((b.crew x.crew).thread n) (14 * 2 ^ 16 + 2 * 2 ^ 8 + 7)
              (((p.parts.head?).map (fun r => (0xE0 : BitVec 8) ++ p.chip ++ r.req.va)).getD x.base)))
  ∧ (∀ (b : BRef) (s : State) (id chunk : Nat), (∀ q ∈ s.peerChunks, q.b = b → q.cmd = id → q.chunk = chunk → s.now < q.sent + 20000 * usTicks) →
    exec (.xredChunkTimeout b id chunk) s = .next s)

/-- R219, R221, R224, R227, R228, R441 and R462: the ends of transfers and reductions. -/
def Obligations.TransferEnds : Prop := TransferCompletes ∧ ReductionCommits

/-- R304, R308, R311 and R316: the cox instructions that write a register, a packet word or send an interrupt; the other registers stand and x0
reads zero. -/
def Obligations.CoxValues : Prop :=
  (∀ (rd ra rb : BitVec 4) (i : BitVec 14) (j : BitVec 22) (k : BitVec 16),
    CoxGives (.coxLi rd j) rd (fun _ => BitVec.ofInt 64 j.toInt)
    ∧ CoxGives (.coxLih rd k) rd (fun c => BitVec.ofInt 64 (coxInt c rd * 2 ^ 16 + k.toNat))
    ∧ CoxGives (.coxAdd rd ra rb i) rd (fun c => BitVec.ofInt 64 (coxInt c ra + coxInt c rb + i.toInt))
    ∧ CoxGives (.coxSub rd ra rb) rd (fun c => BitVec.ofInt 64 (coxInt c ra - coxInt c rb))
    ∧ CoxGives (.coxAnd rd ra rb) rd (fun c => c.reg ra &&& c.reg rb)
    ∧ CoxGives (.coxOr rd ra rb) rd (fun c => c.reg ra ||| c.reg rb)
    ∧ CoxGives (.coxXor rd ra rb) rd (fun c => c.reg ra ^^^ c.reg rb)
    ∧ CoxGives (.coxShl rd ra i) rd (fun c => BitVec.ofInt 64 (coxInt c ra * 2 ^ (i.toNat % 64)))
    ∧ CoxGives (.coxShr rd ra i) rd (fun c => BitVec.ofInt 64 (coxInt c ra / 2 ^ (i.toNat % 64)))
    ∧ CoxGives (.coxMul rd ra rb) rd (fun c => BitVec.ofInt 64 (coxInt c ra * coxInt c rb))
    ∧ CoxGives (.coxMinu rd ra rb) rd (fun c => BitVec.ofInt 64 (min (coxInt c ra) (coxInt c rb)))
    ∧ CoxGives (.coxPkr rd i) rd (fun c => if i.toNat % 512 < c.plen then (c.packet[i.toNat % 512]?).getD 0 else 0))
  ∧ (∀ (rd : BitVec 4) (s : State) (x : CoxId) (c : Cox), CoxRuns s x c → x.hub < 6 → x.ctx < 16 →
    ∃ t, exec (.coxSeq rd) s = .next t ∧ CoxSets t x c rd (BitVec.ofNat 64 (2 ^ 56 * s.chip.toNat + 2 ^ 52 * x.hub + 2 ^ 48 * x.ctx + c.launches % 2 ^ 48)))
  ∧ (∀ (rd : BitVec 4) (s : State) (x : CoxId) (c : Cox), CoxRuns s x c → s.recordsCox x = [] → s.coxTimeRecord x = none →
    ∃ t, exec (.coxTime rd) s = .next t ∧ CoxSets t x c rd s.time ∧ (c.pc + 1 < c.code.length → CoxWentOn s t x c (c.pc + 1)))
  ∧ (∀ (ra : BitVec 4) (i : BitVec 14) (s : State) (x : CoxId) (c : Cox), CoxRuns s x c → c.packet.length = c.plen →
    ∃ t, exec (.coxPkw ra i) s = .next t ∧ CoxSets t x c 0 0 ∧ (c.pc + 1 < c.code.length → CoxWentOn s t x c (c.pc + 1) ∧ (t.cox x).loops = c.loops
      ∧ ∀ k : Nat, (t.cox x).packet[k]? = if k = i.toNat ∧ k < c.plen then some (c.reg ra) else c.packet[k]?))
  ∧ (∀ (ra : BitVec 4) (s : State) (x : CoxId) (c : Cox), CoxRuns s x c → c.pc + 1 < c.code.length →
    let v := (c.reg ra).toNat % 64
    ∃ t, exec (.coxNotify ra) s = .next t ∧ CoxSets t x c 0 0 ∧ CoxWentOn s t x c (c.pc + 1)
      ∧ (if v ∈ s.msixMask ∨ s.linkUp = false then v ∈ t.msixPend ∧ t.msixSent = s.msixSent else t.msixSent = s.msixSent ++ [v] ∧ t.msixPend = s.msixPend))

/-- R304 and R306: the window accesses of a cox program read and write one word of HBM at the address of format M. -/
def Obligations.CoxWindows : Prop :=
  ∀ (rd ra : BitVec 4) (w : BitVec 3) (i : BitVec 15) (s : State) (x : CoxId) (c : Cox) (d : Window) (key : Nat), CoxRuns s x c →
    c.windows[w.toNat]? = some d → c.pc + 1 < c.code.length →
    (CoxWord s x (coxAddr d c ra i) 0 key →
      ∃ t, exec (.coxLdw rd ra w i) s = .next t ∧ CoxSets t x c rd (BitVec.ofNat 64 (coxRead s key)) ∧ (t.cox x).pc = c.pc + 1 ∧ ∀ k, t.mem.read k = s.mem.read k)
    ∧ (CoxWord s x (coxAddr d c ra i) 1 key →
      ∃ t, exec (.coxStw rd ra w i) s = .next t ∧ CoxSets t x c 0 0 ∧ (t.cox x).pc = c.pc + 1 ∧ WordStored s t key (c.reg rd).toNat)
    ∧ (CoxWord s x (coxAddr d c ra i) 2 key →
      ∃ t, exec (.coxAtadd rd ra w i) s = .next t ∧ CoxSets t x c rd (BitVec.ofNat 64 (coxRead s key)) ∧ (t.cox x).pc = c.pc + 1
        ∧ WordStored s t key (coxRead s key + (c.reg rd).toNat))

/-- R302, R304, R307, R308 and R310: branches, loops, the end of a packet's program, the budget, and ACT after the first. -/
def Obligations.CoxControl : Prop :=
  (∀ (f : BitVec 4 → BitVec 4 → BitVec 14 → Instr) (p : Int → Int → Bool), (f, p) ∈ coxBranches → ∀ (ra rb : BitVec 4) (i : BitVec 14) (s : State) (x : CoxId) (c : Cox),
    CoxRuns s x c → 0 ≤ i.toInt → let dst := if p (coxInt c ra) (coxInt c rb) then c.pc + 1 + i.toNat else c.pc + 1
    ∃ t, exec (f ra rb i) s = .next t ∧ CoxSets t x c 0 0 ∧ (dst < c.code.length → CoxWentOn s t x c dst ∧ (t.cox x).packet = c.packet ∧ (c.loops = [] → (t.cox x).loops = [])))
  ∧ (∀ (i : BitVec 14) (s : State) (x : CoxId) (c : Cox), CoxRuns s x c → c.pc + 1 < c.code.length →
    (∃ t, exec (.coxLoop i) s = .next t ∧ CoxSets t x c 0 0 ∧ CoxWentOn s t x c (c.pc + 1) ∧ (t.cox x).loops = (c.pc + 1, i.toNat % 512 - 1) :: c.loops)
    ∧ ∀ start left rest, c.loops = (start, left) :: rest → start < c.code.length →
      ∃ t, exec .coxEndl s = .next t ∧ CoxSets t x c 0 0 ∧ CoxWentOn s t x c (if left = 0 then c.pc + 1 else start)
        ∧ (t.cox x).loops = (if left = 0 then rest else (start, left - 1) :: rest))
  ∧ (∀ (s : State) (x : CoxId) (c : Cox) (key : Nat), CoxRuns s x c → CoxWord s x (c.qhandle + 24) 1 key → c.fromRec = false → c.acted = false →
    ∃ t, exec .coxHalt s = .next t ∧ CoxSets t x c 0 0 ∧ WordStored s t key (c.qread + BitVec.ofNat 64 c.plen).toNat
      ∧ (t.cox x).qread = c.qread + BitVec.ofNat 64 c.plen ∧ (t.cox x).packet = [] ∧ (∀ n, n ∈ (t.cox x).openP ↔ n ∈ c.openP ∧ n ≠ c.packets - 1)
      ∧ (c.en = true → (t.cox x).state = if (t.asid (t.ctxAsid x)).halt then 4 else 1)
      ∧ (c.en = false → (∀ a, (s.asid a).halt = false) → (t.cox x).state = 0))
  ∧ (∀ (s : State) (x : CoxId) (c : Cox), CoxRuns s x c → c.acted = true → c.pc + 1 < c.code.length →
    ∃ t, exec .coxAct s = .next t ∧ CoxSets t x c 0 0 ∧ CoxWentOn s t x c (c.pc + 1) ∧ (t.cox x).packet = c.packet)
  ∧ (∀ (i : Instr) (s : State) (x : CoxId), i ∈ [Instr.coxHalt, .coxAct, .coxEndl] → s.focus = .cox x → (s.cox x).state = 2 → 2048 ≤ (s.cox x).budget →
    s.coxReplays x = false → (s.cox x).acted = false → ∃ t, exec i s = .next t ∧ (t.cox x).state = 4)

/-- R298 and R302: a packet that lies wholly below WRITE is taken: a PAD advances READ past it; any other runs the context's program on its words,
once every earlier packet is complete where ORD is set. A packet that does not lie wholly below WRITE waits. -/
def Sys2Proof.Claims.PacketTaken : Prop :=
  (∀ (f : CoxId → Instr) (ok : Nat → Bool), (f, ok) ∈ packetRules → ∀ (s : State) (x : CoxId) (h : Handle) (w : Nat), PacketAt s x h w → ok (bitsOf w 7 0) = true →
    let n := bitsOf w 17 8
    let c := s.cox x
    ((h.write - h.read).toNat < n → ∃ t, exec (f x) s = .next t ∧ (t.cox x).state = 1 ∧ (t.cox x).packet = c.packet ∧ (t.cox x).packets = c.packets)
    ∧ (n ≤ (h.write - h.read).toNat → bitsOf w 7 0 = 0 →
      (∀ i < n, ∃ pa, s.unitPa (s.ctxAsid x) (h.wordVa h.read.toNat + BitVec.ofNat 64 (8 * i)) 8 0 = .inr pa ∧ (lineOf pa).isSome = true) →
      ∀ pa, s.unitPa (s.ctxAsid x) (c.qhandle + 24) 8 1 = .inr pa → (lineOf pa).isSome = true →
      ∃ t, exec (f x) s = .next t ∧ (t.cox x).qread = h.read + BitVec.ofNat 64 n ∧ t.physNat pa 8 = (h.read + BitVec.ofNat 64 n).toNat ∧ (t.cox x).packets = c.packets + 1
        ∧ (t.cox x).packet = [] ∧ (∀ k, k ∈ (t.cox x).openP ↔ (k ∈ c.openP ∨ k = c.packets) ∧ k ≠ c.packets)
        ∧ (t.cox x).state = if (t.asid (t.ctxAsid x)).halt then 4 else 1)
    ∧ (∀ ws : List Nat, n ≤ (h.write - h.read).toNat → bitsOf w 7 0 ≠ 0 → (bitsOf w 7 0 = 1 → bitsOf (ws.getD 4 0) 1 0 ≠ 1) → ws.length = n →
      (∀ i < n, ∃ pa, s.unitPa (s.ctxAsid x) (h.wordVa h.read.toNat + BitVec.ofNat 64 (8 * i)) 8 0 = .inr pa ∧ (lineOf pa).isSome = true ∧ ws[i]? = some (s.physNat pa 8)) →
      ∃ t, exec (f x) s = .next t ∧ (t.cox x).packet = ws.map (BitVec.ofNat 64) ∧ (t.cox x).plen = n ∧ (t.cox x).qread = h.read
        ∧ (t.cox x).packets = c.packets + 1 ∧ (t.cox x).openP = c.openP ++ [c.packets] ∧ (t.cox x).x = c.x ∧ t.mem = s.mem
        ∧ (if bitsOf w 18 18 = 1 then (t.cox x).state = 3 ∧ (t.cox x).wait = .ord
           else (t.cox x).state = 2 ∧ (t.cox x).pc = 0 ∧ (t.cox x).budget = 0 ∧ (t.cox x).acted = false)))
  ∧ (∀ (s : State) (x : CoxId), (s.cox x).wait = .ord →
    ((∃ k ∈ (s.cox x).openP, k + 1 < (s.cox x).packets) → exec (.ordWaitSatisfied x) s = .next s)
    ∧ ((∀ k ∈ (s.cox x).openP, (s.cox x).packets ≤ k + 1) →
      ∃ t, exec (.ordWaitSatisfied x) s = .next t ∧ (t.cox x).state = 2 ∧ (t.cox x).wait = .none ∧ (t.cox x).pc = 0 ∧ (t.cox x).budget = 0
        ∧ (t.cox x).x = (s.cox x).x ∧ (t.cox x).packet = (s.cox x).packet))

/-- R310, R311 and R312: the actions of ACT. A COPY is queued; a counter takes its addend; a waiting counter ends the wait at its target; a STEP sets the
step number; a checkpoint waits for its cut; a launch is offered, and accepted with its sequence number once a grid-barrier set is free (R277) and no launch of a
lower context of the hub stands before it (R25). A failed check stops the context. -/
def Sys2Proof.Claims.PacketActs : Prop :=
  (∀ (s : State) (x : CoxId) (c : Cox) (a b d k : DWord), Acts s x c 2 5 [a, b, d, k] → d ≠ 0 → d.toNat ≤ 2 ^ 40 → k.toNat % 8 = 0 →
    ∃ t q, exec .coxAct s = .next t ∧ (t.cox x).copies = c.copies ++ [q] ∧ q.src = a ∧ q.dst = b ∧ q.left = d.toNat ∧ q.ctr = k ∧ (t.cox x).actDone = true
      ∧ (t.cox x).state = 2 ∧ (t.cox x).openP = c.openP ∧ t.mem = s.mem)
  ∧ (∀ (s : State) (x : CoxId) (c : Cox) (va n : DWord) (key : Nat), Acts s x c 3 3 [va, n] → CoxWord s x va 2 key → s.isPeerVa va = false → va.toNat % 8 = 0 →
    coxRead s key + n.toNat < 2 ^ 64 - 1 → ∃ t, exec .coxAct s = .next t ∧ ActDone t x c ∧ WordStored s t key (coxRead s key + n.toNat))
  ∧ (∀ (s : State) (x : CoxId) (c : Cox) (va n : DWord), Acts s x c 4 3 [va, n] → va.toNat % 8 = 0 →
    ∃ t, exec .coxAct s = .next t ∧ (t.cox x).state = 3 ∧ (t.cox x).wait = .counter va n ∧ (t.cox x).actDone = false)
  ∧ (∀ (s : State) (x : CoxId) (va n : DWord) (key : Nat), (s.cox x).wait = .counter va n → (s.cox x).state = 3 → (s.cox x).pc < (s.cox x).code.length →
    s.coxReplays x = false →
    s.isPeerVa va = false → CoxWord s x va 0 key → coxRead s key < 2 ^ 64 - 1 → s.addsToCome = false → ∃ t, exec (.counterWaitSatisfied x) s = .next t ∧ t.mem = s.mem
      ∧ (if n.toNat ≤ coxRead s key then ActDone t x (s.cox x) else (t.cox x).state = 3 ∧ (t.cox x).wait = .counter va n))
  ∧ (∀ (s : State) (x : CoxId) (c : Cox) (n : DWord), Acts s x c 5 2 [n] → s.recordsCox x = [] → s.autoCut x = none →
    ∃ t, exec .coxAct s = .next t ∧ (t.cox x).lastStep = n ∧ ActDone t x c ∧ SameMemory s t)
  ∧ (∀ (s : State) (x : CoxId) (c : Cox) (a n : DWord), Acts s x c 6 3 [a, n] → s.recordsCox x = [] →
    ∃ t q, exec .coxAct s = .next t ∧ (t.cox x).ckpts = c.ckpts ++ [q] ∧ q.area = a ∧ q.number = n ∧ q.cut = false ∧ q.stop = c.cutStop ∧ q.packet = c.packets - 1
      ∧ (t.cox x).state = 3 ∧ (t.cox x).wait = .checkpoint ∧ SameMemory s t)
  ∧ (∀ (s : State) (x : CoxId) (c : Cox) (ws : List DWord), Acts s x c 1 (ws.length + 1) ws → ∃ t, exec .coxAct s = .next t
      ∧ (launchGood c.packet = true → (t.cox x).state = 3 ∧ (t.cox x).wait = .launch (parseLaunch c.packet))
      ∧ (launchGood c.packet = false → (t.cox x).state = 4))
  ∧ (∀ (s : State) (x : CoxId) (p : LaunchP), (s.cox x).wait = .launch p → (s.cox x).state = 3 → (s.cox x).pc < (s.cox x).code.length → recordMode p.modes = 0 →
    s.coxReplays x = false → p.prio < s.waiting.length →
    let taken := (s.launches.filter (fun l => l.isOpen && l.cox.hub == x.hub)).length
    (64 ≤ taken ∨ LowerDue s x → ∃ t, exec (.launchAccept x) s = .next t ∧ t.launches = s.launches ∧ (t.cox x).wait = .launch p)
    ∧ (taken < 64 → ¬LowerDue s x → ∃ t l, exec (.launchAccept x) s = .next t ∧ t.launches = s.launches ++ [l] ∧ l.p = p ∧ l.cox = x ∧ l.next = 0 ∧ l.isOpen = true
      ∧ l.seq = s.chip ++ BitVec.ofNat 4 x.hub ++ BitVec.ofNat 4 x.ctx ++ BitVec.ofNat 48 (s.cox x).launches ∧ (t.cox x).launches = (s.cox x).launches + 1
      ∧ (t.waiting[p.prio]?).map (fun w => w.getLast?) = some (some (WEntry.launch s.launches.length)) ∧ (t.cox x).state = 2 ∧ (t.cox x).actDone = true))

/-- R277, R298, R302 and R310 to R312: a context takes a packet and acts on it. -/
def Obligations.PacketRuns : Prop := PacketTaken ∧ PacketActs

/-- R313, R338 and R339: a chunk of a copy of up to 4 KiB, here within one line on each side; a checkpoint waits for every earlier packet, then marks
the lines of its ranges and writes STATUS 1 with its number, step and time; each marked line is copied to its place in DATA before its mark clears,
and STATUS becomes 2 when no mark remains. -/
def Obligations.PacketMoves : Prop :=
  (∀ (s : State) (x : CoxId) (k : Copy) (rest : List Copy) (p q : Nat) (l m : LineId) (i j : Nat), (s.cox x).copies = k :: rest → Plain s x → 1 ≤ k.left → k.left ≤ 128 →
    s.unitPa (s.ctxAsid x) k.src 1 0 = .inr p → s.unitPa (s.ctxAsid x) k.dst 1 1 = .inr q → lineOf p = some (l, i) → lineOf q = some (m, j) → k.src.toNat % 128 = i →
    k.dst.toNat % 128 = j → i + k.left ≤ 128 → j + k.left ≤ 128 → k.ctr = 0 → s.coxReplays x = false → (∀ w ∈ s.peerOut, w.cox ≠ some x) →
    ∃ t, exec (.copyChunk x) s = .next t ∧ (t.cox x).copies = rest ∧ (∀ n, n ∈ (t.cox x).openP ↔ n ∈ (s.cox x).openP ∧ n ≠ k.packet)
      ∧ ∀ a, t.mem.read a = if m.key + j ≤ a ∧ a < m.key + j + k.left then s.mem.read (l.key + i + (a - (m.key + j))) else s.mem.read a)
  ∧ (∀ (s : State) (x : CoxId) (k : Ckpt), (s.cox x).ckpts.find? (fun k => !k.cut) = some k → (k.auto = true → s.cutBarred (s.ctxAsid x) = false) →
    ((∃ n ∈ (s.cox x).openP, n < k.packet) → exec (.checkpointCut x) s = .next s)
    ∧ (∀ (u : State) (ranges : List (Nat × Nat)) (lines : List (LineId × DWord)) (pa off : Nat) (l : LineId), (∀ n ∈ (s.cox x).openP, k.packet ≤ n) →
      (if k.auto then { s with sections := s.sections.map (fun y => { y with autoPending := false }) } else s).ckptRanges x k.area = (u, .inr ranges) → u.ckptLines (s.ctxAsid x) k.area ranges (ckptData ranges.length) = some lines → lines ≠ [] → Plain s x → Plain u x →
      s.coxReplays x = false → (∀ h < 6, (u.hub h).recd.cyc = []) →
      (s.cox x).pc < (s.cox x).code.length → k.area.toNat % 128 = 0 → s.unitPa (s.ctxAsid x) k.area 1 1 = .inr pa → u.unitPa (s.ctxAsid x) (k.area + 4) 1 1 = .inr (pa + 4) → lineOf pa = some (l, off) → off = 0 →
      ∃ t q, exec (.checkpointCut x) s = .next t ∧ q ∈ (t.cox x).ckpts ∧ q.cut = true ∧ q.packet = k.packet ∧ q.marks = lines
        ∧ t.physNat (pa + 4) 4 = 1 ∧ t.physNat (pa + 8) 8 = k.number.toNat ∧ t.physNat (pa + 16) 8 = (s.cox x).lastStep.toNat ∧ t.physNat (pa + 24) 8 = s.time.toNat
        ∧ (k.stop = false → (s.cox x).wait = .checkpoint → (t.cox x).actDone = true ∧ (t.cox x).state = 2)
        ∧ (k.auto = true → ∀ y ∈ t.sections, y.autoPending = false)))
  ∧ (∀ (s : State) (x : CoxId) (k : Ckpt) (m : LineId × DWord) (ms : List (LineId × DWord)) (l : LineId), s.coxes = [s.cox x] → (s.cox x).ckpts = [k] → k.cut = true →
    k.marks = m :: ms → k.lost = none → (∀ n ∈ ms, n.1 ≠ m.1) → s.uoKind m.1 = none → (s.homeLine m.1).bad = none → lineOf m.2.toNat = some (l, 0) →
    (ms ≠ [] → ∃ t q, exec (.checkpointLineCopy x) s = .next t ∧ (t.cox x).ckpts = [q] ∧ q.marks = ms ∧ q.cut = true
      ∧ (∀ i < 128, t.mem.read (l.key + i) = s.mem.read (m.1.key + i)) ∧ ∀ a, (a < l.key ∨ l.key + 128 ≤ a) → t.mem.read a = s.mem.read a)
    ∧ (∀ pa i j, ms = [] → (s.cox x).pc < (s.cox x).code.length → (∀ h ∈ s.l3, h.uo = none ∧ h.bad = none ∧ h.holders = []) → (∀ n h, s.l1Line n h = none) → s.racingAsids = [] → s.recordsCox x = [] → s.coxReplays x = false →
      s.unitPa (s.ctxAsid x) (k.area + 4) 1 1 = .inr pa → k.area.toNat % 128 = 0 → lineOf pa = some (i, j) → j = 4 → i ≠ l →
      (∃ u, s.saveMark m.1 = u ∧ u.unitPa (u.ctxAsid x) (k.area + 4) 1 1 = .inr pa) →
      ∃ t, exec (.checkpointLineCopy x) s = .next t ∧ (t.cox x).ckpts = [] ∧ t.mem.readN (i.key + 4) 4 = [2, 0, 0, 0]
        ∧ ∀ n < 128, t.mem.read (l.key + n) = s.mem.read (m.1.key + n)))

/-- R26, R281, R282, R289 and R294: a hub's walk step places the head of its highest list that fits a section, each block on a core of its own there; a new
group is resident, a saved one is restored. No block takes granules or crew slots reserved for another head. With nothing to place it changes no group. Where two sequencers have chosen one
section in a hub cycle, its own hub's goes first, then those of lower hubs, and one that finds no room left there waits for its next step. -/
def Obligations.WalkPlaces : Prop :=
  (∀ (s : State) (n p i h : Nat) (hd : Head) (spots : List (Nat × Spot)) (l : Launch), WalkHead s n p hd h spots → hd.entry = .launch i → s.launch? i = some l →
    ∃ t g m, exec (.walkStep n) s = .next t ∧ g ∈ t.groups ∧ g.launch = l.idx ∧ g.walk = l.next ∧ g.st = .resident ∧ g.sect = h ∧ (∀ x ∈ s.groups, x.gid ≠ g.gid)
      ∧ g.blocks.map (fun b => b.core) = spots.map (fun q => q.2.core) ∧ (g.blocks.map (fun b => b.core)).Nodup ∧ (∀ b ∈ g.blocks, b.core / 96 = h)
      ∧ t.launch? i = some m ∧ m.next = l.next + 1 ∧ m.rr = (h + 1) % 6
      ∧ t.waiting[p]? = (s.waiting[p]?).map (fun w => if l.next + 1 = l.p.groupCount then w.drop 1 else w))
  ∧ (∀ (s : State) (n p i h : Nat) (hd : Head) (spots : List (Nat × Spot)) (x : Group), WalkHead s n p hd h spots → hd.entry = .saved i → s.group? i = some x →
    (s.launch? x.launch).isSome = true →
    ∃ t g, exec (.walkStep n) s = .next t ∧ t.group? i = some g ∧ g.st = .restoring ∧ g.sect = h ∧ g.launch = x.launch ∧ t.waiting[p]? = (s.waiting[p]?).map (fun w => w.drop 1)
      ∧ ∀ k b, x.blocks[k]? = some b → ∀ q, spots.find? (fun u => u.1 == k) = some q → ∃ c, g.blocks[k]? = some c ∧ c.core = q.2.core ∧ c.base = q.2.base)
  ∧ (∀ (s : State) (n p h : Nat) (hd : Head) (spots : List (Nat × Spot)) (r : Reservation) (y : HeldCore) (q : Nat × Spot), WalkHead s n p hd h spots →
    r ∈ s.reserved → r.head ≠ hd.entry → y ∈ r.held → q ∈ spots → q.2.core = y.core →
    (q.2.base + hd.launch.p.gran ≤ y.base ∨ y.base + y.gran ≤ q.2.base) ∧ ∀ c ∈ q.2.slots, ∀ u ∈ y.slots, u.1 ≠ c)
  ∧ (∀ (s : State) (n : Nat), (∀ q < 8, ∀ d, s.head q = some d → d.launch.cox.hub ≠ n ∨ s.barred d = true ∨ s.fit d = none) →
    (∀ w ∈ s.walks, w.now ≠ s.now) → ∃ t, exec (.walkStep n) s = .next t ∧ t.groups = s.groups ∧ t.waiting = s.waiting ∧ t.launches = s.launches)
  ∧ (∀ (s : State) (n p h : Nat) (w : Walk), s.walks.find? (fun y => y.hub == n && y.now == s.now) = some w → w.pick = some (p, h) →
    ((∃ v ∈ s.walks, Ahead s n h v) →
      ∃ t, exec (.walkStep n) s = .next t ∧ t.groups = s.groups ∧ t.waiting = s.waiting ∧ t.walks = s.walks ∧ ∃ u ∈ t.agenda, u.act = .event (.walkStep n))
    ∧ ((∀ v ∈ s.walks, ¬Ahead s n h v) → (∀ hd, s.head p = some hd → s.fitIn hd.launch hd.group hd.entry.key h = none) →
      ∃ t, exec (.walkStep n) s = .next t ∧ t.groups = s.groups ∧ t.waiting = s.waiting)
    ∧ (∀ hd i l spots, (∀ v ∈ s.walks, ¬Ahead s n h v) → s.head p = some hd → hd.entry = .launch i → s.launch? i = some l → recordMode l.p.modes = 0 → s.dbg.trigger = none →
      s.fitIn hd.launch hd.group hd.entry.key h = some spots →
      ∃ t g, exec (.walkStep n) s = .next t ∧ g ∈ t.groups ∧ g.launch = l.idx ∧ g.walk = l.next ∧ g.st = .resident ∧ g.sect = h
        ∧ g.blocks.map (fun b => b.core) = spots.map (fun q => q.2.core)))

/-- The arbiter has nothing to choose for the head: it fits; victims chosen for it have not all been saved; or a group that gives way to another head is in Saving. -/
def Sys2Proof.Claims.ArbiterWaits (s : State) (hd : Head) : Prop :=
  (s.fit hd).isSome = true ∨ (∃ g ∈ s.groups, g.victimOf = some hd.entry.key ∧ g.st ≠ .saved ∧ g.st ≠ .restoring)
    ∨ ∃ g ∈ s.groups, g.st = .saving ∧ ∃ k, g.victimOf = some k ∧ k ≠ hd.entry.key

/-- R288 to R290 and R295: for the first head that fits no section, the arbiter reserves in one section what its victims hold, and they enter pre-emption, a cooperating
launch with its grace time. A head that fits leaves every group as it is; so does one whose victims are still on their way out, and a group of another head in Saving.
That the first head is the first that is not barred is log entry 39's reading, and that victims are chosen again where room has gone log entry 67's. -/
def Sys2Proof.Claims.ArbiterPreempts : Prop :=
  ∀ (s : State) (p : Nat) (hd : Head), p < 8 → s.head p = some hd → s.barred hd = false →
    (∀ q, p < q → q < 8 → ∀ d, s.head q = some d → s.barred d = true) →
    (ArbiterWaits s hd → ∃ t, exec .sliceArbiterRun s = .next t ∧ t.groups = s.groups ∧ t.reserved = s.reserved)
    ∧ (∀ (h : Nat) (v : List Nat) (pre post : List Nat), ¬ArbiterWaits s hd → s.sectionOrder hd = pre ++ h :: post →
      (∀ k ∈ pre, s.victims hd k [] (s.victimOrder p k) = none) → s.victims hd h [] (s.victimOrder p h) = some v → v.Nodup → (s.groups.map (fun g => g.gid)).Nodup →
      ∃ t, exec .sliceArbiterRun s = .next t ∧ (∃ r ∈ t.reserved, r.head = hd.entry ∧ r.sect = h ∧ (∀ g ∈ v, g ∈ r.victims)
          ∧ ∀ g x l b, g ∈ v → s.group? g = some x → s.launch? x.launch = some l → b ∈ x.blocks → b.ended = false →
            ∃ y ∈ r.held, y.core = b.core ∧ y.base = b.base ∧ y.gran = l.p.gran ∧ ∀ c ∈ b.crews, c.released = false → (c.slot, l.p.regs) ∈ y.slots)
        ∧ (∀ r ∈ s.reserved, r.head ≠ hd.entry → r ∈ t.reserved)
        ∧ (∀ g x l, g ∈ v → s.group? g = some x → x.st = .resident → s.launch? x.launch = some l → ∃ y, t.group? g = some y ∧ y.victimOf = some hd.entry.key
            ∧ (if l.p.coop then y.st = .requested ∧ y.deadline = some (s.now + l.p.grace * usTicks) else y.st = .stopping))
        ∧ ∀ g, g ∉ v → t.group? g = s.group? g)

/-- R237, R238, R291, R292, R294, R295, R260, R343 and R347: the course of a pre-emption: at the deadline the group stops by force, unless it offers; while the debugger or
a fault holds one of its blocks it waits; a stopped group whose blocks stand still, and whose queue's packet is over, is saved, its slots, accumulators and operations with it; a saved group joins the tail of its list unless the debugger
swapped it out; a restored group is resident, or stops again where the debugger has swapped it out meanwhile, with clocks at the floor where HWX has run 2^28 ahead. -/
def Sys2Proof.Claims.PreemptionCourse : Prop :=
  ∀ (s : State) (g : Nat) (x : Group) (l : Launch), s.group? g = some x → s.launchOf g = some l → x.gid = g → (s.groups.map (fun y => y.gid)).Nodup →
    (∀ d, x.st = .requested → x.deadline = some d → (s.now < d → exec (.yieldDeadline g) s = .next s)
      ∧ (d ≤ s.now → x.heldUp = true → ∃ t, exec (.yieldDeadline g) s = .next t ∧ t.groups = s.groups)
      ∧ (d ≤ s.now → x.heldUp = false → x.offers = false →
          ∃ t y, exec (.yieldDeadline g) s = .next t ∧ t.group? g = some y ∧ y.st = .stopping ∧ (t.asid l.asid).yforced = true)
      ∧ (d ≤ s.now → x.heldUp = false → x.offers = true → ∃ t y, exec (.yieldDeadline g) s = .next t ∧ t.group? g = some y ∧ y.st = .saving ∧ y.storing = false))
    ∧ (x.st = .stopping ∨ (x.st = .saving ∧ x.storing = false) → recordMode (s.modesOf g) = 0 →
      (x.heldUp = false ∨ x.swapped = true → GroupStill s g x → s.packetOver g x = true → ∃ t y, exec (.preemptStopComplete g) s = .next t ∧ t.group? g = some y ∧ y.st = .saving ∧ y.storing = true
        ∧ ∀ b ∈ x.blocks, b.ended = false → (∀ z ∈ (t.core b.core).slots, z.owner.g ≠ g) ∧ (∀ z ∈ (t.core b.core).accs, z.owner.g ≠ g)
            ∧ (∀ z ∈ (s.core b.core).slots, z.owner.g = g → z ∈ y.savedSlots) ∧ (∀ z ∈ (s.core b.core).accs, z.owner.g = g → z ∈ y.savedAccs)
            ∧ ∀ z ∈ (s.core b.core).ops, z.crew.g = g → z ∈ y.savedOps)
      ∧ ((x.heldUp = true ∧ x.swapped = false) ∨ ¬GroupStill s g x ∨ s.packetOver g x = false → ∃ t, exec (.preemptStopComplete g) s = .next t ∧ t.groups = s.groups))
    ∧ (x.st = .saving → x.storing = true → l.p.prio < s.waiting.length →
      ∃ t y, exec (.saveComplete g) s = .next t ∧ t.group? g = some y ∧ y.st = .saved ∧ y.blocks = x.blocks
        ∧ t.waiting[l.p.prio]? = (s.waiting[l.p.prio]?).map (fun w => if x.swapped then w else w ++ [.saved g]))
    ∧ (x.st = .restoring → x.swapped = true → ∃ t y, exec (.restoreComplete g) s = .next t ∧ t.group? g = some y ∧ y.st = .stopping)
    ∧ (x.st = .restoring → x.swapped = false → recordMode (s.modesOf g) = 0 → s.dbg.trigger = none →
      ∃ t y, exec (.restoreComplete g) s = .next t ∧ t.group? g = some y ∧ y.st = .resident ∧ y.since = s.time
        ∧ ∀ (k : Nat) (b : Block), x.blocks[k]? = some b → ∃ c, y.blocks[k]? = some c ∧ c.core = b.core
            ∧ ∀ (i j : Nat) (w : Crew) (th : Thread), b.crews[i]? = some w → w.threads[j]? = some th → ∃ v z, c.crews[i]? = some v ∧ v.threads[j]? = some z
                ∧ z.yielded = none ∧ z.regs = th.regs ∧ z.pc = th.pc
                ∧ (if x.savedHwx.toNat + 2 ^ 28 ≤ (s.hub x.sect).hwx.toNat then z.o = s.floorOf x.sect ∧ z.s = s.floorOf x.sect else z.o = th.o ∧ z.s = th.s))

/-- R237, R238, R260, R288 to R292, R294, R295, R343 and R347: pre-emption from the arbiter to the restore. The first head that is not barred, in place of the head of the
highest list that is not empty, is log entry 39 (DEDUCED); the choice of victims anew log entry 67; what a swap-out of a group in Saving or Restoring does log entry 40. -/
def Obligations.PreemptionRuns : Prop := ArbiterPreempts ∧ PreemptionCourse

/-- R258 and R259: a beacon's clock raises a hub's HW and HWX; each hub sends its HW to the other five every microsecond; the clocks of resident
threads never stand below the floor; a stamp below the floor settles into SC. -/
def Sys2Proof.Claims.ClocksKept : Prop :=
  (∀ (hub : Nat) (hw : Word) (s : State), hub < s.hubs.length → ∃ t, exec (.beaconReceive hub hw) s = .next t ∧ SameMemory s t
    ∧ (t.hub hub).hw = smax (s.hub hub).hw hw
    ∧ (t.hub hub).hwx = (s.hub hub).hwx + (if above hw (s.hub hub).hw then (hw - (s.hub hub).hw).zeroExtend 64 else 0))
  ∧ (∀ (hub : Nat) (s : State), ∃ t, exec (.beaconSend hub) s = .next t ∧ SameMemory s t ∧ (∃ rest, t.agenda = insertTurn usTicks (.event (.beaconSend hub)) rest)
    ∧ ∀ n, n < 6 → n ≠ hub → ∃ a ∈ t.agenda, a.act = .tick (.beacon n (s.hub hub).hw))
  ∧ (∀ (core : Nat) (s : State), ∃ t, exec (.coreFloorRaise core) s = .next t
    ∧ ∀ r x b, s.thread? r = some x → s.block? r.block = some b → b.core = core → b.ended = false → s.stands r.g = true → x.exited = false → s.replays r.g = false →
      recordMode (s.modesOf r.g) = 0 → (∀ c, s.crew? r.crew = some c → r.t < c.threads.length) → (s.groups.map (fun g => g.gid)).Nodup →
      ∃ y, t.thread? r = some y ∧ y.o = smax x.o (floorRule s (core / 96)) ∧ y.s = smax x.s (floorRule s (core / 96)) ∧ y.regs = x.regs ∧ y.pc = x.pc)
  ∧ (∀ (l : LineId) (s : State) (h : HomeLine), s.l3.find? (fun x => x.line == l) = some h → l.hub < s.hubs.length → ∃ t, exec (.sweeperVisit l) s = .next t
    ∧ t.mem = s.mem ∧ (below (floorRule s l.hub) h.stamp → (t.hub l.hub).sc = takesIn (s.hub l.hub).sc h.stamp
        ∧ (t.homeLine l).stamp = settledStamp (takesIn (s.hub l.hub).sc h.stamp))
    ∧ (¬below (floorRule s l.hub) h.stamp → t.l3 = s.l3 ∧ t.hubs = s.hubs))
  ∧ (∀ (core : Nat) (s : State) (x : L1Line), (s.core core).l1 = [x] → core / 96 < s.hubs.length →
    (∀ b ∈ s.allBlocks, b.2.core = core → b.2.ended = true) → ∃ t y, exec (.coreStampSweep core) s = .next t ∧ (t.core core).l1 = [y] ∧ y.data = x.data ∧ y.st = x.st ∧ t.mem = s.mem
    ∧ (below (floorRule s (core / 96)) x.stamp → (t.hub (core / 96)).sc = takesIn (s.hub (core / 96)).sc x.stamp
        ∧ y.stamp = settledStamp (takesIn (s.hub (core / 96)).sc x.stamp))
    ∧ (¬below (floorRule s (core / 96)) x.stamp → y = x ∧ t.hubs = s.hubs))

/-- R249, R250 and R257: an L1 line leaves with its dirty bytes written to the home; an L3 line leaves with its stamp taken into SC, unless it is
update-only, held, staged or in error. -/
def Sys2Proof.Claims.EvictionsKeep : Prop :=
  (∀ (core : Nat) (l : LineId) (s : State) (x : L1Line), s.l1Line core l = some x → x.st ≠ .updateOnly → (s.homeLine l).uo = none → (s.homeLine l).holders = [] →
    (s.homeLine l).bad = none → s.marked l = false → s.racingAsids = [] → x.data.length = 128 →
    ∃ t, exec (.l1Eviction core l) s = .next t ∧ t.l1Line core l = none
      ∧ (∀ i < 128, t.mem.read (l.key + i) = if x.st = .dirty ∧ x.mask.getLsbD i = true then (x.data[i]?).getD 0 else s.mem.read (l.key + i))
      ∧ ∀ k, (k < l.key ∨ l.key + 128 ≤ k) → t.mem.read k = s.mem.read k)
  ∧ (∀ (l : LineId) (s : State) (h : HomeLine), s.l3.find? (fun x => x.line == l) = some h → l.hub < s.hubs.length →
    let pinned := h.uo.isSome ∨ h.holders ≠ [] ∨ h.spilled = true ∨ h.staged ≠ [] ∨ h.bad.isSome
    ∃ t, exec (.l3Eviction l) s = .next t ∧ t.mem = s.mem ∧ (pinned → t.l3 = s.l3)
      ∧ (¬pinned → (∀ y ∈ t.l3, y.line ≠ l) ∧ (t.hub l.hub).sc = takesIn (s.hub l.hub).sc h.stamp))

/-- R249, R250 and R257 to R259: clocks and evictions. -/
def Obligations.HierarchyKept : Prop := ClocksKept ∧ EvictionsKeep

/-- R168, R246, R427 and R462: a home chip performs a peer read, store or atomic on its memory, unless its race traps, and answers with the bytes read, or with the
fault of the translation; the response ends the request, with the thread's registers to be written, or a region fault; none in 20 ms counts as NOBACK. A group's requests are served together, with its last. -/
def Obligations.PeerAccess : Prop :=
  (∀ (r : PeerReq) (s : State) (l : LineId) (off : Nat), PeerLine s r l off → ServedAlone s r → (∀ op ty v, r.kind ≠ .reduce op ty v) → 0 < r.size → r.size ≤ 16 →
    (∀ k d, r.kind = .write k d → d.length = r.size) → (∀ op ty v w a b, r.kind = .atomic op ty v w a b → op ≤ 11 ∧ r.size = tyBytes ty ∧ r.size ≤ 8 ∧ v.toNat < 2 ^ (8 * r.size) ∧ w.toNat < 2 ^ (8 * r.size)) →
    (∀ n, r.kind = .counterAdd n → r.size = 8) → (∀ n, r.kind = .counter n → r.size = 8 ∧ leNat (s.mem.readN (l.key + off) 8) < 2 ^ 64 - 1) →
    let old := leNat (s.mem.readN (l.key + off) r.size)
    ∃ t a, exec (.peerRequest r) s = .next t ∧ t.peerSent = s.peerSent ++ [a] ∧ a.id = r.id ∧ a.dst = r.src ∧ a.err = 0
      ∧ (a.race = none ∨ r.precise = false → ((∀ k d, r.kind ≠ .write k d) → a.data = BitVec.ofNat 64 old)
        ∧ ∀ k, t.mem.read k = if l.key + off ≤ k ∧ k < l.key + off + r.size then
            BitVec.ofNat 8 ((peerLeaves r.kind old).getD old / 256 ^ (k - (l.key + off))) else s.mem.read k)
      ∧ (a.race ≠ none → r.precise = true → t.mem = s.mem))
  ∧ (∀ (r : PeerReq) (s : State) (f : AFault), s.translate none r.asid r.va.toNat (needOf (peerAcc r.kind).need) = .inl f →
    ServedAlone s r → ∃ t a, exec (.peerRequest r) s = .next t ∧ t.peerSent = s.peerSent ++ [a] ∧ a.id = r.id ∧ a.err = f.code + 256 * f.detail ∧ t.mem = s.mem)
  ∧ (∀ (r : PeerReq) (s : State), (s.peerHeld.filter (fun q => q.src == r.src && q.group == r.group)).length + 1 < r.group.2 →
    ∃ t, exec (.peerRequest r) s = .next t ∧ t.peerHeld = s.peerHeld ++ [r] ∧ t.peerSent = s.peerSent ∧ SameMemory s t)
  ∧ (∀ (id err : Nat) (data hi : DWord) (o sc pa : Word) (dropped : Option Nat) (s : State) (w : PeerOut) (x : Thread) (p : Pend) (a : Access),
    s.peerOut.find? (fun q => q.req.id == id) = some w → w.cox = none → s.cmd? w.who.block w.pend = none → s.thread? w.who = some x →
    x.pend.find? (fun q => q.id == w.pend) = some p → p.todo = some a → (∀ n, w.req.kind ≠ .counter n) → (∀ op t, a.kind ≠ .red op t) →
    (err = 0 → s.replays w.who.g = false → recordMode (s.modesOf w.who.g) = 0 → (a.kind.reads = false → a.dest = []) →
      ∃ t, exec (.peerResponse id err data hi o sc pa dropped none) s = .next t ∧ (∀ q ∈ t.peerOut, q.req.id ≠ id)
        ∧ Performed t w.who p (readWrites a ((data.toNat + 2 ^ 64 * hi.toNat) % 2 ^ (8 * a.size))))
    ∧ (err ≠ 0 → (∀ acq sx, a.kind ≠ .load acq sx) →
      ∃ t y f, exec (.peerResponse id err data hi o sc pa dropped none) s = .next t ∧ t.thread? w.who = some y ∧ (∀ q ∈ y.pend, q.id ≠ p.id) ∧ y.regs = x.regs
        ∧ f ∈ y.faults ∧ f.how = .region ∧ f.addr = a.ea ∧ f.pc = a.pc ∧ f.cause.toNat % 2 ^ 12 = 2 * 2 ^ 8 + err % 256))
  ∧ (∀ (id : Nat) (s : State) (w : PeerOut), s.peerOut.find? (fun q => q.req.id == id) = some w →
    (s.now < w.sent + 20000 * usTicks → exec (.peerRequestTimeout id) s = .next s)
    ∧ (w.sent + 20000 * usTicks ≤ s.now → exec (.peerRequestTimeout id) s = exec (.peerResponse id 7 0 0 w.req.o w.req.s w.req.pa none none) s))

/-- R320, R459 and R460: a flit with a bad CRC is counted and asks for retry, as does a gap, but not a flit that has been accepted before; the next in order is accepted into its class's receive buffer, where that has room; 16 retries in a row or
100 µs without an acknowledgement take the port down, with their CAUSE; it comes up again where it stopped, or after 10 ms is lost with what it held. -/
def Obligations.SweepPorts : Prop :=
  ∀ (p : Nat) (s : State),
    (∀ (f : Flit), (s.port p).st = 2 →
      (f.crc ≠ Config.flitCrc f.bytes → ∃ t, exec (.flitReceive p f) s = .next t ∧ (t.port p).rxNext = (s.port p).rxNext ∧ (t.port p).run = (s.port p).run + 1
        ∧ (t.port p).crcerr.toNat = min ((s.port p).crcerr.toNat + 1) (2 ^ 64 - 1) ∧ (t.port p).retries.toNat = min ((s.port p).retries.toNat + 1) (2 ^ 64 - 1)
        ∧ ((s.port p).run < 15 → (t.port p).st = 2) ∧ (15 ≤ (s.port p).run → (t.port p).st = 3 ∧ (t.port p).cause = 1))
      ∧ (f.crc = Config.flitCrc f.bytes → f.kind ≠ Config.flitKind 5 → f.seq ≠ (s.port p).rxNext → ∃ t, exec (.flitReceive p f) s = .next t
        ∧ (t.port p).rxNext = (s.port p).rxNext ∧ (t.port p).rx = (s.port p).rx ∧ (t.port p).crcerr = (s.port p).crcerr
        ∧ ((f.seq - (s.port p).rxNext).toNat < 2048 → (t.port p).run = (s.port p).run + 1
          ∧ (t.port p).retries.toNat = min ((s.port p).retries.toNat + 1) (2 ^ 64 - 1))
        ∧ (2048 ≤ (f.seq - (s.port p).rxNext).toNat → (t.port p).run = (s.port p).run ∧ (t.port p).retries = (s.port p).retries ∧ (t.port p).st = 2))
      ∧ (f.crc = Config.flitCrc f.bytes → f.kind ≠ Config.flitKind 5 → f.seq = (s.port p).rxNext → ∃ t, exec (.flitReceive p f) s = .next t
        ∧ ((s.port p).free f.cls.toNat ≠ 0 → (t.port p).rxNext = (s.port p).rxNext + 1 ∧ (t.port p).rx = (s.port p).rx ++ [f] ∧ (t.port p).run = 0)
        ∧ ((s.port p).free f.cls.toNat = 0 → (t.port p).rxNext = (s.port p).rxNext ∧ (t.port p).rx = (s.port p).rx)))
    ∧ ((s.port p).st = 2 → (∃ t, exec (.signalLoss p) s = .next t ∧ (t.port p).st = 3 ∧ (t.port p).cause = 3 ∧ (t.port p).unacked = (s.port p).unacked)
      ∧ ((s.port p).unacked ≠ [] → (s.port p).ackAt + 100 * usTicks ≤ s.now → ∃ t, exec (.ackTimeout p) s = .next t ∧ (t.port p).st = 3 ∧ (t.port p).cause = 2))
    ∧ (∀ peer : BitVec 8, (s.port p).en = true →
      ((s.port p).st = 1 → ∃ t, exec (.portTrained p peer) s = .next t ∧ (t.port p).st = 2 ∧ (t.port p).peer = peer)
      ∧ ((s.port p).st = 3 → ∃ t w, exec (.portTrained p peer) s = .next t ∧ (t.port p).st = 2
        ∧ (t.port p).wire = (s.port p).wire ++ (s.port p).unacked.map (fun f => sealFlit { f with ack := (s.port p).rxNext - 1 }) ++ w))
    ∧ (∀ d, (s.port p).st = 3 → (s.port p).downAt = some d → d + 10000 * usTicks ≤ s.now →
      ∃ t, exec (.portRecoveryTimeout p) s = .next t ∧ (t.port p).st = 4 ∧ (t.port p).queue = [] ∧ (t.port p).unacked = [])

/-- R334 and R464: a hub in replay releases the records at the global frontier clock whose party has no earlier record open; 20 ms after the last word
of a hub of a lost chip every hub gives RINGGAP, and its context halts when the records of the cycle are written. -/
def Obligations.FrontierReleases : Prop :=
  (∀ (hub : Nat) (s : State) (g : Word) (pre post : List RRec) (r : RRec), hub < s.hubs.length → (s.hub hub).recd.state = 2 → s.frontierStands = false →
    (s.hub hub).recd.rrget = (s.hub hub).recd.rrput → (s.hub hub).recd.rbchk.getLsbD 32 = false → s.frontier = some g →
    (s.hub hub).recd.replay = pre ++ r :: post → ((s.hub hub).recd.replay.map (fun x => x.index)).Nodup →
    ∃ t q, exec (.frontierUpdate hub) s = .next t ∧ q ∈ (t.hub hub).recd.replay ∧ q.index = r.index
      ∧ (q.released = true ↔ r.released = true ∨ (r.fronts = true ∧ r.clock = g ∧ ∀ b ∈ pre, b.fronts = true → b.sameParty r = false)))
  ∧ (∀ (hub : Nat) (chip : BitVec 8) (s : State) (r : RemoteLu) (l : Launch), s.remoteLu.find? (fun x => x.chip == chip && x.hub == hub) = some r →
    s.chipLost chip = true → r.lu.isSome = true → (s.hubs.any (fun h => h.recd.state == 2)) = true → s.launches.find? (fun l => l.isOpen && recordMode l.p.modes == 2) = some l →
    (∀ h < 6, (s.hub h).recd.diverged = false) → s.divsNow = [] →
    (r.at_ + 20000 * usTicks ≤ s.now → ∃ t, exec (.replayLuTimeout hub chip) s = .next t
      ∧ (∀ h < 6, ∃ e ∈ t.divsNow, e.hub = h ∧ e.code = 5 ∧ e.detail = 1 ∧ e.asid = l.asid) ∧ ((t.runTick .logs).asid l.asid).halt = true)
    ∧ (s.now < r.at_ + 20000 * usTicks → exec (.replayLuTimeout hub chip) s = .next s))

/-- R352, R454 and R455: the trace buffer drains into the ring; gating drains first, for at most 50 µs, then discards and counts what remains and
writes the gate frame; a section that comes back is placed on again. That one drain moves all there is room for, and that the gate frames leave so, is the model's
choice (log entry 49). -/
def Obligations.TraceKept : Prop :=
  ∀ (n : Nat) (s : State), n < s.sections.length →
    let x := s.sect n
    let size := x.trsize.toNat * 2 ^ 24
    let room := size - (x.trput - x.trget).toNat
    ((∃ t, exec (.traceDrain n) s = .next t ∧ (t.sect n).trput = x.trput + BitVec.ofNat 64 (min room x.buffer.length)
        ∧ (x.gating = none ∨ min room x.buffer.length < x.buffer.length → (t.sect n).buffer = x.buffer.drop (min room x.buffer.length) ∧ (t.sect n).gated = x.gated)
        ∧ (x.gating.isSome = true → x.buffer.length ≤ room → (t.sect n).gated = true ∧ (t.sect n).gating = none)
        ∧ ∀ f l, x.buffer = [f] → 1 ≤ room → f.length = 64 → size ≠ 0 → lineOf (x.trbase.toNat + 64 * (x.trput.toNat % size)) = some (l, 0) → LineStored s t l f))
    ∧ (x.gated = false → x.gating = none → ∃ t, exec (.sectionGate n) s = .next t ∧ (t.sect n).gating = some s.now ∧ (t.sect n).gated = false)
    ∧ (∀ d, x.gating = some d → (s.now < d + 50 * usTicks → exec (.traceGateTimeout n) s = .next s)
      ∧ (d + 50 * usTicks ≤ s.now → ∃ t, exec (.traceGateTimeout n) s = .next t ∧ (t.sect n).gated = true ∧ (t.sect n).buffer = []
        ∧ (∃ f, (t.sect n).gateFrames = x.gateFrames ++ [f] ∧ f.take 16 = leBytes 1 3 ++ leBytes 3 0 ++ leBytes 4 x.buffer.length ++ leBytes 8 s.time.toNat)
        ∧ (t.sect n).trlost.toNat = min (x.trlost.toNat + x.buffer.length) (2 ^ 64 - 1)))
    ∧ (∃ t, exec (.gateFrameWrite n) s = .next t ∧ (t.sect n).gateFrames = x.gateFrames.drop room
        ∧ (t.sect n).trput = x.trput + BitVec.ofNat 64 (min room x.gateFrames.length) ∧ (room = 0 → t.mem = s.mem)
        ∧ ∀ f l, x.gateFrames = [f] → 0 < room → f.length = 64 → lineOf (x.trbase.toNat + 64 * (x.trput.toNat % size)) = some (l, 0) → LineStored s t l f)
    ∧ (∃ t, exec (.sectionUngate n) s = .next t ∧ (t.sect n).gated = false ∧ (t.sect n).gating = none ∧ t.groups = s.groups ∧ SameMemory s t)

/-- R414, R415 and R457: a corrected error is counted; an uncorrectable one is recorded in EADDR and ESTAT, poisons the line of HBM or L3 that it
struck, and repairs a lost stamp from HW; a window with more corrected errors than CETHR sets RISING and, unless
an automatic cut is pending, sends vector WARNV and has a cut pending where AUTOCK is set. -/
def Obligations.ErrorsHandled : Prop :=
  ∀ (n : Nat) (s : State), n < s.sections.length →
    (∀ u w, ∃ t, exec (.memoryErrorDetect n u w true) s = .next t ∧ (t.sect n).cecnt = (s.sect n).cecnt + 1 ∧ (t.sect n).window = (s.sect n).window + 1
      ∧ (t.sect n).uecnt = (s.sect n).uecnt ∧ SameMemory s t)
    ∧ (∀ u w l off, u ∈ [0, 1] → lineOf w = some (l, off) → w < 2 ^ 48 → (s.l3.map (fun h => h.line)).Nodup → ∃ t, exec (.memoryErrorDetect n u w false) s = .next t
      ∧ (t.sect n).uecnt = (s.sect n).uecnt + 1 ∧ (t.sect n).eaddr = BitVec.ofNat 64 (u * 2 ^ 48 + w) ∧ (t.sect n).estat = (s.sect n).estat ||| 1
      ∧ (t.homeLine l).bad = some 0 ∧ (t.homeLine l).badUnit = u ∧ t.mem = s.mem)
    ∧ (∀ w l off, lineOf w = some (l, off) → l.hub < s.hubs.length → (∃ h ∈ s.l3, h.line = l) → (s.l3.map (fun h => h.line)).Nodup → ∃ t, exec (.memoryErrorDetect n 2 w false) s = .next t
      ∧ (t.sect n).estat = (s.sect n).estat ||| 2 ∧ (t.hub l.hub).sc = (s.hub l.hub).hw ∧ (t.homeLine l).stamp = settledStamp (s.hub l.hub).hw ∧ t.mem = s.mem)
    ∧ (let x := s.sect n
       ∃ t, exec (.errorRateWindow n) s = .next t ∧ (t.sect n).window = 0 ∧ SameMemory s t
        ∧ ((x.cethr = 0 ∨ x.window ≤ x.cethr.toNat) → (t.sect n).warn = x.warn ∧ t.msixSent = s.msixSent)
        ∧ (x.cethr ≠ 0 → x.cethr.toNat < x.window → (t.sect n).warn = x.warn ||| 1 ∧ ((∀ y ∈ s.sections, y.autoPending = false) → (t.sect n).autoPending = x.warn.getLsbD 1
          ∧ (bitsOf x.warn.toNat 14 9 ∉ s.msixMask → s.linkUp = true → t.msixSent = s.msixSent ++ [bitsOf x.warn.toNat 14 9]))
          ∧ ((∃ y ∈ s.sections, y.autoPending = true) → t.msixSent = s.msixSent ∧ t.msixPend = s.msixPend ∧ t.blackBox = s.blackBox ∧ ∀ k, (t.sect k).autoPending = (s.sect k).autoPending)))

/-- R298, R305, R307, R317 and R318: the registers of a cox context: a write of PROG starts the checker, which loads a good image and nothing else; EN
takes effect for a loaded program while fewer than 257 records are bound, and lets a context that its own fault has stopped go on (log entry 64); QWRITE publishes the write index into the handle; TINV empties the cores'
translations of the ASID. -/
def Sys2Proof.Claims.QueueRegisters : Prop :=
  ∀ (x : CoxId) (s : State), let c := s.cox x
    (∀ v, BarOpen s → c.en = false → ∃ t, exec (.progWrite x v) s = .next t ∧ (t.cox x).prog = v ∧ (t.cox x).loaded = false ∧ (t.cox x).checking = some (v, c.ctxrec)
      ∧ (t.cox x).launches = 0 ∧ SameMemory s t)
    ∧ (∀ v, BarOpen s → c.en = true → ∃ t, exec (.progWrite x v) s = .next t ∧ t.coxes = s.coxes ∧ SameMemory s t)
    ∧ (∀ (va r : DWord) (bs : List Byte), c.checking = some (va, r) → Plain s x → va.toNat % 64 = 0 → bs.length = 144 + 4 * min 1024 (leNat (bs.take 2)) →
      (∀ i < bs.length, ∃ p, s.unitPa (BitVec.ofNat 16 (s.physNat r.toNat 2)) (va + BitVec.ofNat 64 i) 1 0 = .inr p ∧ (lineOf p).isSome = true ∧ bs[i]? = some (s.physByte p)) →
      ∃ t, exec (.progCheckComplete x) s = .next t ∧ (t.cox x).checking = none
        ∧ (∀ i, checkImage bs = .inl i → (t.cox x).loaded = c.loaded ∧ (t.cox x).code = c.code ∧ (t.cox x).windows = c.windows)
        ∧ (∀ code ws, checkImage bs = .inr (code, ws) → (t.cox x).loaded = true ∧ (t.cox x).code = code ∧ (t.cox x).windows = ws ∧ (t.cox x).x = List.replicate 16 0))
    ∧ (∀ v, BarOpen s → c.en = false → ∃ t, exec (.qctlEnSet x v) s = .next t ∧ (t.cox x).kind = v.getLsbD 1 ∧ SameMemory s t
      ∧ ((c.loaded = false ∨ (s.boot.tested = false ∧ x ≠ ⟨0, 15⟩)) → (t.cox x).en = false ∧ (t.cox x).norec = c.norec)
      ∧ (c.loaded = true → (s.boot.tested = true ∨ x = ⟨0, 15⟩) →
          (if c.ctxrec ∉ s.boundRecs ∧ 256 ≤ s.boundRecs.length then (t.cox x).en = false ∧ (t.cox x).norec = true
           else (t.cox x).en = true ∧ (t.cox x).norec = false ∧ (t.cox x).bound = some c.ctxrec
            ∧ (c.state = 0 → (t.cox x).state = if (s.asid (BitVec.ofNat 16 (s.physNat c.ctxrec.toNat 2))).halt then 4 else 1))))
    ∧ (∀ v, BarOpen s → c.en = true → c.state = 4 → c.haltStop = false → (s.asid (s.ctxAsid x)).halt = false →
      ∃ t, exec (.qctlEnSet x v) s = .next t ∧ (t.cox x).en = true ∧ (t.cox x).state = 1 ∧ (t.cox x).kind = c.kind ∧ SameMemory s t)
    ∧ (∀ v, BarOpen s → ∃ t, exec (.qctlEnClear x v) s = .next t ∧ (t.cox x).en = false ∧ SameMemory s t
      ∧ (c.en = true → (t.cox x).kind = c.kind ∧ (t.cox x).state = if c.state = 1 then 0 else c.state) ∧ (c.en = false → (t.cox x).kind = v.getLsbD 1))
    ∧ (∀ v pa, BarOpen s → c.kind = false → Plain s x → NothingRecorded s → s.unitPa (s.ctxAsid x) (c.qhandle + 16) 8 1 = .inr pa → (lineOf pa).isSome = true →
      ∃ t, exec (.qwriteWrite x v) s = .next t ∧ (t.cox x).qwrite = v ∧ t.physNat pa 8 = v.toNat)
    ∧ (∀ v, BarOpen s → c.kind = true → ∃ t, exec (.qwriteWrite x v) s = .next t ∧ t.coxes = s.coxes ∧ SameMemory s t)
    ∧ (∀ v, BarOpen s → ∃ t, exec (.tinvWrite x v) s = .next t ∧ (t.cox x).tinv = (c.tinv || v.getLsbD 0))
    ∧ (c.tinv = true → ∃ t, exec (.tinvDone x) s = .next t ∧ (t.cox x).tinv = false ∧ ∀ k ∈ t.cores, ∀ e ∈ k.tlb, e.asid ≠ s.ctxAsid x)

/-- R317, R333, R387, R389, R390, R430 and R460: CTXREC and RLOGBASE reset the log indices of their ASID; FSTAT lets a halted context go on or kills
it; RRGET frees recorder blocks; PCTL enables a port; BAR2BASE keeps to the window's size (log entry 69); a write of a reserved offset does nothing. -/
def Sys2Proof.Claims.ContextRegisters : Prop :=
  ∀ (x : CoxId) (s : State), BarOpen s →
    (∀ v, (s.cox x).en = false → ∃ t, exec (.ctxrecWrite x v) s = .next t ∧ (t.cox x).ctxrec = v ∧ (t.asid (BitVec.ofNat 16 (s.physNat v.toNat 2))).flogput = 0 ∧ SameMemory s t)
    ∧ (∀ v, (s.cox x).en = true → ∃ t, exec (.ctxrecWrite x v) s = .next t ∧ t.coxes = s.coxes ∧ t.asids = s.asids)
    ∧ (∀ v, ∃ t, exec (.rlogbaseWrite x v) s = .next t ∧ (t.asid (s.ctxAsid x)).rlogbase = v ∧ (t.asid (s.ctxAsid x)).rlogput = 0 ∧ SameMemory s t)
    ∧ ((s.asid (s.ctxAsid x)).halt = false → ∀ i ∈ [Instr.fstatHaltWrite x, .fstatKillWrite x], ∃ t, exec i s = .next t ∧ t.groups = s.groups ∧ t.asids = s.asids
      ∧ t.launches = s.launches)
    ∧ ((s.asid (s.ctxAsid x)).halt = true → (s.groups.map (fun g => g.gid)).Nodup →
      (∃ t, exec (.fstatHaltWrite x) s = .next t ∧ (t.asid (s.ctxAsid x)).halt = false
        ∧ ∀ b y, (b, y) ∈ s.allBlocks → s.block? b = some y → s.asidOf b.g = s.ctxAsid x → y.ended = false → ∃ z, t.block? b = some z ∧ z.stop = .run)
      ∧ (∃ t, exec (.fstatKillWrite x) s = .next t ∧ (t.asid (s.ctxAsid x)).halt = false
        ∧ ∀ l ∈ s.launches, l.asid = s.ctxAsid x → l.isOpen = true → (s.launches.map (fun l => l.idx)).Nodup → (∀ g ∈ t.groups, g.launch ≠ l.idx)
          ∧ (∀ w ∈ t.waiting, WEntry.launch l.idx ∉ w) ∧ ∃ m, t.launch? l.idx = some m ∧ m.isOpen = false))
    ∧ (∀ h v, h < s.hubs.length → (s.hub h).recd.held = [] → ∃ t, exec (.rrgetWrite h v) s = .next t ∧ (t.hub h).recd.rrget = v ∧ (t.hub h).recd.rrput = (s.hub h).recd.rrput)
    ∧ (∀ p v, ∃ t, exec (.pctlEnWrite p v) s = .next t ∧ (t.port p).en = v.getLsbD 0 ∧ (t.port p).pvec = bitsOf v.toNat 6 1
      ∧ (v.getLsbD 0 = true → (s.port p).st ∈ [0, 4] → (t.port p).st = 1) ∧ (v.getLsbD 0 = false → (s.port p).st = 1 → (t.port p).st = 0)
      ∧ (v.getLsbD 0 = false → (s.port p).st = 2 → (t.port p).st = 3 ∧ (t.port p).cause = 5))
    ∧ (∀ v, ∃ t, exec (.registerWrite 0x08 v) s = .next t ∧ t.chip = v.extractLsb' 0 8 ∧ SameMemory s t)
    ∧ (∀ v, ∃ t, exec (.registerWrite 0x10 v) s = .next t ∧ t.bar2.toNat = v.toNat - v.toNat % 2 ^ s.bar2Log ∧ SameMemory s t)
    ∧ (∀ p v, p < 48 → (∃ t, exec (.registerWrite (0x330010 + 64 * p) v) s = .next t ∧ (t.port p).crcerr = v)
      ∧ ∃ t, exec (.registerWrite (0x330018 + 64 * p) v) s = .next t ∧ (t.port p).retries = v)
    ∧ (∀ h v, h < 6 → h < s.sections.length → ∃ t, exec (.registerWrite (0x320018 + 256 * h) v) s = .next t ∧ (t.sect h).estat = (s.sect h).estat &&& ~~~v)
    ∧ (∀ off v, off ∈ [0x00, 0x18, 0x38, 0x1100, 0x200050, 0x300030, 0x320038] → exec (.registerWrite off v) s = .next { s with hostS := s.hostS + 1 })

/-- R298, R305, R307, R317, R318, R333, R387, R389, R390, R430 and R460: queues and contexts over BAR 0. -/
def Obligations.RegistersWork : Prop := QueueRegisters ∧ ContextRegisters

/-- R315, R316, R465 and R466: host accesses through BAR 2 reach HBM at BAR2BASE plus the offset, and set HOSTSTAT where nothing backs them; the
link's loss drops host writes and changes nothing else; a pending interrupt leaves once it may; the time base is stepped or slewed. The model's own in this: an access with any byte without backing is without
backing as a whole (log entry 54), an access beyond the window is unsupported and has no effect (log entry 69), a hot reset leaves the link down and a PTM update takes
the place of the slew that is pending (log entry 57). -/
def Obligations.HostLinkWorks : Prop :=
  (∀ (s : State) (off : Nat) (data : List Byte) (l : LineId) (i : Nat), BarOpen s → off + data.length ≤ 2 ^ s.bar2Log → s.bar2Backed off data.length = true → s.hostChunk = none → s.racingAsids = [] → NothingRecorded s →
    data ≠ [] → lineOf (s.bar2.toNat + off) = some (l, i) → (s.bar2.toNat + off) % 128 = i → i + data.length ≤ 128 → (s.homeLine l).uo = none → (s.homeLine l).bad = none →
    (s.homeLine l).holders = [] → s.marked l = false → (∀ n, s.l1Line n l = none) →
    (∃ t, exec (.hostBar2Write off data) s = .next t ∧ t.mem.readN (l.key + i) data.length = data
      ∧ ∀ k, (k < l.key + i ∨ l.key + i + data.length ≤ k) → t.mem.read k = s.mem.read k)
    ∧ ∃ t, exec (.hostBar2Read off data.length) s = .next t ∧ t.hostOut = s.hostOut ++ [.read (s.mem.readN (l.key + i) data.length)] ∧ t.mem = s.mem)
  ∧ (∀ (s : State) (off : Nat) (data : List Byte), BarOpen s → off + data.length ≤ 2 ^ s.bar2Log → s.bar2Backed off data.length = false →
    (∃ t, exec (.hostBar2Write off data) s = .next t ∧ t.bar2ur = true ∧ t.mem = s.mem ∧ (s.bar2ur = false → t.hostUrOff = BitVec.ofNat 64 off))
    ∧ ∃ t, exec (.hostBar2Read off data.length) s = .next t ∧ t.bar2ur = true ∧ t.mem = s.mem ∧ t.hostOut = s.hostOut ++ [.unsupported])
  ∧ (∀ (s : State) (off : Nat) (data : List Byte), s.linkUp = true → 2 ^ s.bar2Log < off + data.length →
    exec (.hostBar2Write off data) s = .next s ∧ ∃ t, exec (.hostBar2Read off data.length) s = .next t ∧ t.mem = s.mem ∧ t.hostOut = s.hostOut ++ [.unsupported])
  ∧ (∀ (s : State), exec .hostLinkDown s = .next { s with linkUp := false } ∧ exec .hostLinkReset s = .next { s with linkUp := false })
  ∧ (∀ (s : State) (x : CoxId) (v : DWord) (n : Nat) (i : Instr), s.linkUp = false → BarInstr x v n i → exec i s = .next s)
  ∧ (∀ (s : State), ∃ t, exec .hostLinkUp s = .next t ∧ t.linkUp = true ∧ SameMemory s t ∧ t.groups = s.groups
    ∧ (∀ v ∈ t.msixPend, v ∈ s.msixMask) ∧ ∀ v ∈ s.msixPend, v ∉ s.msixMask → v ∈ t.msixSent)
  ∧ (∀ (s : State) (v : Nat), ∃ t, exec (.msixVectorUnmask v) s = .next t ∧ v ∉ t.msixMask ∧ (s.linkUp = true → v ∈ s.msixPend → v ∈ t.msixSent ∧ v ∉ t.msixPend)
    ∧ (s.linkUp = false → t.msixPend = s.msixPend ∧ t.msixSent = s.msixSent))
  ∧ (∀ (s : State) (host : DWord), s.linkUp = true → ∃ t, exec (.ptmUpdate host) s = .next t
    ∧ (if 1000000 < (host - s.time).toInt then t.time = host else t.time = s.time ∧ t.slew = host - s.time))

/-- R322, R456, R465, R467 to R470: power-on reset and PERST# give the state after reset, PERST# with the black box kept and both with the boot flash;
recovery verifies the staged image, writes it and resets, or runs it for this boot; the self-test's controllers write their words and READY bit 1 follows
from the summary. That GO clears REASON and that power-on clears HBM is log entry 55. -/
def Sys2Proof.Claims.BootWorks : Prop :=
  (∀ (s : State), exec .powerOnReset s = .next { State.reset with boot := { Boot.reset with flash := s.boot.flash, flashCut := s.boot.flashCut } })
  ∧ (∀ (s : State), ∃ cut, exec .perst s = .next { State.reset with boot := { Boot.reset with flash := s.boot.flash, flashCut := cut }, blackBox := s.blackBox }
    ∧ (cut = true ↔ s.boot.flashCut = true ∨ (s.boot.rcvState = 4 ∧ s.boot.firmware = false)))
  ∧ (∀ (s : State), s.linkUp = true → ∃ t, exec .rcvctlGo s = .next t ∧ (s.boot.rcvState ∈ [1, 3] → s.boot.firmware = false → t.boot.rcvState = 2 ∧ t.boot.reason = 0)
    ∧ (s.boot.rcvState ∉ [1, 3] → t.boot = s.boot))
  ∧ (∀ (s : State), s.boot.rcvState = 2 → ∃ t, exec .imageVerifyComplete s = .next t
    ∧ let r := imageReason (some (s.boot.staging.readN 0 s.boot.rcvLen.toNat))
      if r = 0 then t.boot.rcvState = 4 else t.boot.rcvState = 3 ∧ t.boot.reason = r)
  ∧ (∀ (s : State), s.boot.rcvState = 4 → s.boot.firmware = false →
    (∃ t, exec (.flashWriteComplete true) s = .next t ∧ t.boot.flash = some (s.boot.staging.readN 0 s.boot.rcvLen.toNat) ∧ t.boot.flashCut = false ∧ t.boot.firmware = false
      ∧ t.boot.rcvState = 0 ∧ t.blackBox = s.blackBox ∧ t.mem = State.reset.mem ∧ t.groups = [])
    ∧ ∃ t, exec (.flashWriteComplete false) s = .next t ∧ t.boot.firmware = true ∧ t.boot.reason = 5 ∧ t.boot.flash = s.boot.flash)
  ∧ (∀ (s : State) (core q : Nat) (l m : LineId), core < 576 → q < 4 → s.boot.firmware = true → s.boot.tested = false → lineOf (s.boot.table.toNat + 256 * core + 128) = some (l, 0) →
    lineOf (s.boot.table.toNat + 147456) = some (m, 0) → l ≠ m → ∃ t, exec (.selftestControllerRun core q) s = .next t
      ∧ ∀ b < 4, leNat (t.mem.readN (l.key + 16 * q + 4 * b) 4) = (bankWord (Config.failingRows core q b)).toNat)
  ∧ (∀ (s : State), s.boot.firmware = true → s.boot.tested = false → (∀ l ∈ s.launches, l.cox = ⟨0, 15⟩ → l.isOpen = false) → (s.cox ⟨0, 15⟩).en = true →
    let sum := BitVec.ofNat 64 (s.physNat (s.boot.table.toNat + 147456) 8)
    ∃ t, exec .selftestFinish s = .next t ∧ t.boot.selftest = sum ∧ t.boot.tested = !sum.getLsbD 33 ∧ t.boot.slot3 = Config.sha256 (s.physRead s.boot.table.toNat 147456)
      ∧ (t.cox ⟨0, 15⟩).en = false ∧ t.mem = s.mem)

/-- R323, R324 and R353: the identity requests, the power cap, and the black box of a die. The SPDM payloads, and what a signature covers, are log entry 56's;
the oldest entry of a black box is read first (log entry 50). -/
def Sys2Proof.Claims.ManagementAnswers : Prop :=
  (∀ (s : State) (i : Instr) (m : Spdm), SpdmRule i m → ∃ t, exec i s = .next t ∧ Answers s t m)
  ∧ (∀ (s : State) (off len : Nat), ∃ t, exec (.getCertificate off len) s = .next t
    ∧ Answers s t (.certificate ((Config.certificate.drop off).take len) (Config.certificate.length - off - len)))
  ∧ (∀ (s : State) (nonce : List Byte), ∃ t, exec (.challenge nonce) s = .next t
    ∧ Answers s t (.challengeAuth (Config.sha256 Config.certificate) (identitySig (nonce ++ leBytes 32 (Config.sha256 Config.certificate).toNat))))
  ∧ (∀ (s : State) (index : Nat) (signed : Bool) (nonce : List Byte), ∃ t, exec (.getMeasurements index signed nonce) s = .next t
    ∧ Answers s t (if slotsOf index = [] then .error else .measurements ((slotsOf index).map (fun i => (i, slotRule s i)))
        (if signed then some (identitySig (nonce ++ slotBytes s (slotsOf index))) else none)))
  ∧ (∀ (s : State) (h q : Nat), ∃ t, exec (.chunkGet h q) s = .next t
    ∧ let part := (s.spdmChunk.drop (max 1 Config.transportSize * q)).take (max 1 Config.transportSize)
      t.hostOut = s.hostOut ++ [.spdm (if part = [] ∨ s.boot.firmware = false then .error else .chunk h q part)])
  ∧ (∀ (s : State) (w : Nat), ∃ t, exec (.powerCapSet w) s = .next t ∧ t.powerCap = (if 4000 ≤ w ∧ w ≤ 8800 then w else s.powerCap) ∧ SameMemory s t)
  ∧ (∀ (s : State) (d : Nat), ∃ t, exec (.blackBoxRead d) s = .next t ∧ t.hostOut = s.hostOut ++ [.blackBox ((s.blackBox.filter (fun e => e.die == d)).map BBEntry.bytes)] ∧ SameMemory s t)

/-- R322 to R324, R353, R456, R465 and R467 to R470: boot, recovery and management. The model's own in this: GO clears REASON and power-on clears HBM
(log entry 55), and the payloads of SPDM and what a signature covers (log entry 56). -/
def Obligations.BootAndManagement : Prop := BootWorks ∧ ManagementAnswers

/-- R65 to R77 and R304: what the decoder reads from the words of a well-formed instruction is that instruction, whatever bytes follow in the fetch
block. -/
def Sys2Proof.Claims.DecodeEncode : Prop :=
  (∀ (i : Instr) (rest : List Byte), i.wellFormed = true → opcodeOf i ≠ none → decodeThread (wordsBytes (encode i) ++ rest) = .inr i)
  ∧ (∀ (i : Instr) (w : Word), encodeCox i = some w → encode i = [w] ∧ decodeCox w = some i)

/-- R68, R78, R304 and R307: a word that decodes is the encoding of what it decodes to, so no bit of it is dropped, and its instruction is well formed. -/
def Sys2Proof.Claims.DecodedWellFormed : Prop :=
  (∀ (bs : List Byte) (i : Instr), decodeThread bs = .inr i → i.wellFormed = true ∧ opcodeOf i ≠ none ∧ ∃ rest, bs = wordsBytes (encode i) ++ rest)
  ∧ (∀ (w : Word) (i : Instr), decodeCox w = some i → i.wellFormed = true ∧ opcodeOf i = none ∧ encode i = [w])

/-- R65 to R78 and R304: decoding and encoding are inverse to each other. -/
def Obligations.EncodingExact : Prop := DecodeEncode ∧ DecodedWellFormed

/-- Words of the spec's worked encodings (R86, 06 to 10 and 14) and the instructions they stand for. -/
def Obligations.DecodeWords : Prop :=
  decodeThread (leBytes 8 0x06080B81230E3004) = .inr (.iadd { noOps with flag := some 7, wait := 0x024, stall := 3, guard := ⟨7, 3, false⟩, vd := ⟨false, 1⟩, vs1 := ⟨false, 2⟩, vs2 := ⟨false, 3⟩ })
  ∧ decodeThread [0xC1, 0, 0, 0, 0x80, 0x0F, 8, 0, 0x64, 0, 0, 0] = .inr (.iaddI { noOps with len := .w96, vd := ⟨false, 1⟩, vs1 := ⟨false, 2⟩, imm := 100 })
  ∧ decodeThread [0x02, 4, 0, 0, 0x80, 0x40, 8, 8, 0, 0x60, 0, 0x14, 0x10, 0, 0, 0]
      = .inr (.ld { noOps with len := .w128, flag := some 1, vd := ⟨false, 8⟩, vs1 := ⟨false, 2⟩, vs2 := ⟨false, 4⟩, mod := 0x2800C, imm := 16 })
  ∧ decodeThread [0x28, 6, 0, 0, 0x80, 0x11, 0x10, 0x0A] = .inr (.mma { noOps with flag := some 3, vd := ⟨false, 2⟩, vs1 := ⟨false, 4⟩, vs2 := ⟨false, 5⟩ })
  ∧ decodeThread [0x20, 7, 0, 0, 0, 0x31, 0x88, 0] = .inr (.movs { noOps with flag := some 2, vd := ⟨false, 6⟩, vs1 := ⟨false, 0x22⟩ })
  ∧ decodeThread [0x29, 3, 0, 0, 0x80, 7, 0, 0, 0, 0, 0, 2] = .inr (.resume { noOps with len := .w96, mod := 0x4000 })
  ∧ decodeThread [0x05, 7, 0, 0, 0, 2, 0x40, 4, 0x18, 7, 0x60, 1]
      = .inr (.xloop { noOps with len := .w96, flag := some 4, vs1 := ⟨true, 16⟩, vs2 := ⟨true, 2⟩, vs3 := ⟨true, 24⟩, mod := 0x2C00 })
  ∧ decodeCox 0x480D0002 = some (.coxBne 3 4 2) ∧ decodeCox 0x41400000 = some (.coxAtadd 5 0 0 0) ∧ decodeCox 0x30400000 = some (.coxPkr 1 0)

/-- R29, R302, R304 and R394: with the instruction's bytes at the PC of the pass, or its word at the pc of the context, a step is `exec` of it; with bytes that
are no instruction each thread of the pass meets NOTINSTR. An event that is due runs by its own `exec`, off the agenda; a ready
context has its turn unless its hub has executed four cox instructions in this hub cycle. -/
def Obligations.StepRuns : Prop :=
  (∀ (s : State) (p : Pass) (c : Crew) (i : Instr) (rest : List Byte), s.focus = .pass p → s.crew? p.crew = some c → i.wellFormed = true → opcodeOf i ≠ none →
    s.fetchBytes (s.coreOf p.crew.block) (s.asidOf p.crew.g) p.pc = some (wordsBytes (encode i) ++ rest) → step s = exec i s)
  ∧ (∀ (s : State) (x : CoxId) (i : Instr) (w : Word), s.focus = .cox x → (s.cox x).code[(s.cox x).pc]? = some w → encodeCox i = some w → step s = exec i s)
  ∧ (∀ (s : State) (i : Instr) (rest : List Turn), s.focus = .none → s.agenda = ⟨0, .event i⟩ :: rest → step s = exec i { s with agenda := rest })
  ∧ (∀ (s : State) (x : CoxId) (rest : List Turn), s.focus = .none → s.agenda = ⟨0, .cox x⟩ :: rest → x.ctx < 16 → (∀ u ∈ rest, ∀ c, u.act ≠ .cox ⟨x.hub, c⟩) →
    ((s.hub x.hub).coxCycle ≠ s.hubCycle ∨ (s.hub x.hub).coxCount < 4 → ∃ t, step s = .next t ∧ t.focus = .cox x ∧ t.agenda = rest ∧ t.cox x = s.cox x
      ∧ (x.hub < s.hubs.length → (t.hub x.hub).coxLast = x.ctx ∧ (t.hub x.hub).coxCycle = s.hubCycle))
    ∧ ((s.hub x.hub).coxCycle = s.hubCycle → 4 ≤ (s.hub x.hub).coxCount → ∃ t, step s = .next t ∧ t.focus = .none ∧ t.cox x = s.cox x ∧ ∃ u ∈ t.agenda, u.act = .cox x))
  ∧ (∀ (s : State) (p : Pass) (bs : List Byte) (n : Nat), s.focus = .pass p → (s.crew? p.crew).isSome = true → p.lanes.Nodup → s.replays p.crew.g = false →
    s.fetchBytes (s.coreOf p.crew.block) (s.asidOf p.crew.g) p.pc = some bs → decodeThread bs = .inl n →
    ∃ t, step s = .next t ∧ t.focus = .none ∧ ∀ k ∈ p.lanes, ∀ x, s.thread? (p.crew.thread k) = some x → TakesTrap x → x.faults = [] →
      ∃ y, t.thread? (p.crew.thread k) = some y ∧ Trapped x y (BitVec.ofNat 32 (1 * 2 ^ 8 + 1 + n * 2 ^ 16)) (BitVec.ofNat 64 (leNat (bs.take 8))) p.pc)

/-- Every step keeps the fixed parts of the package, its six hubs, its six sections and its eight waiting lists (R16, R21, R280), and the canonical form of HBM and of
the staging area of recovery, which is the model's choice (log entry 4). -/
def Obligations.StepKeepsInv : Prop := ∀ (s t : State), s.Inv → step s = .next t → t.Inv

/-- The package has its invariant at reset. -/
def Obligations.ResetInv : Prop := State.reset.Inv

/-- R9, R11: what a read of each BAR 0 offset returns after reset: the reset values that the register tables of 14 to 16, 20 and 22 to 26 give, zero but for
IDENT, RRSIZE, TRSIZE and SAMPK, and zero at reserved offsets; nothing is launched, resident or enabled; the power cap is 8,800 W (R324). -/
def Obligations.ResetValues : Prop :=
  (∀ off, off ≠ 0 → State.reset.readReg off =
    if off ∈ (List.range 6).map (fun h => 0x200008 + 256 * h) then 4 else if off ∈ (List.range 6).map (fun h => 0x300008 + 256 * h) then 1
    else if off ∈ (List.range 6).map (fun h => 0x300020 + 256 * h) then 16 else 0)
  ∧ (State.reset.readReg 0).extractLsb' 0 16 = 0xC24A ∧ (State.reset.readReg 0).extractLsb' 24 40 = 0
  ∧ (∀ x : CoxId, (State.reset.cox x).en = false ∧ (State.reset.cox x).loaded = false) ∧ State.reset.launches = [] ∧ State.reset.groups = []
  ∧ State.reset.powerCap = 8800 ∧ State.reset.focus = .none
end

