-- ==== Sys2Proof/Laws/State.lean ====
section
/-!
SUPPORT. What each update of the State leaves as it was, one lemma for each field, and what it puts into the field it is for.
-/
namespace Sys2Proof.Machine

/-! ## modGroup -/

@[simp] theorem State.modGroup_agenda (s : State) (g : Nat) (f : Group → Group) : (s.modGroup g f).agenda = s.agenda := rfl
@[simp] theorem State.modGroup_focus (s : State) (g : Nat) (f : Group → Group) : (s.modGroup g f).focus = s.focus := rfl
@[simp] theorem State.modGroup_rotor (s : State) (g : Nat) (f : Group → Group) : (s.modGroup g f).rotor = s.rotor := rfl
@[simp] theorem State.modGroup_fresh (s : State) (g : Nat) (f : Group → Group) : (s.modGroup g f).fresh = s.fresh := rfl
@[simp] theorem State.modGroup_serial (s : State) (g : Nat) (f : Group → Group) : (s.modGroup g f).serial = s.serial := rfl
@[simp] theorem State.modGroup_now (s : State) (g : Nat) (f : Group → Group) : (s.modGroup g f).now = s.now := rfl
@[simp] theorem State.modGroup_timeOff (s : State) (g : Nat) (f : Group → Group) : (s.modGroup g f).timeOff = s.timeOff := rfl
@[simp] theorem State.modGroup_slew (s : State) (g : Nat) (f : Group → Group) : (s.modGroup g f).slew = s.slew := rfl
@[simp] theorem State.modGroup_mem (s : State) (g : Nat) (f : Group → Group) : (s.modGroup g f).mem = s.mem := rfl
@[simp] theorem State.modGroup_l3 (s : State) (g : Nat) (f : Group → Group) : (s.modGroup g f).l3 = s.l3 := rfl
@[simp] theorem State.modGroup_hubs (s : State) (g : Nat) (f : Group → Group) : (s.modGroup g f).hubs = s.hubs := rfl
@[simp] theorem State.modGroup_sections (s : State) (g : Nat) (f : Group → Group) : (s.modGroup g f).sections = s.sections := rfl
@[simp] theorem State.modGroup_cores (s : State) (g : Nat) (f : Group → Group) : (s.modGroup g f).cores = s.cores := rfl
@[simp] theorem State.modGroup_coxes (s : State) (g : Nat) (f : Group → Group) : (s.modGroup g f).coxes = s.coxes := rfl
@[simp] theorem State.modGroup_asids (s : State) (g : Nat) (f : Group → Group) : (s.modGroup g f).asids = s.asids := rfl
@[simp] theorem State.modGroup_launches (s : State) (g : Nat) (f : Group → Group) : (s.modGroup g f).launches = s.launches := rfl
@[simp] theorem State.modGroup_waiting (s : State) (g : Nat) (f : Group → Group) : (s.modGroup g f).waiting = s.waiting := rfl
@[simp] theorem State.modGroup_reserved (s : State) (g : Nat) (f : Group → Group) : (s.modGroup g f).reserved = s.reserved := rfl
@[simp] theorem State.modGroup_walks (s : State) (g : Nat) (f : Group → Group) : (s.modGroup g f).walks = s.walks := rfl
@[simp] theorem State.modGroup_tags (s : State) (g : Nat) (f : Group → Group) : (s.modGroup g f).tags = s.tags := rfl
@[simp] theorem State.modGroup_hostO (s : State) (g : Nat) (f : Group → Group) : (s.modGroup g f).hostO = s.hostO := rfl
@[simp] theorem State.modGroup_hostS (s : State) (g : Nat) (f : Group → Group) : (s.modGroup g f).hostS = s.hostS := rfl
@[simp] theorem State.modGroup_hostCount (s : State) (g : Nat) (f : Group → Group) : (s.modGroup g f).hostCount = s.hostCount := rfl
@[simp] theorem State.modGroup_hostHeld (s : State) (g : Nat) (f : Group → Group) : (s.modGroup g f).hostHeld = s.hostHeld := rfl
@[simp] theorem State.modGroup_chip (s : State) (g : Nat) (f : Group → Group) : (s.modGroup g f).chip = s.chip := rfl
@[simp] theorem State.modGroup_bar2 (s : State) (g : Nat) (f : Group → Group) : (s.modGroup g f).bar2 = s.bar2 := rfl
@[simp] theorem State.modGroup_bar2Log (s : State) (g : Nat) (f : Group → Group) : (s.modGroup g f).bar2Log = s.bar2Log := rfl
@[simp] theorem State.modGroup_routes (s : State) (g : Nat) (f : Group → Group) : (s.modGroup g f).routes = s.routes := rfl
@[simp] theorem State.modGroup_bar2ur (s : State) (g : Nat) (f : Group → Group) : (s.modGroup g f).bar2ur = s.bar2ur := rfl
@[simp] theorem State.modGroup_hostUrOff (s : State) (g : Nat) (f : Group → Group) : (s.modGroup g f).hostUrOff = s.hostUrOff := rfl
@[simp] theorem State.modGroup_linkUp (s : State) (g : Nat) (f : Group → Group) : (s.modGroup g f).linkUp = s.linkUp := rfl
@[simp] theorem State.modGroup_msixMask (s : State) (g : Nat) (f : Group → Group) : (s.modGroup g f).msixMask = s.msixMask := rfl
@[simp] theorem State.modGroup_msixPend (s : State) (g : Nat) (f : Group → Group) : (s.modGroup g f).msixPend = s.msixPend := rfl
@[simp] theorem State.modGroup_msixSent (s : State) (g : Nat) (f : Group → Group) : (s.modGroup g f).msixSent = s.msixSent := rfl
@[simp] theorem State.modGroup_hostOut (s : State) (g : Nat) (f : Group → Group) : (s.modGroup g f).hostOut = s.hostOut := rfl
@[simp] theorem State.modGroup_spdmChunk (s : State) (g : Nat) (f : Group → Group) : (s.modGroup g f).spdmChunk = s.spdmChunk := rfl
@[simp] theorem State.modGroup_ports (s : State) (g : Nat) (f : Group → Group) : (s.modGroup g f).ports = s.ports := rfl
@[simp] theorem State.modGroup_peerOut (s : State) (g : Nat) (f : Group → Group) : (s.modGroup g f).peerOut = s.peerOut := rfl
@[simp] theorem State.modGroup_peerSent (s : State) (g : Nat) (f : Group → Group) : (s.modGroup g f).peerSent = s.peerSent := rfl
@[simp] theorem State.modGroup_peerHeld (s : State) (g : Nat) (f : Group → Group) : (s.modGroup g f).peerHeld = s.peerHeld := rfl
@[simp] theorem State.modGroup_foreign (s : State) (g : Nat) (f : Group → Group) : (s.modGroup g f).foreign = s.foreign := rfl
@[simp] theorem State.modGroup_peerChunks (s : State) (g : Nat) (f : Group → Group) : (s.modGroup g f).peerChunks = s.peerChunks := rfl
@[simp] theorem State.modGroup_remoteLu (s : State) (g : Nat) (f : Group → Group) : (s.modGroup g f).remoteLu = s.remoteLu := rfl
@[simp] theorem State.modGroup_jobChips (s : State) (g : Nat) (f : Group → Group) : (s.modGroup g f).jobChips = s.jobChips := rfl
@[simp] theorem State.modGroup_dbg (s : State) (g : Nat) (f : Group → Group) : (s.modGroup g f).dbg = s.dbg := rfl
@[simp] theorem State.modGroup_blackBox (s : State) (g : Nat) (f : Group → Group) : (s.modGroup g f).blackBox = s.blackBox := rfl
@[simp] theorem State.modGroup_faultsNow (s : State) (g : Nat) (f : Group → Group) : (s.modGroup g f).faultsNow = s.faultsNow := rfl
@[simp] theorem State.modGroup_racesNow (s : State) (g : Nat) (f : Group → Group) : (s.modGroup g f).racesNow = s.racesNow := rfl
@[simp] theorem State.modGroup_divsNow (s : State) (g : Nat) (f : Group → Group) : (s.modGroup g f).divsNow = s.divsNow := rfl
@[simp] theorem State.modGroup_boot (s : State) (g : Nat) (f : Group → Group) : (s.modGroup g f).boot = s.boot := rfl
@[simp] theorem State.modGroup_powerCap (s : State) (g : Nat) (f : Group → Group) : (s.modGroup g f).powerCap = s.powerCap := rfl

/-! ## modBlock -/

@[simp] theorem State.modBlock_agenda (s : State) (b : BRef) (f : Block → Block) : (s.modBlock b f).agenda = s.agenda := rfl
@[simp] theorem State.modBlock_focus (s : State) (b : BRef) (f : Block → Block) : (s.modBlock b f).focus = s.focus := rfl
@[simp] theorem State.modBlock_rotor (s : State) (b : BRef) (f : Block → Block) : (s.modBlock b f).rotor = s.rotor := rfl
@[simp] theorem State.modBlock_fresh (s : State) (b : BRef) (f : Block → Block) : (s.modBlock b f).fresh = s.fresh := rfl
@[simp] theorem State.modBlock_serial (s : State) (b : BRef) (f : Block → Block) : (s.modBlock b f).serial = s.serial := rfl
@[simp] theorem State.modBlock_now (s : State) (b : BRef) (f : Block → Block) : (s.modBlock b f).now = s.now := rfl
@[simp] theorem State.modBlock_timeOff (s : State) (b : BRef) (f : Block → Block) : (s.modBlock b f).timeOff = s.timeOff := rfl
@[simp] theorem State.modBlock_slew (s : State) (b : BRef) (f : Block → Block) : (s.modBlock b f).slew = s.slew := rfl
@[simp] theorem State.modBlock_mem (s : State) (b : BRef) (f : Block → Block) : (s.modBlock b f).mem = s.mem := rfl
@[simp] theorem State.modBlock_l3 (s : State) (b : BRef) (f : Block → Block) : (s.modBlock b f).l3 = s.l3 := rfl
@[simp] theorem State.modBlock_hubs (s : State) (b : BRef) (f : Block → Block) : (s.modBlock b f).hubs = s.hubs := rfl
@[simp] theorem State.modBlock_sections (s : State) (b : BRef) (f : Block → Block) : (s.modBlock b f).sections = s.sections := rfl
@[simp] theorem State.modBlock_cores (s : State) (b : BRef) (f : Block → Block) : (s.modBlock b f).cores = s.cores := rfl
@[simp] theorem State.modBlock_coxes (s : State) (b : BRef) (f : Block → Block) : (s.modBlock b f).coxes = s.coxes := rfl
@[simp] theorem State.modBlock_asids (s : State) (b : BRef) (f : Block → Block) : (s.modBlock b f).asids = s.asids := rfl
@[simp] theorem State.modBlock_launches (s : State) (b : BRef) (f : Block → Block) : (s.modBlock b f).launches = s.launches := rfl
@[simp] theorem State.modBlock_waiting (s : State) (b : BRef) (f : Block → Block) : (s.modBlock b f).waiting = s.waiting := rfl
@[simp] theorem State.modBlock_reserved (s : State) (b : BRef) (f : Block → Block) : (s.modBlock b f).reserved = s.reserved := rfl
@[simp] theorem State.modBlock_walks (s : State) (b : BRef) (f : Block → Block) : (s.modBlock b f).walks = s.walks := rfl
@[simp] theorem State.modBlock_tags (s : State) (b : BRef) (f : Block → Block) : (s.modBlock b f).tags = s.tags := rfl
@[simp] theorem State.modBlock_hostO (s : State) (b : BRef) (f : Block → Block) : (s.modBlock b f).hostO = s.hostO := rfl
@[simp] theorem State.modBlock_hostS (s : State) (b : BRef) (f : Block → Block) : (s.modBlock b f).hostS = s.hostS := rfl
@[simp] theorem State.modBlock_hostCount (s : State) (b : BRef) (f : Block → Block) : (s.modBlock b f).hostCount = s.hostCount := rfl
@[simp] theorem State.modBlock_hostHeld (s : State) (b : BRef) (f : Block → Block) : (s.modBlock b f).hostHeld = s.hostHeld := rfl
@[simp] theorem State.modBlock_chip (s : State) (b : BRef) (f : Block → Block) : (s.modBlock b f).chip = s.chip := rfl
@[simp] theorem State.modBlock_bar2 (s : State) (b : BRef) (f : Block → Block) : (s.modBlock b f).bar2 = s.bar2 := rfl
@[simp] theorem State.modBlock_bar2Log (s : State) (b : BRef) (f : Block → Block) : (s.modBlock b f).bar2Log = s.bar2Log := rfl
@[simp] theorem State.modBlock_routes (s : State) (b : BRef) (f : Block → Block) : (s.modBlock b f).routes = s.routes := rfl
@[simp] theorem State.modBlock_bar2ur (s : State) (b : BRef) (f : Block → Block) : (s.modBlock b f).bar2ur = s.bar2ur := rfl
@[simp] theorem State.modBlock_hostUrOff (s : State) (b : BRef) (f : Block → Block) : (s.modBlock b f).hostUrOff = s.hostUrOff := rfl
@[simp] theorem State.modBlock_linkUp (s : State) (b : BRef) (f : Block → Block) : (s.modBlock b f).linkUp = s.linkUp := rfl
@[simp] theorem State.modBlock_msixMask (s : State) (b : BRef) (f : Block → Block) : (s.modBlock b f).msixMask = s.msixMask := rfl
@[simp] theorem State.modBlock_msixPend (s : State) (b : BRef) (f : Block → Block) : (s.modBlock b f).msixPend = s.msixPend := rfl
@[simp] theorem State.modBlock_msixSent (s : State) (b : BRef) (f : Block → Block) : (s.modBlock b f).msixSent = s.msixSent := rfl
@[simp] theorem State.modBlock_hostOut (s : State) (b : BRef) (f : Block → Block) : (s.modBlock b f).hostOut = s.hostOut := rfl
@[simp] theorem State.modBlock_spdmChunk (s : State) (b : BRef) (f : Block → Block) : (s.modBlock b f).spdmChunk = s.spdmChunk := rfl
@[simp] theorem State.modBlock_ports (s : State) (b : BRef) (f : Block → Block) : (s.modBlock b f).ports = s.ports := rfl
@[simp] theorem State.modBlock_peerOut (s : State) (b : BRef) (f : Block → Block) : (s.modBlock b f).peerOut = s.peerOut := rfl
@[simp] theorem State.modBlock_peerSent (s : State) (b : BRef) (f : Block → Block) : (s.modBlock b f).peerSent = s.peerSent := rfl
@[simp] theorem State.modBlock_peerHeld (s : State) (b : BRef) (f : Block → Block) : (s.modBlock b f).peerHeld = s.peerHeld := rfl
@[simp] theorem State.modBlock_foreign (s : State) (b : BRef) (f : Block → Block) : (s.modBlock b f).foreign = s.foreign := rfl
@[simp] theorem State.modBlock_peerChunks (s : State) (b : BRef) (f : Block → Block) : (s.modBlock b f).peerChunks = s.peerChunks := rfl
@[simp] theorem State.modBlock_remoteLu (s : State) (b : BRef) (f : Block → Block) : (s.modBlock b f).remoteLu = s.remoteLu := rfl
@[simp] theorem State.modBlock_jobChips (s : State) (b : BRef) (f : Block → Block) : (s.modBlock b f).jobChips = s.jobChips := rfl
@[simp] theorem State.modBlock_dbg (s : State) (b : BRef) (f : Block → Block) : (s.modBlock b f).dbg = s.dbg := rfl
@[simp] theorem State.modBlock_blackBox (s : State) (b : BRef) (f : Block → Block) : (s.modBlock b f).blackBox = s.blackBox := rfl
@[simp] theorem State.modBlock_faultsNow (s : State) (b : BRef) (f : Block → Block) : (s.modBlock b f).faultsNow = s.faultsNow := rfl
@[simp] theorem State.modBlock_racesNow (s : State) (b : BRef) (f : Block → Block) : (s.modBlock b f).racesNow = s.racesNow := rfl
@[simp] theorem State.modBlock_divsNow (s : State) (b : BRef) (f : Block → Block) : (s.modBlock b f).divsNow = s.divsNow := rfl
@[simp] theorem State.modBlock_boot (s : State) (b : BRef) (f : Block → Block) : (s.modBlock b f).boot = s.boot := rfl
@[simp] theorem State.modBlock_powerCap (s : State) (b : BRef) (f : Block → Block) : (s.modBlock b f).powerCap = s.powerCap := rfl

/-! ## modCrew -/

@[simp] theorem State.modCrew_agenda (s : State) (c : CRef) (f : Crew → Crew) : (s.modCrew c f).agenda = s.agenda := rfl
@[simp] theorem State.modCrew_focus (s : State) (c : CRef) (f : Crew → Crew) : (s.modCrew c f).focus = s.focus := rfl
@[simp] theorem State.modCrew_rotor (s : State) (c : CRef) (f : Crew → Crew) : (s.modCrew c f).rotor = s.rotor := rfl
@[simp] theorem State.modCrew_fresh (s : State) (c : CRef) (f : Crew → Crew) : (s.modCrew c f).fresh = s.fresh := rfl
@[simp] theorem State.modCrew_serial (s : State) (c : CRef) (f : Crew → Crew) : (s.modCrew c f).serial = s.serial := rfl
@[simp] theorem State.modCrew_now (s : State) (c : CRef) (f : Crew → Crew) : (s.modCrew c f).now = s.now := rfl
@[simp] theorem State.modCrew_timeOff (s : State) (c : CRef) (f : Crew → Crew) : (s.modCrew c f).timeOff = s.timeOff := rfl
@[simp] theorem State.modCrew_slew (s : State) (c : CRef) (f : Crew → Crew) : (s.modCrew c f).slew = s.slew := rfl
@[simp] theorem State.modCrew_mem (s : State) (c : CRef) (f : Crew → Crew) : (s.modCrew c f).mem = s.mem := rfl
@[simp] theorem State.modCrew_l3 (s : State) (c : CRef) (f : Crew → Crew) : (s.modCrew c f).l3 = s.l3 := rfl
@[simp] theorem State.modCrew_hubs (s : State) (c : CRef) (f : Crew → Crew) : (s.modCrew c f).hubs = s.hubs := rfl
@[simp] theorem State.modCrew_sections (s : State) (c : CRef) (f : Crew → Crew) : (s.modCrew c f).sections = s.sections := rfl
@[simp] theorem State.modCrew_cores (s : State) (c : CRef) (f : Crew → Crew) : (s.modCrew c f).cores = s.cores := rfl
@[simp] theorem State.modCrew_coxes (s : State) (c : CRef) (f : Crew → Crew) : (s.modCrew c f).coxes = s.coxes := rfl
@[simp] theorem State.modCrew_asids (s : State) (c : CRef) (f : Crew → Crew) : (s.modCrew c f).asids = s.asids := rfl
@[simp] theorem State.modCrew_launches (s : State) (c : CRef) (f : Crew → Crew) : (s.modCrew c f).launches = s.launches := rfl
@[simp] theorem State.modCrew_waiting (s : State) (c : CRef) (f : Crew → Crew) : (s.modCrew c f).waiting = s.waiting := rfl
@[simp] theorem State.modCrew_reserved (s : State) (c : CRef) (f : Crew → Crew) : (s.modCrew c f).reserved = s.reserved := rfl
@[simp] theorem State.modCrew_walks (s : State) (c : CRef) (f : Crew → Crew) : (s.modCrew c f).walks = s.walks := rfl
@[simp] theorem State.modCrew_tags (s : State) (c : CRef) (f : Crew → Crew) : (s.modCrew c f).tags = s.tags := rfl
@[simp] theorem State.modCrew_hostO (s : State) (c : CRef) (f : Crew → Crew) : (s.modCrew c f).hostO = s.hostO := rfl
@[simp] theorem State.modCrew_hostS (s : State) (c : CRef) (f : Crew → Crew) : (s.modCrew c f).hostS = s.hostS := rfl
@[simp] theorem State.modCrew_hostCount (s : State) (c : CRef) (f : Crew → Crew) : (s.modCrew c f).hostCount = s.hostCount := rfl
@[simp] theorem State.modCrew_hostHeld (s : State) (c : CRef) (f : Crew → Crew) : (s.modCrew c f).hostHeld = s.hostHeld := rfl
@[simp] theorem State.modCrew_chip (s : State) (c : CRef) (f : Crew → Crew) : (s.modCrew c f).chip = s.chip := rfl
@[simp] theorem State.modCrew_bar2 (s : State) (c : CRef) (f : Crew → Crew) : (s.modCrew c f).bar2 = s.bar2 := rfl
@[simp] theorem State.modCrew_bar2Log (s : State) (c : CRef) (f : Crew → Crew) : (s.modCrew c f).bar2Log = s.bar2Log := rfl
@[simp] theorem State.modCrew_routes (s : State) (c : CRef) (f : Crew → Crew) : (s.modCrew c f).routes = s.routes := rfl
@[simp] theorem State.modCrew_bar2ur (s : State) (c : CRef) (f : Crew → Crew) : (s.modCrew c f).bar2ur = s.bar2ur := rfl
@[simp] theorem State.modCrew_hostUrOff (s : State) (c : CRef) (f : Crew → Crew) : (s.modCrew c f).hostUrOff = s.hostUrOff := rfl
@[simp] theorem State.modCrew_linkUp (s : State) (c : CRef) (f : Crew → Crew) : (s.modCrew c f).linkUp = s.linkUp := rfl
@[simp] theorem State.modCrew_msixMask (s : State) (c : CRef) (f : Crew → Crew) : (s.modCrew c f).msixMask = s.msixMask := rfl
@[simp] theorem State.modCrew_msixPend (s : State) (c : CRef) (f : Crew → Crew) : (s.modCrew c f).msixPend = s.msixPend := rfl
@[simp] theorem State.modCrew_msixSent (s : State) (c : CRef) (f : Crew → Crew) : (s.modCrew c f).msixSent = s.msixSent := rfl
@[simp] theorem State.modCrew_hostOut (s : State) (c : CRef) (f : Crew → Crew) : (s.modCrew c f).hostOut = s.hostOut := rfl
@[simp] theorem State.modCrew_spdmChunk (s : State) (c : CRef) (f : Crew → Crew) : (s.modCrew c f).spdmChunk = s.spdmChunk := rfl
@[simp] theorem State.modCrew_ports (s : State) (c : CRef) (f : Crew → Crew) : (s.modCrew c f).ports = s.ports := rfl
@[simp] theorem State.modCrew_peerOut (s : State) (c : CRef) (f : Crew → Crew) : (s.modCrew c f).peerOut = s.peerOut := rfl
@[simp] theorem State.modCrew_peerSent (s : State) (c : CRef) (f : Crew → Crew) : (s.modCrew c f).peerSent = s.peerSent := rfl
@[simp] theorem State.modCrew_peerHeld (s : State) (c : CRef) (f : Crew → Crew) : (s.modCrew c f).peerHeld = s.peerHeld := rfl
@[simp] theorem State.modCrew_foreign (s : State) (c : CRef) (f : Crew → Crew) : (s.modCrew c f).foreign = s.foreign := rfl
@[simp] theorem State.modCrew_peerChunks (s : State) (c : CRef) (f : Crew → Crew) : (s.modCrew c f).peerChunks = s.peerChunks := rfl
@[simp] theorem State.modCrew_remoteLu (s : State) (c : CRef) (f : Crew → Crew) : (s.modCrew c f).remoteLu = s.remoteLu := rfl
@[simp] theorem State.modCrew_jobChips (s : State) (c : CRef) (f : Crew → Crew) : (s.modCrew c f).jobChips = s.jobChips := rfl
@[simp] theorem State.modCrew_dbg (s : State) (c : CRef) (f : Crew → Crew) : (s.modCrew c f).dbg = s.dbg := rfl
@[simp] theorem State.modCrew_blackBox (s : State) (c : CRef) (f : Crew → Crew) : (s.modCrew c f).blackBox = s.blackBox := rfl
@[simp] theorem State.modCrew_faultsNow (s : State) (c : CRef) (f : Crew → Crew) : (s.modCrew c f).faultsNow = s.faultsNow := rfl
@[simp] theorem State.modCrew_racesNow (s : State) (c : CRef) (f : Crew → Crew) : (s.modCrew c f).racesNow = s.racesNow := rfl
@[simp] theorem State.modCrew_divsNow (s : State) (c : CRef) (f : Crew → Crew) : (s.modCrew c f).divsNow = s.divsNow := rfl
@[simp] theorem State.modCrew_boot (s : State) (c : CRef) (f : Crew → Crew) : (s.modCrew c f).boot = s.boot := rfl
@[simp] theorem State.modCrew_powerCap (s : State) (c : CRef) (f : Crew → Crew) : (s.modCrew c f).powerCap = s.powerCap := rfl

/-! ## modThread -/

@[simp] theorem State.modThread_agenda (s : State) (t : TRef) (f : Thread → Thread) : (s.modThread t f).agenda = s.agenda := rfl
@[simp] theorem State.modThread_focus (s : State) (t : TRef) (f : Thread → Thread) : (s.modThread t f).focus = s.focus := rfl
@[simp] theorem State.modThread_rotor (s : State) (t : TRef) (f : Thread → Thread) : (s.modThread t f).rotor = s.rotor := rfl
@[simp] theorem State.modThread_fresh (s : State) (t : TRef) (f : Thread → Thread) : (s.modThread t f).fresh = s.fresh := rfl
@[simp] theorem State.modThread_serial (s : State) (t : TRef) (f : Thread → Thread) : (s.modThread t f).serial = s.serial := rfl
@[simp] theorem State.modThread_now (s : State) (t : TRef) (f : Thread → Thread) : (s.modThread t f).now = s.now := rfl
@[simp] theorem State.modThread_timeOff (s : State) (t : TRef) (f : Thread → Thread) : (s.modThread t f).timeOff = s.timeOff := rfl
@[simp] theorem State.modThread_slew (s : State) (t : TRef) (f : Thread → Thread) : (s.modThread t f).slew = s.slew := rfl
@[simp] theorem State.modThread_mem (s : State) (t : TRef) (f : Thread → Thread) : (s.modThread t f).mem = s.mem := rfl
@[simp] theorem State.modThread_l3 (s : State) (t : TRef) (f : Thread → Thread) : (s.modThread t f).l3 = s.l3 := rfl
@[simp] theorem State.modThread_hubs (s : State) (t : TRef) (f : Thread → Thread) : (s.modThread t f).hubs = s.hubs := rfl
@[simp] theorem State.modThread_sections (s : State) (t : TRef) (f : Thread → Thread) : (s.modThread t f).sections = s.sections := rfl
@[simp] theorem State.modThread_cores (s : State) (t : TRef) (f : Thread → Thread) : (s.modThread t f).cores = s.cores := rfl
@[simp] theorem State.modThread_coxes (s : State) (t : TRef) (f : Thread → Thread) : (s.modThread t f).coxes = s.coxes := rfl
@[simp] theorem State.modThread_asids (s : State) (t : TRef) (f : Thread → Thread) : (s.modThread t f).asids = s.asids := rfl
@[simp] theorem State.modThread_launches (s : State) (t : TRef) (f : Thread → Thread) : (s.modThread t f).launches = s.launches := rfl
@[simp] theorem State.modThread_waiting (s : State) (t : TRef) (f : Thread → Thread) : (s.modThread t f).waiting = s.waiting := rfl
@[simp] theorem State.modThread_reserved (s : State) (t : TRef) (f : Thread → Thread) : (s.modThread t f).reserved = s.reserved := rfl
@[simp] theorem State.modThread_walks (s : State) (t : TRef) (f : Thread → Thread) : (s.modThread t f).walks = s.walks := rfl
@[simp] theorem State.modThread_tags (s : State) (t : TRef) (f : Thread → Thread) : (s.modThread t f).tags = s.tags := rfl
@[simp] theorem State.modThread_hostO (s : State) (t : TRef) (f : Thread → Thread) : (s.modThread t f).hostO = s.hostO := rfl
@[simp] theorem State.modThread_hostS (s : State) (t : TRef) (f : Thread → Thread) : (s.modThread t f).hostS = s.hostS := rfl
@[simp] theorem State.modThread_hostCount (s : State) (t : TRef) (f : Thread → Thread) : (s.modThread t f).hostCount = s.hostCount := rfl
@[simp] theorem State.modThread_hostHeld (s : State) (t : TRef) (f : Thread → Thread) : (s.modThread t f).hostHeld = s.hostHeld := rfl
@[simp] theorem State.modThread_chip (s : State) (t : TRef) (f : Thread → Thread) : (s.modThread t f).chip = s.chip := rfl
@[simp] theorem State.modThread_bar2 (s : State) (t : TRef) (f : Thread → Thread) : (s.modThread t f).bar2 = s.bar2 := rfl
@[simp] theorem State.modThread_bar2Log (s : State) (t : TRef) (f : Thread → Thread) : (s.modThread t f).bar2Log = s.bar2Log := rfl
@[simp] theorem State.modThread_routes (s : State) (t : TRef) (f : Thread → Thread) : (s.modThread t f).routes = s.routes := rfl
@[simp] theorem State.modThread_bar2ur (s : State) (t : TRef) (f : Thread → Thread) : (s.modThread t f).bar2ur = s.bar2ur := rfl
@[simp] theorem State.modThread_hostUrOff (s : State) (t : TRef) (f : Thread → Thread) : (s.modThread t f).hostUrOff = s.hostUrOff := rfl
@[simp] theorem State.modThread_linkUp (s : State) (t : TRef) (f : Thread → Thread) : (s.modThread t f).linkUp = s.linkUp := rfl
@[simp] theorem State.modThread_msixMask (s : State) (t : TRef) (f : Thread → Thread) : (s.modThread t f).msixMask = s.msixMask := rfl
@[simp] theorem State.modThread_msixPend (s : State) (t : TRef) (f : Thread → Thread) : (s.modThread t f).msixPend = s.msixPend := rfl
@[simp] theorem State.modThread_msixSent (s : State) (t : TRef) (f : Thread → Thread) : (s.modThread t f).msixSent = s.msixSent := rfl
@[simp] theorem State.modThread_hostOut (s : State) (t : TRef) (f : Thread → Thread) : (s.modThread t f).hostOut = s.hostOut := rfl
@[simp] theorem State.modThread_spdmChunk (s : State) (t : TRef) (f : Thread → Thread) : (s.modThread t f).spdmChunk = s.spdmChunk := rfl
@[simp] theorem State.modThread_ports (s : State) (t : TRef) (f : Thread → Thread) : (s.modThread t f).ports = s.ports := rfl
@[simp] theorem State.modThread_peerOut (s : State) (t : TRef) (f : Thread → Thread) : (s.modThread t f).peerOut = s.peerOut := rfl
@[simp] theorem State.modThread_peerSent (s : State) (t : TRef) (f : Thread → Thread) : (s.modThread t f).peerSent = s.peerSent := rfl
@[simp] theorem State.modThread_peerHeld (s : State) (t : TRef) (f : Thread → Thread) : (s.modThread t f).peerHeld = s.peerHeld := rfl
@[simp] theorem State.modThread_foreign (s : State) (t : TRef) (f : Thread → Thread) : (s.modThread t f).foreign = s.foreign := rfl
@[simp] theorem State.modThread_peerChunks (s : State) (t : TRef) (f : Thread → Thread) : (s.modThread t f).peerChunks = s.peerChunks := rfl
@[simp] theorem State.modThread_remoteLu (s : State) (t : TRef) (f : Thread → Thread) : (s.modThread t f).remoteLu = s.remoteLu := rfl
@[simp] theorem State.modThread_jobChips (s : State) (t : TRef) (f : Thread → Thread) : (s.modThread t f).jobChips = s.jobChips := rfl
@[simp] theorem State.modThread_dbg (s : State) (t : TRef) (f : Thread → Thread) : (s.modThread t f).dbg = s.dbg := rfl
@[simp] theorem State.modThread_blackBox (s : State) (t : TRef) (f : Thread → Thread) : (s.modThread t f).blackBox = s.blackBox := rfl
@[simp] theorem State.modThread_faultsNow (s : State) (t : TRef) (f : Thread → Thread) : (s.modThread t f).faultsNow = s.faultsNow := rfl
@[simp] theorem State.modThread_racesNow (s : State) (t : TRef) (f : Thread → Thread) : (s.modThread t f).racesNow = s.racesNow := rfl
@[simp] theorem State.modThread_divsNow (s : State) (t : TRef) (f : Thread → Thread) : (s.modThread t f).divsNow = s.divsNow := rfl
@[simp] theorem State.modThread_boot (s : State) (t : TRef) (f : Thread → Thread) : (s.modThread t f).boot = s.boot := rfl
@[simp] theorem State.modThread_powerCap (s : State) (t : TRef) (f : Thread → Thread) : (s.modThread t f).powerCap = s.powerCap := rfl

/-! ## modThreads -/

@[simp] theorem State.modThreads_agenda (s : State) (c : CRef) (f : Nat → Thread → Thread) : (s.modThreads c f).agenda = s.agenda := rfl
@[simp] theorem State.modThreads_focus (s : State) (c : CRef) (f : Nat → Thread → Thread) : (s.modThreads c f).focus = s.focus := rfl
@[simp] theorem State.modThreads_rotor (s : State) (c : CRef) (f : Nat → Thread → Thread) : (s.modThreads c f).rotor = s.rotor := rfl
@[simp] theorem State.modThreads_fresh (s : State) (c : CRef) (f : Nat → Thread → Thread) : (s.modThreads c f).fresh = s.fresh := rfl
@[simp] theorem State.modThreads_serial (s : State) (c : CRef) (f : Nat → Thread → Thread) : (s.modThreads c f).serial = s.serial := rfl
@[simp] theorem State.modThreads_now (s : State) (c : CRef) (f : Nat → Thread → Thread) : (s.modThreads c f).now = s.now := rfl
@[simp] theorem State.modThreads_timeOff (s : State) (c : CRef) (f : Nat → Thread → Thread) : (s.modThreads c f).timeOff = s.timeOff := rfl
@[simp] theorem State.modThreads_slew (s : State) (c : CRef) (f : Nat → Thread → Thread) : (s.modThreads c f).slew = s.slew := rfl
@[simp] theorem State.modThreads_mem (s : State) (c : CRef) (f : Nat → Thread → Thread) : (s.modThreads c f).mem = s.mem := rfl
@[simp] theorem State.modThreads_l3 (s : State) (c : CRef) (f : Nat → Thread → Thread) : (s.modThreads c f).l3 = s.l3 := rfl
@[simp] theorem State.modThreads_hubs (s : State) (c : CRef) (f : Nat → Thread → Thread) : (s.modThreads c f).hubs = s.hubs := rfl
@[simp] theorem State.modThreads_sections (s : State) (c : CRef) (f : Nat → Thread → Thread) : (s.modThreads c f).sections = s.sections := rfl
@[simp] theorem State.modThreads_cores (s : State) (c : CRef) (f : Nat → Thread → Thread) : (s.modThreads c f).cores = s.cores := rfl
@[simp] theorem State.modThreads_coxes (s : State) (c : CRef) (f : Nat → Thread → Thread) : (s.modThreads c f).coxes = s.coxes := rfl
@[simp] theorem State.modThreads_asids (s : State) (c : CRef) (f : Nat → Thread → Thread) : (s.modThreads c f).asids = s.asids := rfl
@[simp] theorem State.modThreads_launches (s : State) (c : CRef) (f : Nat → Thread → Thread) : (s.modThreads c f).launches = s.launches := rfl
@[simp] theorem State.modThreads_waiting (s : State) (c : CRef) (f : Nat → Thread → Thread) : (s.modThreads c f).waiting = s.waiting := rfl
@[simp] theorem State.modThreads_reserved (s : State) (c : CRef) (f : Nat → Thread → Thread) : (s.modThreads c f).reserved = s.reserved := rfl
@[simp] theorem State.modThreads_walks (s : State) (c : CRef) (f : Nat → Thread → Thread) : (s.modThreads c f).walks = s.walks := rfl
@[simp] theorem State.modThreads_tags (s : State) (c : CRef) (f : Nat → Thread → Thread) : (s.modThreads c f).tags = s.tags := rfl
@[simp] theorem State.modThreads_hostO (s : State) (c : CRef) (f : Nat → Thread → Thread) : (s.modThreads c f).hostO = s.hostO := rfl
@[simp] theorem State.modThreads_hostS (s : State) (c : CRef) (f : Nat → Thread → Thread) : (s.modThreads c f).hostS = s.hostS := rfl
@[simp] theorem State.modThreads_hostCount (s : State) (c : CRef) (f : Nat → Thread → Thread) : (s.modThreads c f).hostCount = s.hostCount := rfl
@[simp] theorem State.modThreads_hostHeld (s : State) (c : CRef) (f : Nat → Thread → Thread) : (s.modThreads c f).hostHeld = s.hostHeld := rfl
@[simp] theorem State.modThreads_chip (s : State) (c : CRef) (f : Nat → Thread → Thread) : (s.modThreads c f).chip = s.chip := rfl
@[simp] theorem State.modThreads_bar2 (s : State) (c : CRef) (f : Nat → Thread → Thread) : (s.modThreads c f).bar2 = s.bar2 := rfl
@[simp] theorem State.modThreads_bar2Log (s : State) (c : CRef) (f : Nat → Thread → Thread) : (s.modThreads c f).bar2Log = s.bar2Log := rfl
@[simp] theorem State.modThreads_routes (s : State) (c : CRef) (f : Nat → Thread → Thread) : (s.modThreads c f).routes = s.routes := rfl
@[simp] theorem State.modThreads_bar2ur (s : State) (c : CRef) (f : Nat → Thread → Thread) : (s.modThreads c f).bar2ur = s.bar2ur := rfl
@[simp] theorem State.modThreads_hostUrOff (s : State) (c : CRef) (f : Nat → Thread → Thread) : (s.modThreads c f).hostUrOff = s.hostUrOff := rfl
@[simp] theorem State.modThreads_linkUp (s : State) (c : CRef) (f : Nat → Thread → Thread) : (s.modThreads c f).linkUp = s.linkUp := rfl
@[simp] theorem State.modThreads_msixMask (s : State) (c : CRef) (f : Nat → Thread → Thread) : (s.modThreads c f).msixMask = s.msixMask := rfl
@[simp] theorem State.modThreads_msixPend (s : State) (c : CRef) (f : Nat → Thread → Thread) : (s.modThreads c f).msixPend = s.msixPend := rfl
@[simp] theorem State.modThreads_msixSent (s : State) (c : CRef) (f : Nat → Thread → Thread) : (s.modThreads c f).msixSent = s.msixSent := rfl
@[simp] theorem State.modThreads_hostOut (s : State) (c : CRef) (f : Nat → Thread → Thread) : (s.modThreads c f).hostOut = s.hostOut := rfl
@[simp] theorem State.modThreads_spdmChunk (s : State) (c : CRef) (f : Nat → Thread → Thread) : (s.modThreads c f).spdmChunk = s.spdmChunk := rfl
@[simp] theorem State.modThreads_ports (s : State) (c : CRef) (f : Nat → Thread → Thread) : (s.modThreads c f).ports = s.ports := rfl
@[simp] theorem State.modThreads_peerOut (s : State) (c : CRef) (f : Nat → Thread → Thread) : (s.modThreads c f).peerOut = s.peerOut := rfl
@[simp] theorem State.modThreads_peerSent (s : State) (c : CRef) (f : Nat → Thread → Thread) : (s.modThreads c f).peerSent = s.peerSent := rfl
@[simp] theorem State.modThreads_peerHeld (s : State) (c : CRef) (f : Nat → Thread → Thread) : (s.modThreads c f).peerHeld = s.peerHeld := rfl
@[simp] theorem State.modThreads_foreign (s : State) (c : CRef) (f : Nat → Thread → Thread) : (s.modThreads c f).foreign = s.foreign := rfl
@[simp] theorem State.modThreads_peerChunks (s : State) (c : CRef) (f : Nat → Thread → Thread) : (s.modThreads c f).peerChunks = s.peerChunks := rfl
@[simp] theorem State.modThreads_remoteLu (s : State) (c : CRef) (f : Nat → Thread → Thread) : (s.modThreads c f).remoteLu = s.remoteLu := rfl
@[simp] theorem State.modThreads_jobChips (s : State) (c : CRef) (f : Nat → Thread → Thread) : (s.modThreads c f).jobChips = s.jobChips := rfl
@[simp] theorem State.modThreads_dbg (s : State) (c : CRef) (f : Nat → Thread → Thread) : (s.modThreads c f).dbg = s.dbg := rfl
@[simp] theorem State.modThreads_blackBox (s : State) (c : CRef) (f : Nat → Thread → Thread) : (s.modThreads c f).blackBox = s.blackBox := rfl
@[simp] theorem State.modThreads_faultsNow (s : State) (c : CRef) (f : Nat → Thread → Thread) : (s.modThreads c f).faultsNow = s.faultsNow := rfl
@[simp] theorem State.modThreads_racesNow (s : State) (c : CRef) (f : Nat → Thread → Thread) : (s.modThreads c f).racesNow = s.racesNow := rfl
@[simp] theorem State.modThreads_divsNow (s : State) (c : CRef) (f : Nat → Thread → Thread) : (s.modThreads c f).divsNow = s.divsNow := rfl
@[simp] theorem State.modThreads_boot (s : State) (c : CRef) (f : Nat → Thread → Thread) : (s.modThreads c f).boot = s.boot := rfl
@[simp] theorem State.modThreads_powerCap (s : State) (c : CRef) (f : Nat → Thread → Thread) : (s.modThreads c f).powerCap = s.powerCap := rfl

/-! ## modLaunch -/

@[simp] theorem State.modLaunch_agenda (s : State) (i : Nat) (f : Launch → Launch) : (s.modLaunch i f).agenda = s.agenda := rfl
@[simp] theorem State.modLaunch_focus (s : State) (i : Nat) (f : Launch → Launch) : (s.modLaunch i f).focus = s.focus := rfl
@[simp] theorem State.modLaunch_rotor (s : State) (i : Nat) (f : Launch → Launch) : (s.modLaunch i f).rotor = s.rotor := rfl
@[simp] theorem State.modLaunch_fresh (s : State) (i : Nat) (f : Launch → Launch) : (s.modLaunch i f).fresh = s.fresh := rfl
@[simp] theorem State.modLaunch_serial (s : State) (i : Nat) (f : Launch → Launch) : (s.modLaunch i f).serial = s.serial := rfl
@[simp] theorem State.modLaunch_now (s : State) (i : Nat) (f : Launch → Launch) : (s.modLaunch i f).now = s.now := rfl
@[simp] theorem State.modLaunch_timeOff (s : State) (i : Nat) (f : Launch → Launch) : (s.modLaunch i f).timeOff = s.timeOff := rfl
@[simp] theorem State.modLaunch_slew (s : State) (i : Nat) (f : Launch → Launch) : (s.modLaunch i f).slew = s.slew := rfl
@[simp] theorem State.modLaunch_mem (s : State) (i : Nat) (f : Launch → Launch) : (s.modLaunch i f).mem = s.mem := rfl
@[simp] theorem State.modLaunch_l3 (s : State) (i : Nat) (f : Launch → Launch) : (s.modLaunch i f).l3 = s.l3 := rfl
@[simp] theorem State.modLaunch_hubs (s : State) (i : Nat) (f : Launch → Launch) : (s.modLaunch i f).hubs = s.hubs := rfl
@[simp] theorem State.modLaunch_sections (s : State) (i : Nat) (f : Launch → Launch) : (s.modLaunch i f).sections = s.sections := rfl
@[simp] theorem State.modLaunch_cores (s : State) (i : Nat) (f : Launch → Launch) : (s.modLaunch i f).cores = s.cores := rfl
@[simp] theorem State.modLaunch_coxes (s : State) (i : Nat) (f : Launch → Launch) : (s.modLaunch i f).coxes = s.coxes := rfl
@[simp] theorem State.modLaunch_asids (s : State) (i : Nat) (f : Launch → Launch) : (s.modLaunch i f).asids = s.asids := rfl
@[simp] theorem State.modLaunch_groups (s : State) (i : Nat) (f : Launch → Launch) : (s.modLaunch i f).groups = s.groups := rfl
@[simp] theorem State.modLaunch_waiting (s : State) (i : Nat) (f : Launch → Launch) : (s.modLaunch i f).waiting = s.waiting := rfl
@[simp] theorem State.modLaunch_reserved (s : State) (i : Nat) (f : Launch → Launch) : (s.modLaunch i f).reserved = s.reserved := rfl
@[simp] theorem State.modLaunch_walks (s : State) (i : Nat) (f : Launch → Launch) : (s.modLaunch i f).walks = s.walks := rfl
@[simp] theorem State.modLaunch_tags (s : State) (i : Nat) (f : Launch → Launch) : (s.modLaunch i f).tags = s.tags := rfl
@[simp] theorem State.modLaunch_hostO (s : State) (i : Nat) (f : Launch → Launch) : (s.modLaunch i f).hostO = s.hostO := rfl
@[simp] theorem State.modLaunch_hostS (s : State) (i : Nat) (f : Launch → Launch) : (s.modLaunch i f).hostS = s.hostS := rfl
@[simp] theorem State.modLaunch_hostCount (s : State) (i : Nat) (f : Launch → Launch) : (s.modLaunch i f).hostCount = s.hostCount := rfl
@[simp] theorem State.modLaunch_hostHeld (s : State) (i : Nat) (f : Launch → Launch) : (s.modLaunch i f).hostHeld = s.hostHeld := rfl
@[simp] theorem State.modLaunch_chip (s : State) (i : Nat) (f : Launch → Launch) : (s.modLaunch i f).chip = s.chip := rfl
@[simp] theorem State.modLaunch_bar2 (s : State) (i : Nat) (f : Launch → Launch) : (s.modLaunch i f).bar2 = s.bar2 := rfl
@[simp] theorem State.modLaunch_bar2Log (s : State) (i : Nat) (f : Launch → Launch) : (s.modLaunch i f).bar2Log = s.bar2Log := rfl
@[simp] theorem State.modLaunch_routes (s : State) (i : Nat) (f : Launch → Launch) : (s.modLaunch i f).routes = s.routes := rfl
@[simp] theorem State.modLaunch_bar2ur (s : State) (i : Nat) (f : Launch → Launch) : (s.modLaunch i f).bar2ur = s.bar2ur := rfl
@[simp] theorem State.modLaunch_hostUrOff (s : State) (i : Nat) (f : Launch → Launch) : (s.modLaunch i f).hostUrOff = s.hostUrOff := rfl
@[simp] theorem State.modLaunch_linkUp (s : State) (i : Nat) (f : Launch → Launch) : (s.modLaunch i f).linkUp = s.linkUp := rfl
@[simp] theorem State.modLaunch_msixMask (s : State) (i : Nat) (f : Launch → Launch) : (s.modLaunch i f).msixMask = s.msixMask := rfl
@[simp] theorem State.modLaunch_msixPend (s : State) (i : Nat) (f : Launch → Launch) : (s.modLaunch i f).msixPend = s.msixPend := rfl
@[simp] theorem State.modLaunch_msixSent (s : State) (i : Nat) (f : Launch → Launch) : (s.modLaunch i f).msixSent = s.msixSent := rfl
@[simp] theorem State.modLaunch_hostOut (s : State) (i : Nat) (f : Launch → Launch) : (s.modLaunch i f).hostOut = s.hostOut := rfl
@[simp] theorem State.modLaunch_spdmChunk (s : State) (i : Nat) (f : Launch → Launch) : (s.modLaunch i f).spdmChunk = s.spdmChunk := rfl
@[simp] theorem State.modLaunch_ports (s : State) (i : Nat) (f : Launch → Launch) : (s.modLaunch i f).ports = s.ports := rfl
@[simp] theorem State.modLaunch_peerOut (s : State) (i : Nat) (f : Launch → Launch) : (s.modLaunch i f).peerOut = s.peerOut := rfl
@[simp] theorem State.modLaunch_peerSent (s : State) (i : Nat) (f : Launch → Launch) : (s.modLaunch i f).peerSent = s.peerSent := rfl
@[simp] theorem State.modLaunch_peerHeld (s : State) (i : Nat) (f : Launch → Launch) : (s.modLaunch i f).peerHeld = s.peerHeld := rfl
@[simp] theorem State.modLaunch_foreign (s : State) (i : Nat) (f : Launch → Launch) : (s.modLaunch i f).foreign = s.foreign := rfl
@[simp] theorem State.modLaunch_peerChunks (s : State) (i : Nat) (f : Launch → Launch) : (s.modLaunch i f).peerChunks = s.peerChunks := rfl
@[simp] theorem State.modLaunch_remoteLu (s : State) (i : Nat) (f : Launch → Launch) : (s.modLaunch i f).remoteLu = s.remoteLu := rfl
@[simp] theorem State.modLaunch_jobChips (s : State) (i : Nat) (f : Launch → Launch) : (s.modLaunch i f).jobChips = s.jobChips := rfl
@[simp] theorem State.modLaunch_dbg (s : State) (i : Nat) (f : Launch → Launch) : (s.modLaunch i f).dbg = s.dbg := rfl
@[simp] theorem State.modLaunch_blackBox (s : State) (i : Nat) (f : Launch → Launch) : (s.modLaunch i f).blackBox = s.blackBox := rfl
@[simp] theorem State.modLaunch_faultsNow (s : State) (i : Nat) (f : Launch → Launch) : (s.modLaunch i f).faultsNow = s.faultsNow := rfl
@[simp] theorem State.modLaunch_racesNow (s : State) (i : Nat) (f : Launch → Launch) : (s.modLaunch i f).racesNow = s.racesNow := rfl
@[simp] theorem State.modLaunch_divsNow (s : State) (i : Nat) (f : Launch → Launch) : (s.modLaunch i f).divsNow = s.divsNow := rfl
@[simp] theorem State.modLaunch_boot (s : State) (i : Nat) (f : Launch → Launch) : (s.modLaunch i f).boot = s.boot := rfl
@[simp] theorem State.modLaunch_powerCap (s : State) (i : Nat) (f : Launch → Launch) : (s.modLaunch i f).powerCap = s.powerCap := rfl

/-! ## modHub -/

@[simp] theorem State.modHub_agenda (s : State) (h : Nat) (f : Hub → Hub) : (s.modHub h f).agenda = s.agenda := rfl
@[simp] theorem State.modHub_focus (s : State) (h : Nat) (f : Hub → Hub) : (s.modHub h f).focus = s.focus := rfl
@[simp] theorem State.modHub_rotor (s : State) (h : Nat) (f : Hub → Hub) : (s.modHub h f).rotor = s.rotor := rfl
@[simp] theorem State.modHub_fresh (s : State) (h : Nat) (f : Hub → Hub) : (s.modHub h f).fresh = s.fresh := rfl
@[simp] theorem State.modHub_serial (s : State) (h : Nat) (f : Hub → Hub) : (s.modHub h f).serial = s.serial := rfl
@[simp] theorem State.modHub_now (s : State) (h : Nat) (f : Hub → Hub) : (s.modHub h f).now = s.now := rfl
@[simp] theorem State.modHub_timeOff (s : State) (h : Nat) (f : Hub → Hub) : (s.modHub h f).timeOff = s.timeOff := rfl
@[simp] theorem State.modHub_slew (s : State) (h : Nat) (f : Hub → Hub) : (s.modHub h f).slew = s.slew := rfl
@[simp] theorem State.modHub_mem (s : State) (h : Nat) (f : Hub → Hub) : (s.modHub h f).mem = s.mem := rfl
@[simp] theorem State.modHub_l3 (s : State) (h : Nat) (f : Hub → Hub) : (s.modHub h f).l3 = s.l3 := rfl
@[simp] theorem State.modHub_sections (s : State) (h : Nat) (f : Hub → Hub) : (s.modHub h f).sections = s.sections := rfl
@[simp] theorem State.modHub_cores (s : State) (h : Nat) (f : Hub → Hub) : (s.modHub h f).cores = s.cores := rfl
@[simp] theorem State.modHub_coxes (s : State) (h : Nat) (f : Hub → Hub) : (s.modHub h f).coxes = s.coxes := rfl
@[simp] theorem State.modHub_asids (s : State) (h : Nat) (f : Hub → Hub) : (s.modHub h f).asids = s.asids := rfl
@[simp] theorem State.modHub_launches (s : State) (h : Nat) (f : Hub → Hub) : (s.modHub h f).launches = s.launches := rfl
@[simp] theorem State.modHub_groups (s : State) (h : Nat) (f : Hub → Hub) : (s.modHub h f).groups = s.groups := rfl
@[simp] theorem State.modHub_waiting (s : State) (h : Nat) (f : Hub → Hub) : (s.modHub h f).waiting = s.waiting := rfl
@[simp] theorem State.modHub_reserved (s : State) (h : Nat) (f : Hub → Hub) : (s.modHub h f).reserved = s.reserved := rfl
@[simp] theorem State.modHub_walks (s : State) (h : Nat) (f : Hub → Hub) : (s.modHub h f).walks = s.walks := rfl
@[simp] theorem State.modHub_tags (s : State) (h : Nat) (f : Hub → Hub) : (s.modHub h f).tags = s.tags := rfl
@[simp] theorem State.modHub_hostO (s : State) (h : Nat) (f : Hub → Hub) : (s.modHub h f).hostO = s.hostO := rfl
@[simp] theorem State.modHub_hostS (s : State) (h : Nat) (f : Hub → Hub) : (s.modHub h f).hostS = s.hostS := rfl
@[simp] theorem State.modHub_hostCount (s : State) (h : Nat) (f : Hub → Hub) : (s.modHub h f).hostCount = s.hostCount := rfl
@[simp] theorem State.modHub_hostHeld (s : State) (h : Nat) (f : Hub → Hub) : (s.modHub h f).hostHeld = s.hostHeld := rfl
@[simp] theorem State.modHub_chip (s : State) (h : Nat) (f : Hub → Hub) : (s.modHub h f).chip = s.chip := rfl
@[simp] theorem State.modHub_bar2 (s : State) (h : Nat) (f : Hub → Hub) : (s.modHub h f).bar2 = s.bar2 := rfl
@[simp] theorem State.modHub_bar2Log (s : State) (h : Nat) (f : Hub → Hub) : (s.modHub h f).bar2Log = s.bar2Log := rfl
@[simp] theorem State.modHub_routes (s : State) (h : Nat) (f : Hub → Hub) : (s.modHub h f).routes = s.routes := rfl
@[simp] theorem State.modHub_bar2ur (s : State) (h : Nat) (f : Hub → Hub) : (s.modHub h f).bar2ur = s.bar2ur := rfl
@[simp] theorem State.modHub_hostUrOff (s : State) (h : Nat) (f : Hub → Hub) : (s.modHub h f).hostUrOff = s.hostUrOff := rfl
@[simp] theorem State.modHub_linkUp (s : State) (h : Nat) (f : Hub → Hub) : (s.modHub h f).linkUp = s.linkUp := rfl
@[simp] theorem State.modHub_msixMask (s : State) (h : Nat) (f : Hub → Hub) : (s.modHub h f).msixMask = s.msixMask := rfl
@[simp] theorem State.modHub_msixPend (s : State) (h : Nat) (f : Hub → Hub) : (s.modHub h f).msixPend = s.msixPend := rfl
@[simp] theorem State.modHub_msixSent (s : State) (h : Nat) (f : Hub → Hub) : (s.modHub h f).msixSent = s.msixSent := rfl
@[simp] theorem State.modHub_hostOut (s : State) (h : Nat) (f : Hub → Hub) : (s.modHub h f).hostOut = s.hostOut := rfl
@[simp] theorem State.modHub_spdmChunk (s : State) (h : Nat) (f : Hub → Hub) : (s.modHub h f).spdmChunk = s.spdmChunk := rfl
@[simp] theorem State.modHub_ports (s : State) (h : Nat) (f : Hub → Hub) : (s.modHub h f).ports = s.ports := rfl
@[simp] theorem State.modHub_peerOut (s : State) (h : Nat) (f : Hub → Hub) : (s.modHub h f).peerOut = s.peerOut := rfl
@[simp] theorem State.modHub_peerSent (s : State) (h : Nat) (f : Hub → Hub) : (s.modHub h f).peerSent = s.peerSent := rfl
@[simp] theorem State.modHub_peerHeld (s : State) (h : Nat) (f : Hub → Hub) : (s.modHub h f).peerHeld = s.peerHeld := rfl
@[simp] theorem State.modHub_foreign (s : State) (h : Nat) (f : Hub → Hub) : (s.modHub h f).foreign = s.foreign := rfl
@[simp] theorem State.modHub_peerChunks (s : State) (h : Nat) (f : Hub → Hub) : (s.modHub h f).peerChunks = s.peerChunks := rfl
@[simp] theorem State.modHub_remoteLu (s : State) (h : Nat) (f : Hub → Hub) : (s.modHub h f).remoteLu = s.remoteLu := rfl
@[simp] theorem State.modHub_jobChips (s : State) (h : Nat) (f : Hub → Hub) : (s.modHub h f).jobChips = s.jobChips := rfl
@[simp] theorem State.modHub_dbg (s : State) (h : Nat) (f : Hub → Hub) : (s.modHub h f).dbg = s.dbg := rfl
@[simp] theorem State.modHub_blackBox (s : State) (h : Nat) (f : Hub → Hub) : (s.modHub h f).blackBox = s.blackBox := rfl
@[simp] theorem State.modHub_faultsNow (s : State) (h : Nat) (f : Hub → Hub) : (s.modHub h f).faultsNow = s.faultsNow := rfl
@[simp] theorem State.modHub_racesNow (s : State) (h : Nat) (f : Hub → Hub) : (s.modHub h f).racesNow = s.racesNow := rfl
@[simp] theorem State.modHub_divsNow (s : State) (h : Nat) (f : Hub → Hub) : (s.modHub h f).divsNow = s.divsNow := rfl
@[simp] theorem State.modHub_boot (s : State) (h : Nat) (f : Hub → Hub) : (s.modHub h f).boot = s.boot := rfl
@[simp] theorem State.modHub_powerCap (s : State) (h : Nat) (f : Hub → Hub) : (s.modHub h f).powerCap = s.powerCap := rfl

/-! ## modSect -/

@[simp] theorem State.modSect_agenda (s : State) (h : Nat) (f : Section → Section) : (s.modSect h f).agenda = s.agenda := rfl
@[simp] theorem State.modSect_focus (s : State) (h : Nat) (f : Section → Section) : (s.modSect h f).focus = s.focus := rfl
@[simp] theorem State.modSect_rotor (s : State) (h : Nat) (f : Section → Section) : (s.modSect h f).rotor = s.rotor := rfl
@[simp] theorem State.modSect_fresh (s : State) (h : Nat) (f : Section → Section) : (s.modSect h f).fresh = s.fresh := rfl
@[simp] theorem State.modSect_serial (s : State) (h : Nat) (f : Section → Section) : (s.modSect h f).serial = s.serial := rfl
@[simp] theorem State.modSect_now (s : State) (h : Nat) (f : Section → Section) : (s.modSect h f).now = s.now := rfl
@[simp] theorem State.modSect_timeOff (s : State) (h : Nat) (f : Section → Section) : (s.modSect h f).timeOff = s.timeOff := rfl
@[simp] theorem State.modSect_slew (s : State) (h : Nat) (f : Section → Section) : (s.modSect h f).slew = s.slew := rfl
@[simp] theorem State.modSect_mem (s : State) (h : Nat) (f : Section → Section) : (s.modSect h f).mem = s.mem := rfl
@[simp] theorem State.modSect_l3 (s : State) (h : Nat) (f : Section → Section) : (s.modSect h f).l3 = s.l3 := rfl
@[simp] theorem State.modSect_hubs (s : State) (h : Nat) (f : Section → Section) : (s.modSect h f).hubs = s.hubs := rfl
@[simp] theorem State.modSect_cores (s : State) (h : Nat) (f : Section → Section) : (s.modSect h f).cores = s.cores := rfl
@[simp] theorem State.modSect_coxes (s : State) (h : Nat) (f : Section → Section) : (s.modSect h f).coxes = s.coxes := rfl
@[simp] theorem State.modSect_asids (s : State) (h : Nat) (f : Section → Section) : (s.modSect h f).asids = s.asids := rfl
@[simp] theorem State.modSect_launches (s : State) (h : Nat) (f : Section → Section) : (s.modSect h f).launches = s.launches := rfl
@[simp] theorem State.modSect_groups (s : State) (h : Nat) (f : Section → Section) : (s.modSect h f).groups = s.groups := rfl
@[simp] theorem State.modSect_waiting (s : State) (h : Nat) (f : Section → Section) : (s.modSect h f).waiting = s.waiting := rfl
@[simp] theorem State.modSect_reserved (s : State) (h : Nat) (f : Section → Section) : (s.modSect h f).reserved = s.reserved := rfl
@[simp] theorem State.modSect_walks (s : State) (h : Nat) (f : Section → Section) : (s.modSect h f).walks = s.walks := rfl
@[simp] theorem State.modSect_tags (s : State) (h : Nat) (f : Section → Section) : (s.modSect h f).tags = s.tags := rfl
@[simp] theorem State.modSect_hostO (s : State) (h : Nat) (f : Section → Section) : (s.modSect h f).hostO = s.hostO := rfl
@[simp] theorem State.modSect_hostS (s : State) (h : Nat) (f : Section → Section) : (s.modSect h f).hostS = s.hostS := rfl
@[simp] theorem State.modSect_hostCount (s : State) (h : Nat) (f : Section → Section) : (s.modSect h f).hostCount = s.hostCount := rfl
@[simp] theorem State.modSect_hostHeld (s : State) (h : Nat) (f : Section → Section) : (s.modSect h f).hostHeld = s.hostHeld := rfl
@[simp] theorem State.modSect_chip (s : State) (h : Nat) (f : Section → Section) : (s.modSect h f).chip = s.chip := rfl
@[simp] theorem State.modSect_bar2 (s : State) (h : Nat) (f : Section → Section) : (s.modSect h f).bar2 = s.bar2 := rfl
@[simp] theorem State.modSect_bar2Log (s : State) (h : Nat) (f : Section → Section) : (s.modSect h f).bar2Log = s.bar2Log := rfl
@[simp] theorem State.modSect_routes (s : State) (h : Nat) (f : Section → Section) : (s.modSect h f).routes = s.routes := rfl
@[simp] theorem State.modSect_bar2ur (s : State) (h : Nat) (f : Section → Section) : (s.modSect h f).bar2ur = s.bar2ur := rfl
@[simp] theorem State.modSect_hostUrOff (s : State) (h : Nat) (f : Section → Section) : (s.modSect h f).hostUrOff = s.hostUrOff := rfl
@[simp] theorem State.modSect_linkUp (s : State) (h : Nat) (f : Section → Section) : (s.modSect h f).linkUp = s.linkUp := rfl
@[simp] theorem State.modSect_msixMask (s : State) (h : Nat) (f : Section → Section) : (s.modSect h f).msixMask = s.msixMask := rfl
@[simp] theorem State.modSect_msixPend (s : State) (h : Nat) (f : Section → Section) : (s.modSect h f).msixPend = s.msixPend := rfl
@[simp] theorem State.modSect_msixSent (s : State) (h : Nat) (f : Section → Section) : (s.modSect h f).msixSent = s.msixSent := rfl
@[simp] theorem State.modSect_hostOut (s : State) (h : Nat) (f : Section → Section) : (s.modSect h f).hostOut = s.hostOut := rfl
@[simp] theorem State.modSect_spdmChunk (s : State) (h : Nat) (f : Section → Section) : (s.modSect h f).spdmChunk = s.spdmChunk := rfl
@[simp] theorem State.modSect_ports (s : State) (h : Nat) (f : Section → Section) : (s.modSect h f).ports = s.ports := rfl
@[simp] theorem State.modSect_peerOut (s : State) (h : Nat) (f : Section → Section) : (s.modSect h f).peerOut = s.peerOut := rfl
@[simp] theorem State.modSect_peerSent (s : State) (h : Nat) (f : Section → Section) : (s.modSect h f).peerSent = s.peerSent := rfl
@[simp] theorem State.modSect_peerHeld (s : State) (h : Nat) (f : Section → Section) : (s.modSect h f).peerHeld = s.peerHeld := rfl
@[simp] theorem State.modSect_foreign (s : State) (h : Nat) (f : Section → Section) : (s.modSect h f).foreign = s.foreign := rfl
@[simp] theorem State.modSect_peerChunks (s : State) (h : Nat) (f : Section → Section) : (s.modSect h f).peerChunks = s.peerChunks := rfl
@[simp] theorem State.modSect_remoteLu (s : State) (h : Nat) (f : Section → Section) : (s.modSect h f).remoteLu = s.remoteLu := rfl
@[simp] theorem State.modSect_jobChips (s : State) (h : Nat) (f : Section → Section) : (s.modSect h f).jobChips = s.jobChips := rfl
@[simp] theorem State.modSect_dbg (s : State) (h : Nat) (f : Section → Section) : (s.modSect h f).dbg = s.dbg := rfl
@[simp] theorem State.modSect_blackBox (s : State) (h : Nat) (f : Section → Section) : (s.modSect h f).blackBox = s.blackBox := rfl
@[simp] theorem State.modSect_faultsNow (s : State) (h : Nat) (f : Section → Section) : (s.modSect h f).faultsNow = s.faultsNow := rfl
@[simp] theorem State.modSect_racesNow (s : State) (h : Nat) (f : Section → Section) : (s.modSect h f).racesNow = s.racesNow := rfl
@[simp] theorem State.modSect_divsNow (s : State) (h : Nat) (f : Section → Section) : (s.modSect h f).divsNow = s.divsNow := rfl
@[simp] theorem State.modSect_boot (s : State) (h : Nat) (f : Section → Section) : (s.modSect h f).boot = s.boot := rfl
@[simp] theorem State.modSect_powerCap (s : State) (h : Nat) (f : Section → Section) : (s.modSect h f).powerCap = s.powerCap := rfl

/-! ## modCore -/

@[simp] theorem State.modCore_agenda (s : State) (n : Nat) (f : Core → Core) : (s.modCore n f).agenda = s.agenda := by unfold State.modCore; split <;> rfl
@[simp] theorem State.modCore_focus (s : State) (n : Nat) (f : Core → Core) : (s.modCore n f).focus = s.focus := by unfold State.modCore; split <;> rfl
@[simp] theorem State.modCore_rotor (s : State) (n : Nat) (f : Core → Core) : (s.modCore n f).rotor = s.rotor := by unfold State.modCore; split <;> rfl
@[simp] theorem State.modCore_fresh (s : State) (n : Nat) (f : Core → Core) : (s.modCore n f).fresh = s.fresh := by unfold State.modCore; split <;> rfl
@[simp] theorem State.modCore_serial (s : State) (n : Nat) (f : Core → Core) : (s.modCore n f).serial = s.serial := by unfold State.modCore; split <;> rfl
@[simp] theorem State.modCore_now (s : State) (n : Nat) (f : Core → Core) : (s.modCore n f).now = s.now := by unfold State.modCore; split <;> rfl
@[simp] theorem State.modCore_timeOff (s : State) (n : Nat) (f : Core → Core) : (s.modCore n f).timeOff = s.timeOff := by unfold State.modCore; split <;> rfl
@[simp] theorem State.modCore_slew (s : State) (n : Nat) (f : Core → Core) : (s.modCore n f).slew = s.slew := by unfold State.modCore; split <;> rfl
@[simp] theorem State.modCore_mem (s : State) (n : Nat) (f : Core → Core) : (s.modCore n f).mem = s.mem := by unfold State.modCore; split <;> rfl
@[simp] theorem State.modCore_l3 (s : State) (n : Nat) (f : Core → Core) : (s.modCore n f).l3 = s.l3 := by unfold State.modCore; split <;> rfl
@[simp] theorem State.modCore_hubs (s : State) (n : Nat) (f : Core → Core) : (s.modCore n f).hubs = s.hubs := by unfold State.modCore; split <;> rfl
@[simp] theorem State.modCore_sections (s : State) (n : Nat) (f : Core → Core) : (s.modCore n f).sections = s.sections := by unfold State.modCore; split <;> rfl
@[simp] theorem State.modCore_coxes (s : State) (n : Nat) (f : Core → Core) : (s.modCore n f).coxes = s.coxes := by unfold State.modCore; split <;> rfl
@[simp] theorem State.modCore_asids (s : State) (n : Nat) (f : Core → Core) : (s.modCore n f).asids = s.asids := by unfold State.modCore; split <;> rfl
@[simp] theorem State.modCore_launches (s : State) (n : Nat) (f : Core → Core) : (s.modCore n f).launches = s.launches := by unfold State.modCore; split <;> rfl
@[simp] theorem State.modCore_groups (s : State) (n : Nat) (f : Core → Core) : (s.modCore n f).groups = s.groups := by unfold State.modCore; split <;> rfl
@[simp] theorem State.modCore_waiting (s : State) (n : Nat) (f : Core → Core) : (s.modCore n f).waiting = s.waiting := by unfold State.modCore; split <;> rfl
@[simp] theorem State.modCore_reserved (s : State) (n : Nat) (f : Core → Core) : (s.modCore n f).reserved = s.reserved := by unfold State.modCore; split <;> rfl
@[simp] theorem State.modCore_walks (s : State) (n : Nat) (f : Core → Core) : (s.modCore n f).walks = s.walks := by unfold State.modCore; split <;> rfl
@[simp] theorem State.modCore_tags (s : State) (n : Nat) (f : Core → Core) : (s.modCore n f).tags = s.tags := by unfold State.modCore; split <;> rfl
@[simp] theorem State.modCore_hostO (s : State) (n : Nat) (f : Core → Core) : (s.modCore n f).hostO = s.hostO := by unfold State.modCore; split <;> rfl
@[simp] theorem State.modCore_hostS (s : State) (n : Nat) (f : Core → Core) : (s.modCore n f).hostS = s.hostS := by unfold State.modCore; split <;> rfl
@[simp] theorem State.modCore_hostCount (s : State) (n : Nat) (f : Core → Core) : (s.modCore n f).hostCount = s.hostCount := by unfold State.modCore; split <;> rfl
@[simp] theorem State.modCore_hostHeld (s : State) (n : Nat) (f : Core → Core) : (s.modCore n f).hostHeld = s.hostHeld := by unfold State.modCore; split <;> rfl
@[simp] theorem State.modCore_chip (s : State) (n : Nat) (f : Core → Core) : (s.modCore n f).chip = s.chip := by unfold State.modCore; split <;> rfl
@[simp] theorem State.modCore_bar2 (s : State) (n : Nat) (f : Core → Core) : (s.modCore n f).bar2 = s.bar2 := by unfold State.modCore; split <;> rfl
@[simp] theorem State.modCore_bar2Log (s : State) (n : Nat) (f : Core → Core) : (s.modCore n f).bar2Log = s.bar2Log := by unfold State.modCore; split <;> rfl
@[simp] theorem State.modCore_routes (s : State) (n : Nat) (f : Core → Core) : (s.modCore n f).routes = s.routes := by unfold State.modCore; split <;> rfl
@[simp] theorem State.modCore_bar2ur (s : State) (n : Nat) (f : Core → Core) : (s.modCore n f).bar2ur = s.bar2ur := by unfold State.modCore; split <;> rfl
@[simp] theorem State.modCore_hostUrOff (s : State) (n : Nat) (f : Core → Core) : (s.modCore n f).hostUrOff = s.hostUrOff := by unfold State.modCore; split <;> rfl
@[simp] theorem State.modCore_linkUp (s : State) (n : Nat) (f : Core → Core) : (s.modCore n f).linkUp = s.linkUp := by unfold State.modCore; split <;> rfl
@[simp] theorem State.modCore_msixMask (s : State) (n : Nat) (f : Core → Core) : (s.modCore n f).msixMask = s.msixMask := by unfold State.modCore; split <;> rfl
@[simp] theorem State.modCore_msixPend (s : State) (n : Nat) (f : Core → Core) : (s.modCore n f).msixPend = s.msixPend := by unfold State.modCore; split <;> rfl
@[simp] theorem State.modCore_msixSent (s : State) (n : Nat) (f : Core → Core) : (s.modCore n f).msixSent = s.msixSent := by unfold State.modCore; split <;> rfl
@[simp] theorem State.modCore_hostOut (s : State) (n : Nat) (f : Core → Core) : (s.modCore n f).hostOut = s.hostOut := by unfold State.modCore; split <;> rfl
@[simp] theorem State.modCore_spdmChunk (s : State) (n : Nat) (f : Core → Core) : (s.modCore n f).spdmChunk = s.spdmChunk := by unfold State.modCore; split <;> rfl
@[simp] theorem State.modCore_ports (s : State) (n : Nat) (f : Core → Core) : (s.modCore n f).ports = s.ports := by unfold State.modCore; split <;> rfl
@[simp] theorem State.modCore_peerOut (s : State) (n : Nat) (f : Core → Core) : (s.modCore n f).peerOut = s.peerOut := by unfold State.modCore; split <;> rfl
@[simp] theorem State.modCore_peerSent (s : State) (n : Nat) (f : Core → Core) : (s.modCore n f).peerSent = s.peerSent := by unfold State.modCore; split <;> rfl
@[simp] theorem State.modCore_peerHeld (s : State) (n : Nat) (f : Core → Core) : (s.modCore n f).peerHeld = s.peerHeld := by unfold State.modCore; split <;> rfl
@[simp] theorem State.modCore_foreign (s : State) (n : Nat) (f : Core → Core) : (s.modCore n f).foreign = s.foreign := by unfold State.modCore; split <;> rfl
@[simp] theorem State.modCore_peerChunks (s : State) (n : Nat) (f : Core → Core) : (s.modCore n f).peerChunks = s.peerChunks := by unfold State.modCore; split <;> rfl
@[simp] theorem State.modCore_remoteLu (s : State) (n : Nat) (f : Core → Core) : (s.modCore n f).remoteLu = s.remoteLu := by unfold State.modCore; split <;> rfl
@[simp] theorem State.modCore_jobChips (s : State) (n : Nat) (f : Core → Core) : (s.modCore n f).jobChips = s.jobChips := by unfold State.modCore; split <;> rfl
@[simp] theorem State.modCore_dbg (s : State) (n : Nat) (f : Core → Core) : (s.modCore n f).dbg = s.dbg := by unfold State.modCore; split <;> rfl
@[simp] theorem State.modCore_blackBox (s : State) (n : Nat) (f : Core → Core) : (s.modCore n f).blackBox = s.blackBox := by unfold State.modCore; split <;> rfl
@[simp] theorem State.modCore_faultsNow (s : State) (n : Nat) (f : Core → Core) : (s.modCore n f).faultsNow = s.faultsNow := by unfold State.modCore; split <;> rfl
@[simp] theorem State.modCore_racesNow (s : State) (n : Nat) (f : Core → Core) : (s.modCore n f).racesNow = s.racesNow := by unfold State.modCore; split <;> rfl
@[simp] theorem State.modCore_divsNow (s : State) (n : Nat) (f : Core → Core) : (s.modCore n f).divsNow = s.divsNow := by unfold State.modCore; split <;> rfl
@[simp] theorem State.modCore_boot (s : State) (n : Nat) (f : Core → Core) : (s.modCore n f).boot = s.boot := by unfold State.modCore; split <;> rfl
@[simp] theorem State.modCore_powerCap (s : State) (n : Nat) (f : Core → Core) : (s.modCore n f).powerCap = s.powerCap := by unfold State.modCore; split <;> rfl

/-! ## modCox -/

@[simp] theorem State.modCox_agenda (s : State) (x : CoxId) (f : Cox → Cox) : (s.modCox x f).agenda = s.agenda := by unfold State.modCox; split <;> rfl
@[simp] theorem State.modCox_focus (s : State) (x : CoxId) (f : Cox → Cox) : (s.modCox x f).focus = s.focus := by unfold State.modCox; split <;> rfl
@[simp] theorem State.modCox_rotor (s : State) (x : CoxId) (f : Cox → Cox) : (s.modCox x f).rotor = s.rotor := by unfold State.modCox; split <;> rfl
@[simp] theorem State.modCox_fresh (s : State) (x : CoxId) (f : Cox → Cox) : (s.modCox x f).fresh = s.fresh := by unfold State.modCox; split <;> rfl
@[simp] theorem State.modCox_serial (s : State) (x : CoxId) (f : Cox → Cox) : (s.modCox x f).serial = s.serial := by unfold State.modCox; split <;> rfl
@[simp] theorem State.modCox_now (s : State) (x : CoxId) (f : Cox → Cox) : (s.modCox x f).now = s.now := by unfold State.modCox; split <;> rfl
@[simp] theorem State.modCox_timeOff (s : State) (x : CoxId) (f : Cox → Cox) : (s.modCox x f).timeOff = s.timeOff := by unfold State.modCox; split <;> rfl
@[simp] theorem State.modCox_slew (s : State) (x : CoxId) (f : Cox → Cox) : (s.modCox x f).slew = s.slew := by unfold State.modCox; split <;> rfl
@[simp] theorem State.modCox_mem (s : State) (x : CoxId) (f : Cox → Cox) : (s.modCox x f).mem = s.mem := by unfold State.modCox; split <;> rfl
@[simp] theorem State.modCox_l3 (s : State) (x : CoxId) (f : Cox → Cox) : (s.modCox x f).l3 = s.l3 := by unfold State.modCox; split <;> rfl
@[simp] theorem State.modCox_hubs (s : State) (x : CoxId) (f : Cox → Cox) : (s.modCox x f).hubs = s.hubs := by unfold State.modCox; split <;> rfl
@[simp] theorem State.modCox_sections (s : State) (x : CoxId) (f : Cox → Cox) : (s.modCox x f).sections = s.sections := by unfold State.modCox; split <;> rfl
@[simp] theorem State.modCox_cores (s : State) (x : CoxId) (f : Cox → Cox) : (s.modCox x f).cores = s.cores := by unfold State.modCox; split <;> rfl
@[simp] theorem State.modCox_asids (s : State) (x : CoxId) (f : Cox → Cox) : (s.modCox x f).asids = s.asids := by unfold State.modCox; split <;> rfl
@[simp] theorem State.modCox_launches (s : State) (x : CoxId) (f : Cox → Cox) : (s.modCox x f).launches = s.launches := by unfold State.modCox; split <;> rfl
@[simp] theorem State.modCox_groups (s : State) (x : CoxId) (f : Cox → Cox) : (s.modCox x f).groups = s.groups := by unfold State.modCox; split <;> rfl
@[simp] theorem State.modCox_waiting (s : State) (x : CoxId) (f : Cox → Cox) : (s.modCox x f).waiting = s.waiting := by unfold State.modCox; split <;> rfl
@[simp] theorem State.modCox_reserved (s : State) (x : CoxId) (f : Cox → Cox) : (s.modCox x f).reserved = s.reserved := by unfold State.modCox; split <;> rfl
@[simp] theorem State.modCox_walks (s : State) (x : CoxId) (f : Cox → Cox) : (s.modCox x f).walks = s.walks := by unfold State.modCox; split <;> rfl
@[simp] theorem State.modCox_tags (s : State) (x : CoxId) (f : Cox → Cox) : (s.modCox x f).tags = s.tags := by unfold State.modCox; split <;> rfl
@[simp] theorem State.modCox_hostO (s : State) (x : CoxId) (f : Cox → Cox) : (s.modCox x f).hostO = s.hostO := by unfold State.modCox; split <;> rfl
@[simp] theorem State.modCox_hostS (s : State) (x : CoxId) (f : Cox → Cox) : (s.modCox x f).hostS = s.hostS := by unfold State.modCox; split <;> rfl
@[simp] theorem State.modCox_hostCount (s : State) (x : CoxId) (f : Cox → Cox) : (s.modCox x f).hostCount = s.hostCount := by unfold State.modCox; split <;> rfl
@[simp] theorem State.modCox_hostHeld (s : State) (x : CoxId) (f : Cox → Cox) : (s.modCox x f).hostHeld = s.hostHeld := by unfold State.modCox; split <;> rfl
@[simp] theorem State.modCox_chip (s : State) (x : CoxId) (f : Cox → Cox) : (s.modCox x f).chip = s.chip := by unfold State.modCox; split <;> rfl
@[simp] theorem State.modCox_bar2 (s : State) (x : CoxId) (f : Cox → Cox) : (s.modCox x f).bar2 = s.bar2 := by unfold State.modCox; split <;> rfl
@[simp] theorem State.modCox_bar2Log (s : State) (x : CoxId) (f : Cox → Cox) : (s.modCox x f).bar2Log = s.bar2Log := by unfold State.modCox; split <;> rfl
@[simp] theorem State.modCox_routes (s : State) (x : CoxId) (f : Cox → Cox) : (s.modCox x f).routes = s.routes := by unfold State.modCox; split <;> rfl
@[simp] theorem State.modCox_bar2ur (s : State) (x : CoxId) (f : Cox → Cox) : (s.modCox x f).bar2ur = s.bar2ur := by unfold State.modCox; split <;> rfl
@[simp] theorem State.modCox_hostUrOff (s : State) (x : CoxId) (f : Cox → Cox) : (s.modCox x f).hostUrOff = s.hostUrOff := by unfold State.modCox; split <;> rfl
@[simp] theorem State.modCox_linkUp (s : State) (x : CoxId) (f : Cox → Cox) : (s.modCox x f).linkUp = s.linkUp := by unfold State.modCox; split <;> rfl
@[simp] theorem State.modCox_msixMask (s : State) (x : CoxId) (f : Cox → Cox) : (s.modCox x f).msixMask = s.msixMask := by unfold State.modCox; split <;> rfl
@[simp] theorem State.modCox_msixPend (s : State) (x : CoxId) (f : Cox → Cox) : (s.modCox x f).msixPend = s.msixPend := by unfold State.modCox; split <;> rfl
@[simp] theorem State.modCox_msixSent (s : State) (x : CoxId) (f : Cox → Cox) : (s.modCox x f).msixSent = s.msixSent := by unfold State.modCox; split <;> rfl
@[simp] theorem State.modCox_hostOut (s : State) (x : CoxId) (f : Cox → Cox) : (s.modCox x f).hostOut = s.hostOut := by unfold State.modCox; split <;> rfl
@[simp] theorem State.modCox_spdmChunk (s : State) (x : CoxId) (f : Cox → Cox) : (s.modCox x f).spdmChunk = s.spdmChunk := by unfold State.modCox; split <;> rfl
@[simp] theorem State.modCox_ports (s : State) (x : CoxId) (f : Cox → Cox) : (s.modCox x f).ports = s.ports := by unfold State.modCox; split <;> rfl
@[simp] theorem State.modCox_peerOut (s : State) (x : CoxId) (f : Cox → Cox) : (s.modCox x f).peerOut = s.peerOut := by unfold State.modCox; split <;> rfl
@[simp] theorem State.modCox_peerSent (s : State) (x : CoxId) (f : Cox → Cox) : (s.modCox x f).peerSent = s.peerSent := by unfold State.modCox; split <;> rfl
@[simp] theorem State.modCox_peerHeld (s : State) (x : CoxId) (f : Cox → Cox) : (s.modCox x f).peerHeld = s.peerHeld := by unfold State.modCox; split <;> rfl
@[simp] theorem State.modCox_foreign (s : State) (x : CoxId) (f : Cox → Cox) : (s.modCox x f).foreign = s.foreign := by unfold State.modCox; split <;> rfl
@[simp] theorem State.modCox_peerChunks (s : State) (x : CoxId) (f : Cox → Cox) : (s.modCox x f).peerChunks = s.peerChunks := by unfold State.modCox; split <;> rfl
@[simp] theorem State.modCox_remoteLu (s : State) (x : CoxId) (f : Cox → Cox) : (s.modCox x f).remoteLu = s.remoteLu := by unfold State.modCox; split <;> rfl
@[simp] theorem State.modCox_jobChips (s : State) (x : CoxId) (f : Cox → Cox) : (s.modCox x f).jobChips = s.jobChips := by unfold State.modCox; split <;> rfl
@[simp] theorem State.modCox_dbg (s : State) (x : CoxId) (f : Cox → Cox) : (s.modCox x f).dbg = s.dbg := by unfold State.modCox; split <;> rfl
@[simp] theorem State.modCox_blackBox (s : State) (x : CoxId) (f : Cox → Cox) : (s.modCox x f).blackBox = s.blackBox := by unfold State.modCox; split <;> rfl
@[simp] theorem State.modCox_faultsNow (s : State) (x : CoxId) (f : Cox → Cox) : (s.modCox x f).faultsNow = s.faultsNow := by unfold State.modCox; split <;> rfl
@[simp] theorem State.modCox_racesNow (s : State) (x : CoxId) (f : Cox → Cox) : (s.modCox x f).racesNow = s.racesNow := by unfold State.modCox; split <;> rfl
@[simp] theorem State.modCox_divsNow (s : State) (x : CoxId) (f : Cox → Cox) : (s.modCox x f).divsNow = s.divsNow := by unfold State.modCox; split <;> rfl
@[simp] theorem State.modCox_boot (s : State) (x : CoxId) (f : Cox → Cox) : (s.modCox x f).boot = s.boot := by unfold State.modCox; split <;> rfl
@[simp] theorem State.modCox_powerCap (s : State) (x : CoxId) (f : Cox → Cox) : (s.modCox x f).powerCap = s.powerCap := by unfold State.modCox; split <;> rfl

/-! ## modAsid -/

@[simp] theorem State.modAsid_agenda (s : State) (a : BitVec 16) (f : AsidSt → AsidSt) : (s.modAsid a f).agenda = s.agenda := by unfold State.modAsid; split <;> rfl
@[simp] theorem State.modAsid_focus (s : State) (a : BitVec 16) (f : AsidSt → AsidSt) : (s.modAsid a f).focus = s.focus := by unfold State.modAsid; split <;> rfl
@[simp] theorem State.modAsid_rotor (s : State) (a : BitVec 16) (f : AsidSt → AsidSt) : (s.modAsid a f).rotor = s.rotor := by unfold State.modAsid; split <;> rfl
@[simp] theorem State.modAsid_fresh (s : State) (a : BitVec 16) (f : AsidSt → AsidSt) : (s.modAsid a f).fresh = s.fresh := by unfold State.modAsid; split <;> rfl
@[simp] theorem State.modAsid_serial (s : State) (a : BitVec 16) (f : AsidSt → AsidSt) : (s.modAsid a f).serial = s.serial := by unfold State.modAsid; split <;> rfl
@[simp] theorem State.modAsid_now (s : State) (a : BitVec 16) (f : AsidSt → AsidSt) : (s.modAsid a f).now = s.now := by unfold State.modAsid; split <;> rfl
@[simp] theorem State.modAsid_timeOff (s : State) (a : BitVec 16) (f : AsidSt → AsidSt) : (s.modAsid a f).timeOff = s.timeOff := by unfold State.modAsid; split <;> rfl
@[simp] theorem State.modAsid_slew (s : State) (a : BitVec 16) (f : AsidSt → AsidSt) : (s.modAsid a f).slew = s.slew := by unfold State.modAsid; split <;> rfl
@[simp] theorem State.modAsid_mem (s : State) (a : BitVec 16) (f : AsidSt → AsidSt) : (s.modAsid a f).mem = s.mem := by unfold State.modAsid; split <;> rfl
@[simp] theorem State.modAsid_l3 (s : State) (a : BitVec 16) (f : AsidSt → AsidSt) : (s.modAsid a f).l3 = s.l3 := by unfold State.modAsid; split <;> rfl
@[simp] theorem State.modAsid_hubs (s : State) (a : BitVec 16) (f : AsidSt → AsidSt) : (s.modAsid a f).hubs = s.hubs := by unfold State.modAsid; split <;> rfl
@[simp] theorem State.modAsid_sections (s : State) (a : BitVec 16) (f : AsidSt → AsidSt) : (s.modAsid a f).sections = s.sections := by unfold State.modAsid; split <;> rfl
@[simp] theorem State.modAsid_cores (s : State) (a : BitVec 16) (f : AsidSt → AsidSt) : (s.modAsid a f).cores = s.cores := by unfold State.modAsid; split <;> rfl
@[simp] theorem State.modAsid_coxes (s : State) (a : BitVec 16) (f : AsidSt → AsidSt) : (s.modAsid a f).coxes = s.coxes := by unfold State.modAsid; split <;> rfl
@[simp] theorem State.modAsid_launches (s : State) (a : BitVec 16) (f : AsidSt → AsidSt) : (s.modAsid a f).launches = s.launches := by unfold State.modAsid; split <;> rfl
@[simp] theorem State.modAsid_groups (s : State) (a : BitVec 16) (f : AsidSt → AsidSt) : (s.modAsid a f).groups = s.groups := by unfold State.modAsid; split <;> rfl
@[simp] theorem State.modAsid_waiting (s : State) (a : BitVec 16) (f : AsidSt → AsidSt) : (s.modAsid a f).waiting = s.waiting := by unfold State.modAsid; split <;> rfl
@[simp] theorem State.modAsid_reserved (s : State) (a : BitVec 16) (f : AsidSt → AsidSt) : (s.modAsid a f).reserved = s.reserved := by unfold State.modAsid; split <;> rfl
@[simp] theorem State.modAsid_walks (s : State) (a : BitVec 16) (f : AsidSt → AsidSt) : (s.modAsid a f).walks = s.walks := by unfold State.modAsid; split <;> rfl
@[simp] theorem State.modAsid_tags (s : State) (a : BitVec 16) (f : AsidSt → AsidSt) : (s.modAsid a f).tags = s.tags := by unfold State.modAsid; split <;> rfl
@[simp] theorem State.modAsid_hostO (s : State) (a : BitVec 16) (f : AsidSt → AsidSt) : (s.modAsid a f).hostO = s.hostO := by unfold State.modAsid; split <;> rfl
@[simp] theorem State.modAsid_hostS (s : State) (a : BitVec 16) (f : AsidSt → AsidSt) : (s.modAsid a f).hostS = s.hostS := by unfold State.modAsid; split <;> rfl
@[simp] theorem State.modAsid_hostCount (s : State) (a : BitVec 16) (f : AsidSt → AsidSt) : (s.modAsid a f).hostCount = s.hostCount := by unfold State.modAsid; split <;> rfl
@[simp] theorem State.modAsid_hostHeld (s : State) (a : BitVec 16) (f : AsidSt → AsidSt) : (s.modAsid a f).hostHeld = s.hostHeld := by unfold State.modAsid; split <;> rfl
@[simp] theorem State.modAsid_chip (s : State) (a : BitVec 16) (f : AsidSt → AsidSt) : (s.modAsid a f).chip = s.chip := by unfold State.modAsid; split <;> rfl
@[simp] theorem State.modAsid_bar2 (s : State) (a : BitVec 16) (f : AsidSt → AsidSt) : (s.modAsid a f).bar2 = s.bar2 := by unfold State.modAsid; split <;> rfl
@[simp] theorem State.modAsid_bar2Log (s : State) (a : BitVec 16) (f : AsidSt → AsidSt) : (s.modAsid a f).bar2Log = s.bar2Log := by unfold State.modAsid; split <;> rfl
@[simp] theorem State.modAsid_routes (s : State) (a : BitVec 16) (f : AsidSt → AsidSt) : (s.modAsid a f).routes = s.routes := by unfold State.modAsid; split <;> rfl
@[simp] theorem State.modAsid_bar2ur (s : State) (a : BitVec 16) (f : AsidSt → AsidSt) : (s.modAsid a f).bar2ur = s.bar2ur := by unfold State.modAsid; split <;> rfl
@[simp] theorem State.modAsid_hostUrOff (s : State) (a : BitVec 16) (f : AsidSt → AsidSt) : (s.modAsid a f).hostUrOff = s.hostUrOff := by unfold State.modAsid; split <;> rfl
@[simp] theorem State.modAsid_linkUp (s : State) (a : BitVec 16) (f : AsidSt → AsidSt) : (s.modAsid a f).linkUp = s.linkUp := by unfold State.modAsid; split <;> rfl
@[simp] theorem State.modAsid_msixMask (s : State) (a : BitVec 16) (f : AsidSt → AsidSt) : (s.modAsid a f).msixMask = s.msixMask := by unfold State.modAsid; split <;> rfl
@[simp] theorem State.modAsid_msixPend (s : State) (a : BitVec 16) (f : AsidSt → AsidSt) : (s.modAsid a f).msixPend = s.msixPend := by unfold State.modAsid; split <;> rfl
@[simp] theorem State.modAsid_msixSent (s : State) (a : BitVec 16) (f : AsidSt → AsidSt) : (s.modAsid a f).msixSent = s.msixSent := by unfold State.modAsid; split <;> rfl
@[simp] theorem State.modAsid_hostOut (s : State) (a : BitVec 16) (f : AsidSt → AsidSt) : (s.modAsid a f).hostOut = s.hostOut := by unfold State.modAsid; split <;> rfl
@[simp] theorem State.modAsid_spdmChunk (s : State) (a : BitVec 16) (f : AsidSt → AsidSt) : (s.modAsid a f).spdmChunk = s.spdmChunk := by unfold State.modAsid; split <;> rfl
@[simp] theorem State.modAsid_ports (s : State) (a : BitVec 16) (f : AsidSt → AsidSt) : (s.modAsid a f).ports = s.ports := by unfold State.modAsid; split <;> rfl
@[simp] theorem State.modAsid_peerOut (s : State) (a : BitVec 16) (f : AsidSt → AsidSt) : (s.modAsid a f).peerOut = s.peerOut := by unfold State.modAsid; split <;> rfl
@[simp] theorem State.modAsid_peerSent (s : State) (a : BitVec 16) (f : AsidSt → AsidSt) : (s.modAsid a f).peerSent = s.peerSent := by unfold State.modAsid; split <;> rfl
@[simp] theorem State.modAsid_peerHeld (s : State) (a : BitVec 16) (f : AsidSt → AsidSt) : (s.modAsid a f).peerHeld = s.peerHeld := by unfold State.modAsid; split <;> rfl
@[simp] theorem State.modAsid_foreign (s : State) (a : BitVec 16) (f : AsidSt → AsidSt) : (s.modAsid a f).foreign = s.foreign := by unfold State.modAsid; split <;> rfl
@[simp] theorem State.modAsid_peerChunks (s : State) (a : BitVec 16) (f : AsidSt → AsidSt) : (s.modAsid a f).peerChunks = s.peerChunks := by unfold State.modAsid; split <;> rfl
@[simp] theorem State.modAsid_remoteLu (s : State) (a : BitVec 16) (f : AsidSt → AsidSt) : (s.modAsid a f).remoteLu = s.remoteLu := by unfold State.modAsid; split <;> rfl
@[simp] theorem State.modAsid_jobChips (s : State) (a : BitVec 16) (f : AsidSt → AsidSt) : (s.modAsid a f).jobChips = s.jobChips := by unfold State.modAsid; split <;> rfl
@[simp] theorem State.modAsid_dbg (s : State) (a : BitVec 16) (f : AsidSt → AsidSt) : (s.modAsid a f).dbg = s.dbg := by unfold State.modAsid; split <;> rfl
@[simp] theorem State.modAsid_blackBox (s : State) (a : BitVec 16) (f : AsidSt → AsidSt) : (s.modAsid a f).blackBox = s.blackBox := by unfold State.modAsid; split <;> rfl
@[simp] theorem State.modAsid_faultsNow (s : State) (a : BitVec 16) (f : AsidSt → AsidSt) : (s.modAsid a f).faultsNow = s.faultsNow := by unfold State.modAsid; split <;> rfl
@[simp] theorem State.modAsid_racesNow (s : State) (a : BitVec 16) (f : AsidSt → AsidSt) : (s.modAsid a f).racesNow = s.racesNow := by unfold State.modAsid; split <;> rfl
@[simp] theorem State.modAsid_divsNow (s : State) (a : BitVec 16) (f : AsidSt → AsidSt) : (s.modAsid a f).divsNow = s.divsNow := by unfold State.modAsid; split <;> rfl
@[simp] theorem State.modAsid_boot (s : State) (a : BitVec 16) (f : AsidSt → AsidSt) : (s.modAsid a f).boot = s.boot := by unfold State.modAsid; split <;> rfl
@[simp] theorem State.modAsid_powerCap (s : State) (a : BitVec 16) (f : AsidSt → AsidSt) : (s.modAsid a f).powerCap = s.powerCap := by unfold State.modAsid; split <;> rfl

/-! ## modPort -/

@[simp] theorem State.modPort_agenda (s : State) (n : Nat) (f : Port → Port) : (s.modPort n f).agenda = s.agenda := by unfold State.modPort; split <;> rfl
@[simp] theorem State.modPort_focus (s : State) (n : Nat) (f : Port → Port) : (s.modPort n f).focus = s.focus := by unfold State.modPort; split <;> rfl
@[simp] theorem State.modPort_rotor (s : State) (n : Nat) (f : Port → Port) : (s.modPort n f).rotor = s.rotor := by unfold State.modPort; split <;> rfl
@[simp] theorem State.modPort_fresh (s : State) (n : Nat) (f : Port → Port) : (s.modPort n f).fresh = s.fresh := by unfold State.modPort; split <;> rfl
@[simp] theorem State.modPort_serial (s : State) (n : Nat) (f : Port → Port) : (s.modPort n f).serial = s.serial := by unfold State.modPort; split <;> rfl
@[simp] theorem State.modPort_now (s : State) (n : Nat) (f : Port → Port) : (s.modPort n f).now = s.now := by unfold State.modPort; split <;> rfl
@[simp] theorem State.modPort_timeOff (s : State) (n : Nat) (f : Port → Port) : (s.modPort n f).timeOff = s.timeOff := by unfold State.modPort; split <;> rfl
@[simp] theorem State.modPort_slew (s : State) (n : Nat) (f : Port → Port) : (s.modPort n f).slew = s.slew := by unfold State.modPort; split <;> rfl
@[simp] theorem State.modPort_mem (s : State) (n : Nat) (f : Port → Port) : (s.modPort n f).mem = s.mem := by unfold State.modPort; split <;> rfl
@[simp] theorem State.modPort_l3 (s : State) (n : Nat) (f : Port → Port) : (s.modPort n f).l3 = s.l3 := by unfold State.modPort; split <;> rfl
@[simp] theorem State.modPort_hubs (s : State) (n : Nat) (f : Port → Port) : (s.modPort n f).hubs = s.hubs := by unfold State.modPort; split <;> rfl
@[simp] theorem State.modPort_sections (s : State) (n : Nat) (f : Port → Port) : (s.modPort n f).sections = s.sections := by unfold State.modPort; split <;> rfl
@[simp] theorem State.modPort_cores (s : State) (n : Nat) (f : Port → Port) : (s.modPort n f).cores = s.cores := by unfold State.modPort; split <;> rfl
@[simp] theorem State.modPort_coxes (s : State) (n : Nat) (f : Port → Port) : (s.modPort n f).coxes = s.coxes := by unfold State.modPort; split <;> rfl
@[simp] theorem State.modPort_asids (s : State) (n : Nat) (f : Port → Port) : (s.modPort n f).asids = s.asids := by unfold State.modPort; split <;> rfl
@[simp] theorem State.modPort_launches (s : State) (n : Nat) (f : Port → Port) : (s.modPort n f).launches = s.launches := by unfold State.modPort; split <;> rfl
@[simp] theorem State.modPort_groups (s : State) (n : Nat) (f : Port → Port) : (s.modPort n f).groups = s.groups := by unfold State.modPort; split <;> rfl
@[simp] theorem State.modPort_waiting (s : State) (n : Nat) (f : Port → Port) : (s.modPort n f).waiting = s.waiting := by unfold State.modPort; split <;> rfl
@[simp] theorem State.modPort_reserved (s : State) (n : Nat) (f : Port → Port) : (s.modPort n f).reserved = s.reserved := by unfold State.modPort; split <;> rfl
@[simp] theorem State.modPort_walks (s : State) (n : Nat) (f : Port → Port) : (s.modPort n f).walks = s.walks := by unfold State.modPort; split <;> rfl
@[simp] theorem State.modPort_tags (s : State) (n : Nat) (f : Port → Port) : (s.modPort n f).tags = s.tags := by unfold State.modPort; split <;> rfl
@[simp] theorem State.modPort_hostO (s : State) (n : Nat) (f : Port → Port) : (s.modPort n f).hostO = s.hostO := by unfold State.modPort; split <;> rfl
@[simp] theorem State.modPort_hostS (s : State) (n : Nat) (f : Port → Port) : (s.modPort n f).hostS = s.hostS := by unfold State.modPort; split <;> rfl
@[simp] theorem State.modPort_hostCount (s : State) (n : Nat) (f : Port → Port) : (s.modPort n f).hostCount = s.hostCount := by unfold State.modPort; split <;> rfl
@[simp] theorem State.modPort_hostHeld (s : State) (n : Nat) (f : Port → Port) : (s.modPort n f).hostHeld = s.hostHeld := by unfold State.modPort; split <;> rfl
@[simp] theorem State.modPort_chip (s : State) (n : Nat) (f : Port → Port) : (s.modPort n f).chip = s.chip := by unfold State.modPort; split <;> rfl
@[simp] theorem State.modPort_bar2 (s : State) (n : Nat) (f : Port → Port) : (s.modPort n f).bar2 = s.bar2 := by unfold State.modPort; split <;> rfl
@[simp] theorem State.modPort_bar2Log (s : State) (n : Nat) (f : Port → Port) : (s.modPort n f).bar2Log = s.bar2Log := by unfold State.modPort; split <;> rfl
@[simp] theorem State.modPort_routes (s : State) (n : Nat) (f : Port → Port) : (s.modPort n f).routes = s.routes := by unfold State.modPort; split <;> rfl
@[simp] theorem State.modPort_bar2ur (s : State) (n : Nat) (f : Port → Port) : (s.modPort n f).bar2ur = s.bar2ur := by unfold State.modPort; split <;> rfl
@[simp] theorem State.modPort_hostUrOff (s : State) (n : Nat) (f : Port → Port) : (s.modPort n f).hostUrOff = s.hostUrOff := by unfold State.modPort; split <;> rfl
@[simp] theorem State.modPort_linkUp (s : State) (n : Nat) (f : Port → Port) : (s.modPort n f).linkUp = s.linkUp := by unfold State.modPort; split <;> rfl
@[simp] theorem State.modPort_msixMask (s : State) (n : Nat) (f : Port → Port) : (s.modPort n f).msixMask = s.msixMask := by unfold State.modPort; split <;> rfl
@[simp] theorem State.modPort_msixPend (s : State) (n : Nat) (f : Port → Port) : (s.modPort n f).msixPend = s.msixPend := by unfold State.modPort; split <;> rfl
@[simp] theorem State.modPort_msixSent (s : State) (n : Nat) (f : Port → Port) : (s.modPort n f).msixSent = s.msixSent := by unfold State.modPort; split <;> rfl
@[simp] theorem State.modPort_hostOut (s : State) (n : Nat) (f : Port → Port) : (s.modPort n f).hostOut = s.hostOut := by unfold State.modPort; split <;> rfl
@[simp] theorem State.modPort_spdmChunk (s : State) (n : Nat) (f : Port → Port) : (s.modPort n f).spdmChunk = s.spdmChunk := by unfold State.modPort; split <;> rfl
@[simp] theorem State.modPort_peerOut (s : State) (n : Nat) (f : Port → Port) : (s.modPort n f).peerOut = s.peerOut := by unfold State.modPort; split <;> rfl
@[simp] theorem State.modPort_peerSent (s : State) (n : Nat) (f : Port → Port) : (s.modPort n f).peerSent = s.peerSent := by unfold State.modPort; split <;> rfl
@[simp] theorem State.modPort_peerHeld (s : State) (n : Nat) (f : Port → Port) : (s.modPort n f).peerHeld = s.peerHeld := by unfold State.modPort; split <;> rfl
@[simp] theorem State.modPort_foreign (s : State) (n : Nat) (f : Port → Port) : (s.modPort n f).foreign = s.foreign := by unfold State.modPort; split <;> rfl
@[simp] theorem State.modPort_peerChunks (s : State) (n : Nat) (f : Port → Port) : (s.modPort n f).peerChunks = s.peerChunks := by unfold State.modPort; split <;> rfl
@[simp] theorem State.modPort_remoteLu (s : State) (n : Nat) (f : Port → Port) : (s.modPort n f).remoteLu = s.remoteLu := by unfold State.modPort; split <;> rfl
@[simp] theorem State.modPort_jobChips (s : State) (n : Nat) (f : Port → Port) : (s.modPort n f).jobChips = s.jobChips := by unfold State.modPort; split <;> rfl
@[simp] theorem State.modPort_dbg (s : State) (n : Nat) (f : Port → Port) : (s.modPort n f).dbg = s.dbg := by unfold State.modPort; split <;> rfl
@[simp] theorem State.modPort_blackBox (s : State) (n : Nat) (f : Port → Port) : (s.modPort n f).blackBox = s.blackBox := by unfold State.modPort; split <;> rfl
@[simp] theorem State.modPort_faultsNow (s : State) (n : Nat) (f : Port → Port) : (s.modPort n f).faultsNow = s.faultsNow := by unfold State.modPort; split <;> rfl
@[simp] theorem State.modPort_racesNow (s : State) (n : Nat) (f : Port → Port) : (s.modPort n f).racesNow = s.racesNow := by unfold State.modPort; split <;> rfl
@[simp] theorem State.modPort_divsNow (s : State) (n : Nat) (f : Port → Port) : (s.modPort n f).divsNow = s.divsNow := by unfold State.modPort; split <;> rfl
@[simp] theorem State.modPort_boot (s : State) (n : Nat) (f : Port → Port) : (s.modPort n f).boot = s.boot := by unfold State.modPort; split <;> rfl
@[simp] theorem State.modPort_powerCap (s : State) (n : Nat) (f : Port → Port) : (s.modPort n f).powerCap = s.powerCap := by unfold State.modPort; split <;> rfl

/-! ## schedule -/

@[simp] theorem State.schedule_focus (s : State) (dt : Nat) (a : Act) : (s.schedule dt a).focus = s.focus := rfl
@[simp] theorem State.schedule_rotor (s : State) (dt : Nat) (a : Act) : (s.schedule dt a).rotor = s.rotor := rfl
@[simp] theorem State.schedule_fresh (s : State) (dt : Nat) (a : Act) : (s.schedule dt a).fresh = s.fresh := rfl
@[simp] theorem State.schedule_serial (s : State) (dt : Nat) (a : Act) : (s.schedule dt a).serial = s.serial := rfl
@[simp] theorem State.schedule_now (s : State) (dt : Nat) (a : Act) : (s.schedule dt a).now = s.now := rfl
@[simp] theorem State.schedule_timeOff (s : State) (dt : Nat) (a : Act) : (s.schedule dt a).timeOff = s.timeOff := rfl
@[simp] theorem State.schedule_slew (s : State) (dt : Nat) (a : Act) : (s.schedule dt a).slew = s.slew := rfl
@[simp] theorem State.schedule_mem (s : State) (dt : Nat) (a : Act) : (s.schedule dt a).mem = s.mem := rfl
@[simp] theorem State.schedule_l3 (s : State) (dt : Nat) (a : Act) : (s.schedule dt a).l3 = s.l3 := rfl
@[simp] theorem State.schedule_hubs (s : State) (dt : Nat) (a : Act) : (s.schedule dt a).hubs = s.hubs := rfl
@[simp] theorem State.schedule_sections (s : State) (dt : Nat) (a : Act) : (s.schedule dt a).sections = s.sections := rfl
@[simp] theorem State.schedule_cores (s : State) (dt : Nat) (a : Act) : (s.schedule dt a).cores = s.cores := rfl
@[simp] theorem State.schedule_coxes (s : State) (dt : Nat) (a : Act) : (s.schedule dt a).coxes = s.coxes := rfl
@[simp] theorem State.schedule_asids (s : State) (dt : Nat) (a : Act) : (s.schedule dt a).asids = s.asids := rfl
@[simp] theorem State.schedule_launches (s : State) (dt : Nat) (a : Act) : (s.schedule dt a).launches = s.launches := rfl
@[simp] theorem State.schedule_groups (s : State) (dt : Nat) (a : Act) : (s.schedule dt a).groups = s.groups := rfl
@[simp] theorem State.schedule_waiting (s : State) (dt : Nat) (a : Act) : (s.schedule dt a).waiting = s.waiting := rfl
@[simp] theorem State.schedule_reserved (s : State) (dt : Nat) (a : Act) : (s.schedule dt a).reserved = s.reserved := rfl
@[simp] theorem State.schedule_walks (s : State) (dt : Nat) (a : Act) : (s.schedule dt a).walks = s.walks := rfl
@[simp] theorem State.schedule_tags (s : State) (dt : Nat) (a : Act) : (s.schedule dt a).tags = s.tags := rfl
@[simp] theorem State.schedule_hostO (s : State) (dt : Nat) (a : Act) : (s.schedule dt a).hostO = s.hostO := rfl
@[simp] theorem State.schedule_hostS (s : State) (dt : Nat) (a : Act) : (s.schedule dt a).hostS = s.hostS := rfl
@[simp] theorem State.schedule_hostCount (s : State) (dt : Nat) (a : Act) : (s.schedule dt a).hostCount = s.hostCount := rfl
@[simp] theorem State.schedule_hostHeld (s : State) (dt : Nat) (a : Act) : (s.schedule dt a).hostHeld = s.hostHeld := rfl
@[simp] theorem State.schedule_chip (s : State) (dt : Nat) (a : Act) : (s.schedule dt a).chip = s.chip := rfl
@[simp] theorem State.schedule_bar2 (s : State) (dt : Nat) (a : Act) : (s.schedule dt a).bar2 = s.bar2 := rfl
@[simp] theorem State.schedule_bar2Log (s : State) (dt : Nat) (a : Act) : (s.schedule dt a).bar2Log = s.bar2Log := rfl
@[simp] theorem State.schedule_routes (s : State) (dt : Nat) (a : Act) : (s.schedule dt a).routes = s.routes := rfl
@[simp] theorem State.schedule_bar2ur (s : State) (dt : Nat) (a : Act) : (s.schedule dt a).bar2ur = s.bar2ur := rfl
@[simp] theorem State.schedule_hostUrOff (s : State) (dt : Nat) (a : Act) : (s.schedule dt a).hostUrOff = s.hostUrOff := rfl
@[simp] theorem State.schedule_linkUp (s : State) (dt : Nat) (a : Act) : (s.schedule dt a).linkUp = s.linkUp := rfl
@[simp] theorem State.schedule_msixMask (s : State) (dt : Nat) (a : Act) : (s.schedule dt a).msixMask = s.msixMask := rfl
@[simp] theorem State.schedule_msixPend (s : State) (dt : Nat) (a : Act) : (s.schedule dt a).msixPend = s.msixPend := rfl
@[simp] theorem State.schedule_msixSent (s : State) (dt : Nat) (a : Act) : (s.schedule dt a).msixSent = s.msixSent := rfl
@[simp] theorem State.schedule_hostOut (s : State) (dt : Nat) (a : Act) : (s.schedule dt a).hostOut = s.hostOut := rfl
@[simp] theorem State.schedule_spdmChunk (s : State) (dt : Nat) (a : Act) : (s.schedule dt a).spdmChunk = s.spdmChunk := rfl
@[simp] theorem State.schedule_ports (s : State) (dt : Nat) (a : Act) : (s.schedule dt a).ports = s.ports := rfl
@[simp] theorem State.schedule_peerOut (s : State) (dt : Nat) (a : Act) : (s.schedule dt a).peerOut = s.peerOut := rfl
@[simp] theorem State.schedule_peerSent (s : State) (dt : Nat) (a : Act) : (s.schedule dt a).peerSent = s.peerSent := rfl
@[simp] theorem State.schedule_peerHeld (s : State) (dt : Nat) (a : Act) : (s.schedule dt a).peerHeld = s.peerHeld := rfl
@[simp] theorem State.schedule_foreign (s : State) (dt : Nat) (a : Act) : (s.schedule dt a).foreign = s.foreign := rfl
@[simp] theorem State.schedule_peerChunks (s : State) (dt : Nat) (a : Act) : (s.schedule dt a).peerChunks = s.peerChunks := rfl
@[simp] theorem State.schedule_remoteLu (s : State) (dt : Nat) (a : Act) : (s.schedule dt a).remoteLu = s.remoteLu := rfl
@[simp] theorem State.schedule_jobChips (s : State) (dt : Nat) (a : Act) : (s.schedule dt a).jobChips = s.jobChips := rfl
@[simp] theorem State.schedule_dbg (s : State) (dt : Nat) (a : Act) : (s.schedule dt a).dbg = s.dbg := rfl
@[simp] theorem State.schedule_blackBox (s : State) (dt : Nat) (a : Act) : (s.schedule dt a).blackBox = s.blackBox := rfl
@[simp] theorem State.schedule_faultsNow (s : State) (dt : Nat) (a : Act) : (s.schedule dt a).faultsNow = s.faultsNow := rfl
@[simp] theorem State.schedule_racesNow (s : State) (dt : Nat) (a : Act) : (s.schedule dt a).racesNow = s.racesNow := rfl
@[simp] theorem State.schedule_divsNow (s : State) (dt : Nat) (a : Act) : (s.schedule dt a).divsNow = s.divsNow := rfl
@[simp] theorem State.schedule_boot (s : State) (dt : Nat) (a : Act) : (s.schedule dt a).boot = s.boot := rfl
@[simp] theorem State.schedule_powerCap (s : State) (dt : Nat) (a : Act) : (s.schedule dt a).powerCap = s.powerCap := rfl

/-! ## atCycle -/

@[simp] theorem State.atCycle_focus (s : State) (c : Nat) (i : Instr) : (s.atCycle c i).focus = s.focus := rfl
@[simp] theorem State.atCycle_rotor (s : State) (c : Nat) (i : Instr) : (s.atCycle c i).rotor = s.rotor := rfl
@[simp] theorem State.atCycle_fresh (s : State) (c : Nat) (i : Instr) : (s.atCycle c i).fresh = s.fresh := rfl
@[simp] theorem State.atCycle_serial (s : State) (c : Nat) (i : Instr) : (s.atCycle c i).serial = s.serial := rfl
@[simp] theorem State.atCycle_now (s : State) (c : Nat) (i : Instr) : (s.atCycle c i).now = s.now := rfl
@[simp] theorem State.atCycle_timeOff (s : State) (c : Nat) (i : Instr) : (s.atCycle c i).timeOff = s.timeOff := rfl
@[simp] theorem State.atCycle_slew (s : State) (c : Nat) (i : Instr) : (s.atCycle c i).slew = s.slew := rfl
@[simp] theorem State.atCycle_mem (s : State) (c : Nat) (i : Instr) : (s.atCycle c i).mem = s.mem := rfl
@[simp] theorem State.atCycle_l3 (s : State) (c : Nat) (i : Instr) : (s.atCycle c i).l3 = s.l3 := rfl
@[simp] theorem State.atCycle_hubs (s : State) (c : Nat) (i : Instr) : (s.atCycle c i).hubs = s.hubs := rfl
@[simp] theorem State.atCycle_sections (s : State) (c : Nat) (i : Instr) : (s.atCycle c i).sections = s.sections := rfl
@[simp] theorem State.atCycle_cores (s : State) (c : Nat) (i : Instr) : (s.atCycle c i).cores = s.cores := rfl
@[simp] theorem State.atCycle_coxes (s : State) (c : Nat) (i : Instr) : (s.atCycle c i).coxes = s.coxes := rfl
@[simp] theorem State.atCycle_asids (s : State) (c : Nat) (i : Instr) : (s.atCycle c i).asids = s.asids := rfl
@[simp] theorem State.atCycle_launches (s : State) (c : Nat) (i : Instr) : (s.atCycle c i).launches = s.launches := rfl
@[simp] theorem State.atCycle_groups (s : State) (c : Nat) (i : Instr) : (s.atCycle c i).groups = s.groups := rfl
@[simp] theorem State.atCycle_waiting (s : State) (c : Nat) (i : Instr) : (s.atCycle c i).waiting = s.waiting := rfl
@[simp] theorem State.atCycle_reserved (s : State) (c : Nat) (i : Instr) : (s.atCycle c i).reserved = s.reserved := rfl
@[simp] theorem State.atCycle_walks (s : State) (c : Nat) (i : Instr) : (s.atCycle c i).walks = s.walks := rfl
@[simp] theorem State.atCycle_tags (s : State) (c : Nat) (i : Instr) : (s.atCycle c i).tags = s.tags := rfl
@[simp] theorem State.atCycle_hostO (s : State) (c : Nat) (i : Instr) : (s.atCycle c i).hostO = s.hostO := rfl
@[simp] theorem State.atCycle_hostS (s : State) (c : Nat) (i : Instr) : (s.atCycle c i).hostS = s.hostS := rfl
@[simp] theorem State.atCycle_hostCount (s : State) (c : Nat) (i : Instr) : (s.atCycle c i).hostCount = s.hostCount := rfl
@[simp] theorem State.atCycle_hostHeld (s : State) (c : Nat) (i : Instr) : (s.atCycle c i).hostHeld = s.hostHeld := rfl
@[simp] theorem State.atCycle_chip (s : State) (c : Nat) (i : Instr) : (s.atCycle c i).chip = s.chip := rfl
@[simp] theorem State.atCycle_bar2 (s : State) (c : Nat) (i : Instr) : (s.atCycle c i).bar2 = s.bar2 := rfl
@[simp] theorem State.atCycle_bar2Log (s : State) (c : Nat) (i : Instr) : (s.atCycle c i).bar2Log = s.bar2Log := rfl
@[simp] theorem State.atCycle_routes (s : State) (c : Nat) (i : Instr) : (s.atCycle c i).routes = s.routes := rfl
@[simp] theorem State.atCycle_bar2ur (s : State) (c : Nat) (i : Instr) : (s.atCycle c i).bar2ur = s.bar2ur := rfl
@[simp] theorem State.atCycle_hostUrOff (s : State) (c : Nat) (i : Instr) : (s.atCycle c i).hostUrOff = s.hostUrOff := rfl
@[simp] theorem State.atCycle_linkUp (s : State) (c : Nat) (i : Instr) : (s.atCycle c i).linkUp = s.linkUp := rfl
@[simp] theorem State.atCycle_msixMask (s : State) (c : Nat) (i : Instr) : (s.atCycle c i).msixMask = s.msixMask := rfl
@[simp] theorem State.atCycle_msixPend (s : State) (c : Nat) (i : Instr) : (s.atCycle c i).msixPend = s.msixPend := rfl
@[simp] theorem State.atCycle_msixSent (s : State) (c : Nat) (i : Instr) : (s.atCycle c i).msixSent = s.msixSent := rfl
@[simp] theorem State.atCycle_hostOut (s : State) (c : Nat) (i : Instr) : (s.atCycle c i).hostOut = s.hostOut := rfl
@[simp] theorem State.atCycle_spdmChunk (s : State) (c : Nat) (i : Instr) : (s.atCycle c i).spdmChunk = s.spdmChunk := rfl
@[simp] theorem State.atCycle_ports (s : State) (c : Nat) (i : Instr) : (s.atCycle c i).ports = s.ports := rfl
@[simp] theorem State.atCycle_peerOut (s : State) (c : Nat) (i : Instr) : (s.atCycle c i).peerOut = s.peerOut := rfl
@[simp] theorem State.atCycle_peerSent (s : State) (c : Nat) (i : Instr) : (s.atCycle c i).peerSent = s.peerSent := rfl
@[simp] theorem State.atCycle_peerHeld (s : State) (c : Nat) (i : Instr) : (s.atCycle c i).peerHeld = s.peerHeld := rfl
@[simp] theorem State.atCycle_foreign (s : State) (c : Nat) (i : Instr) : (s.atCycle c i).foreign = s.foreign := rfl
@[simp] theorem State.atCycle_peerChunks (s : State) (c : Nat) (i : Instr) : (s.atCycle c i).peerChunks = s.peerChunks := rfl
@[simp] theorem State.atCycle_remoteLu (s : State) (c : Nat) (i : Instr) : (s.atCycle c i).remoteLu = s.remoteLu := rfl
@[simp] theorem State.atCycle_jobChips (s : State) (c : Nat) (i : Instr) : (s.atCycle c i).jobChips = s.jobChips := rfl
@[simp] theorem State.atCycle_dbg (s : State) (c : Nat) (i : Instr) : (s.atCycle c i).dbg = s.dbg := rfl
@[simp] theorem State.atCycle_blackBox (s : State) (c : Nat) (i : Instr) : (s.atCycle c i).blackBox = s.blackBox := rfl
@[simp] theorem State.atCycle_faultsNow (s : State) (c : Nat) (i : Instr) : (s.atCycle c i).faultsNow = s.faultsNow := rfl
@[simp] theorem State.atCycle_racesNow (s : State) (c : Nat) (i : Instr) : (s.atCycle c i).racesNow = s.racesNow := rfl
@[simp] theorem State.atCycle_divsNow (s : State) (c : Nat) (i : Instr) : (s.atCycle c i).divsNow = s.divsNow := rfl
@[simp] theorem State.atCycle_boot (s : State) (c : Nat) (i : Instr) : (s.atCycle c i).boot = s.boot := rfl
@[simp] theorem State.atCycle_powerCap (s : State) (c : Nat) (i : Instr) : (s.atCycle c i).powerCap = s.powerCap := rfl

/-! ## inCycle -/

@[simp] theorem State.inCycle_focus (s : State) (c : Nat) (i : Instr) : (s.inCycle c i).focus = s.focus := rfl
@[simp] theorem State.inCycle_rotor (s : State) (c : Nat) (i : Instr) : (s.inCycle c i).rotor = s.rotor := rfl
@[simp] theorem State.inCycle_fresh (s : State) (c : Nat) (i : Instr) : (s.inCycle c i).fresh = s.fresh := rfl
@[simp] theorem State.inCycle_serial (s : State) (c : Nat) (i : Instr) : (s.inCycle c i).serial = s.serial := rfl
@[simp] theorem State.inCycle_now (s : State) (c : Nat) (i : Instr) : (s.inCycle c i).now = s.now := rfl
@[simp] theorem State.inCycle_timeOff (s : State) (c : Nat) (i : Instr) : (s.inCycle c i).timeOff = s.timeOff := rfl
@[simp] theorem State.inCycle_slew (s : State) (c : Nat) (i : Instr) : (s.inCycle c i).slew = s.slew := rfl
@[simp] theorem State.inCycle_mem (s : State) (c : Nat) (i : Instr) : (s.inCycle c i).mem = s.mem := rfl
@[simp] theorem State.inCycle_l3 (s : State) (c : Nat) (i : Instr) : (s.inCycle c i).l3 = s.l3 := rfl
@[simp] theorem State.inCycle_hubs (s : State) (c : Nat) (i : Instr) : (s.inCycle c i).hubs = s.hubs := rfl
@[simp] theorem State.inCycle_sections (s : State) (c : Nat) (i : Instr) : (s.inCycle c i).sections = s.sections := rfl
@[simp] theorem State.inCycle_cores (s : State) (c : Nat) (i : Instr) : (s.inCycle c i).cores = s.cores := rfl
@[simp] theorem State.inCycle_coxes (s : State) (c : Nat) (i : Instr) : (s.inCycle c i).coxes = s.coxes := rfl
@[simp] theorem State.inCycle_asids (s : State) (c : Nat) (i : Instr) : (s.inCycle c i).asids = s.asids := rfl
@[simp] theorem State.inCycle_launches (s : State) (c : Nat) (i : Instr) : (s.inCycle c i).launches = s.launches := rfl
@[simp] theorem State.inCycle_groups (s : State) (c : Nat) (i : Instr) : (s.inCycle c i).groups = s.groups := rfl
@[simp] theorem State.inCycle_waiting (s : State) (c : Nat) (i : Instr) : (s.inCycle c i).waiting = s.waiting := rfl
@[simp] theorem State.inCycle_reserved (s : State) (c : Nat) (i : Instr) : (s.inCycle c i).reserved = s.reserved := rfl
@[simp] theorem State.inCycle_walks (s : State) (c : Nat) (i : Instr) : (s.inCycle c i).walks = s.walks := rfl
@[simp] theorem State.inCycle_tags (s : State) (c : Nat) (i : Instr) : (s.inCycle c i).tags = s.tags := rfl
@[simp] theorem State.inCycle_hostO (s : State) (c : Nat) (i : Instr) : (s.inCycle c i).hostO = s.hostO := rfl
@[simp] theorem State.inCycle_hostS (s : State) (c : Nat) (i : Instr) : (s.inCycle c i).hostS = s.hostS := rfl
@[simp] theorem State.inCycle_hostCount (s : State) (c : Nat) (i : Instr) : (s.inCycle c i).hostCount = s.hostCount := rfl
@[simp] theorem State.inCycle_hostHeld (s : State) (c : Nat) (i : Instr) : (s.inCycle c i).hostHeld = s.hostHeld := rfl
@[simp] theorem State.inCycle_chip (s : State) (c : Nat) (i : Instr) : (s.inCycle c i).chip = s.chip := rfl
@[simp] theorem State.inCycle_bar2 (s : State) (c : Nat) (i : Instr) : (s.inCycle c i).bar2 = s.bar2 := rfl
@[simp] theorem State.inCycle_bar2Log (s : State) (c : Nat) (i : Instr) : (s.inCycle c i).bar2Log = s.bar2Log := rfl
@[simp] theorem State.inCycle_routes (s : State) (c : Nat) (i : Instr) : (s.inCycle c i).routes = s.routes := rfl
@[simp] theorem State.inCycle_bar2ur (s : State) (c : Nat) (i : Instr) : (s.inCycle c i).bar2ur = s.bar2ur := rfl
@[simp] theorem State.inCycle_hostUrOff (s : State) (c : Nat) (i : Instr) : (s.inCycle c i).hostUrOff = s.hostUrOff := rfl
@[simp] theorem State.inCycle_linkUp (s : State) (c : Nat) (i : Instr) : (s.inCycle c i).linkUp = s.linkUp := rfl
@[simp] theorem State.inCycle_msixMask (s : State) (c : Nat) (i : Instr) : (s.inCycle c i).msixMask = s.msixMask := rfl
@[simp] theorem State.inCycle_msixPend (s : State) (c : Nat) (i : Instr) : (s.inCycle c i).msixPend = s.msixPend := rfl
@[simp] theorem State.inCycle_msixSent (s : State) (c : Nat) (i : Instr) : (s.inCycle c i).msixSent = s.msixSent := rfl
@[simp] theorem State.inCycle_hostOut (s : State) (c : Nat) (i : Instr) : (s.inCycle c i).hostOut = s.hostOut := rfl
@[simp] theorem State.inCycle_spdmChunk (s : State) (c : Nat) (i : Instr) : (s.inCycle c i).spdmChunk = s.spdmChunk := rfl
@[simp] theorem State.inCycle_ports (s : State) (c : Nat) (i : Instr) : (s.inCycle c i).ports = s.ports := rfl
@[simp] theorem State.inCycle_peerOut (s : State) (c : Nat) (i : Instr) : (s.inCycle c i).peerOut = s.peerOut := rfl
@[simp] theorem State.inCycle_peerSent (s : State) (c : Nat) (i : Instr) : (s.inCycle c i).peerSent = s.peerSent := rfl
@[simp] theorem State.inCycle_peerHeld (s : State) (c : Nat) (i : Instr) : (s.inCycle c i).peerHeld = s.peerHeld := rfl
@[simp] theorem State.inCycle_foreign (s : State) (c : Nat) (i : Instr) : (s.inCycle c i).foreign = s.foreign := rfl
@[simp] theorem State.inCycle_peerChunks (s : State) (c : Nat) (i : Instr) : (s.inCycle c i).peerChunks = s.peerChunks := rfl
@[simp] theorem State.inCycle_remoteLu (s : State) (c : Nat) (i : Instr) : (s.inCycle c i).remoteLu = s.remoteLu := rfl
@[simp] theorem State.inCycle_jobChips (s : State) (c : Nat) (i : Instr) : (s.inCycle c i).jobChips = s.jobChips := rfl
@[simp] theorem State.inCycle_dbg (s : State) (c : Nat) (i : Instr) : (s.inCycle c i).dbg = s.dbg := rfl
@[simp] theorem State.inCycle_blackBox (s : State) (c : Nat) (i : Instr) : (s.inCycle c i).blackBox = s.blackBox := rfl
@[simp] theorem State.inCycle_faultsNow (s : State) (c : Nat) (i : Instr) : (s.inCycle c i).faultsNow = s.faultsNow := rfl
@[simp] theorem State.inCycle_racesNow (s : State) (c : Nat) (i : Instr) : (s.inCycle c i).racesNow = s.racesNow := rfl
@[simp] theorem State.inCycle_divsNow (s : State) (c : Nat) (i : Instr) : (s.inCycle c i).divsNow = s.divsNow := rfl
@[simp] theorem State.inCycle_boot (s : State) (c : Nat) (i : Instr) : (s.inCycle c i).boot = s.boot := rfl
@[simp] theorem State.inCycle_powerCap (s : State) (c : Nat) (i : Instr) : (s.inCycle c i).powerCap = s.powerCap := rfl

/-! ## atStart -/

@[simp] theorem State.atStart_focus (s : State) (i : Instr) : (s.atStart i).focus = s.focus := rfl
@[simp] theorem State.atStart_rotor (s : State) (i : Instr) : (s.atStart i).rotor = s.rotor := rfl
@[simp] theorem State.atStart_fresh (s : State) (i : Instr) : (s.atStart i).fresh = s.fresh := rfl
@[simp] theorem State.atStart_serial (s : State) (i : Instr) : (s.atStart i).serial = s.serial := rfl
@[simp] theorem State.atStart_now (s : State) (i : Instr) : (s.atStart i).now = s.now := rfl
@[simp] theorem State.atStart_timeOff (s : State) (i : Instr) : (s.atStart i).timeOff = s.timeOff := rfl
@[simp] theorem State.atStart_slew (s : State) (i : Instr) : (s.atStart i).slew = s.slew := rfl
@[simp] theorem State.atStart_mem (s : State) (i : Instr) : (s.atStart i).mem = s.mem := rfl
@[simp] theorem State.atStart_l3 (s : State) (i : Instr) : (s.atStart i).l3 = s.l3 := rfl
@[simp] theorem State.atStart_hubs (s : State) (i : Instr) : (s.atStart i).hubs = s.hubs := rfl
@[simp] theorem State.atStart_sections (s : State) (i : Instr) : (s.atStart i).sections = s.sections := rfl
@[simp] theorem State.atStart_cores (s : State) (i : Instr) : (s.atStart i).cores = s.cores := rfl
@[simp] theorem State.atStart_coxes (s : State) (i : Instr) : (s.atStart i).coxes = s.coxes := rfl
@[simp] theorem State.atStart_asids (s : State) (i : Instr) : (s.atStart i).asids = s.asids := rfl
@[simp] theorem State.atStart_launches (s : State) (i : Instr) : (s.atStart i).launches = s.launches := rfl
@[simp] theorem State.atStart_groups (s : State) (i : Instr) : (s.atStart i).groups = s.groups := rfl
@[simp] theorem State.atStart_waiting (s : State) (i : Instr) : (s.atStart i).waiting = s.waiting := rfl
@[simp] theorem State.atStart_reserved (s : State) (i : Instr) : (s.atStart i).reserved = s.reserved := rfl
@[simp] theorem State.atStart_walks (s : State) (i : Instr) : (s.atStart i).walks = s.walks := rfl
@[simp] theorem State.atStart_tags (s : State) (i : Instr) : (s.atStart i).tags = s.tags := rfl
@[simp] theorem State.atStart_hostO (s : State) (i : Instr) : (s.atStart i).hostO = s.hostO := rfl
@[simp] theorem State.atStart_hostS (s : State) (i : Instr) : (s.atStart i).hostS = s.hostS := rfl
@[simp] theorem State.atStart_hostCount (s : State) (i : Instr) : (s.atStart i).hostCount = s.hostCount := rfl
@[simp] theorem State.atStart_hostHeld (s : State) (i : Instr) : (s.atStart i).hostHeld = s.hostHeld := rfl
@[simp] theorem State.atStart_chip (s : State) (i : Instr) : (s.atStart i).chip = s.chip := rfl
@[simp] theorem State.atStart_bar2 (s : State) (i : Instr) : (s.atStart i).bar2 = s.bar2 := rfl
@[simp] theorem State.atStart_bar2Log (s : State) (i : Instr) : (s.atStart i).bar2Log = s.bar2Log := rfl
@[simp] theorem State.atStart_routes (s : State) (i : Instr) : (s.atStart i).routes = s.routes := rfl
@[simp] theorem State.atStart_bar2ur (s : State) (i : Instr) : (s.atStart i).bar2ur = s.bar2ur := rfl
@[simp] theorem State.atStart_hostUrOff (s : State) (i : Instr) : (s.atStart i).hostUrOff = s.hostUrOff := rfl
@[simp] theorem State.atStart_linkUp (s : State) (i : Instr) : (s.atStart i).linkUp = s.linkUp := rfl
@[simp] theorem State.atStart_msixMask (s : State) (i : Instr) : (s.atStart i).msixMask = s.msixMask := rfl
@[simp] theorem State.atStart_msixPend (s : State) (i : Instr) : (s.atStart i).msixPend = s.msixPend := rfl
@[simp] theorem State.atStart_msixSent (s : State) (i : Instr) : (s.atStart i).msixSent = s.msixSent := rfl
@[simp] theorem State.atStart_hostOut (s : State) (i : Instr) : (s.atStart i).hostOut = s.hostOut := rfl
@[simp] theorem State.atStart_spdmChunk (s : State) (i : Instr) : (s.atStart i).spdmChunk = s.spdmChunk := rfl
@[simp] theorem State.atStart_ports (s : State) (i : Instr) : (s.atStart i).ports = s.ports := rfl
@[simp] theorem State.atStart_peerOut (s : State) (i : Instr) : (s.atStart i).peerOut = s.peerOut := rfl
@[simp] theorem State.atStart_peerSent (s : State) (i : Instr) : (s.atStart i).peerSent = s.peerSent := rfl
@[simp] theorem State.atStart_peerHeld (s : State) (i : Instr) : (s.atStart i).peerHeld = s.peerHeld := rfl
@[simp] theorem State.atStart_foreign (s : State) (i : Instr) : (s.atStart i).foreign = s.foreign := rfl
@[simp] theorem State.atStart_peerChunks (s : State) (i : Instr) : (s.atStart i).peerChunks = s.peerChunks := rfl
@[simp] theorem State.atStart_remoteLu (s : State) (i : Instr) : (s.atStart i).remoteLu = s.remoteLu := rfl
@[simp] theorem State.atStart_jobChips (s : State) (i : Instr) : (s.atStart i).jobChips = s.jobChips := rfl
@[simp] theorem State.atStart_dbg (s : State) (i : Instr) : (s.atStart i).dbg = s.dbg := rfl
@[simp] theorem State.atStart_blackBox (s : State) (i : Instr) : (s.atStart i).blackBox = s.blackBox := rfl
@[simp] theorem State.atStart_faultsNow (s : State) (i : Instr) : (s.atStart i).faultsNow = s.faultsNow := rfl
@[simp] theorem State.atStart_racesNow (s : State) (i : Instr) : (s.atStart i).racesNow = s.racesNow := rfl
@[simp] theorem State.atStart_divsNow (s : State) (i : Instr) : (s.atStart i).divsNow = s.divsNow := rfl
@[simp] theorem State.atStart_boot (s : State) (i : Instr) : (s.atStart i).boot = s.boot := rfl
@[simp] theorem State.atStart_powerCap (s : State) (i : Instr) : (s.atStart i).powerCap = s.powerCap := rfl

/-! ## soon -/

@[simp] theorem State.soon_focus (s : State) (i : Instr) : (s.soon i).focus = s.focus := rfl
@[simp] theorem State.soon_rotor (s : State) (i : Instr) : (s.soon i).rotor = s.rotor := rfl
@[simp] theorem State.soon_serial (s : State) (i : Instr) : (s.soon i).serial = s.serial := rfl
@[simp] theorem State.soon_now (s : State) (i : Instr) : (s.soon i).now = s.now := rfl
@[simp] theorem State.soon_timeOff (s : State) (i : Instr) : (s.soon i).timeOff = s.timeOff := rfl
@[simp] theorem State.soon_slew (s : State) (i : Instr) : (s.soon i).slew = s.slew := rfl
@[simp] theorem State.soon_mem (s : State) (i : Instr) : (s.soon i).mem = s.mem := rfl
@[simp] theorem State.soon_l3 (s : State) (i : Instr) : (s.soon i).l3 = s.l3 := rfl
@[simp] theorem State.soon_hubs (s : State) (i : Instr) : (s.soon i).hubs = s.hubs := rfl
@[simp] theorem State.soon_sections (s : State) (i : Instr) : (s.soon i).sections = s.sections := rfl
@[simp] theorem State.soon_cores (s : State) (i : Instr) : (s.soon i).cores = s.cores := rfl
@[simp] theorem State.soon_coxes (s : State) (i : Instr) : (s.soon i).coxes = s.coxes := rfl
@[simp] theorem State.soon_asids (s : State) (i : Instr) : (s.soon i).asids = s.asids := rfl
@[simp] theorem State.soon_launches (s : State) (i : Instr) : (s.soon i).launches = s.launches := rfl
@[simp] theorem State.soon_groups (s : State) (i : Instr) : (s.soon i).groups = s.groups := rfl
@[simp] theorem State.soon_waiting (s : State) (i : Instr) : (s.soon i).waiting = s.waiting := rfl
@[simp] theorem State.soon_reserved (s : State) (i : Instr) : (s.soon i).reserved = s.reserved := rfl
@[simp] theorem State.soon_walks (s : State) (i : Instr) : (s.soon i).walks = s.walks := rfl
@[simp] theorem State.soon_tags (s : State) (i : Instr) : (s.soon i).tags = s.tags := rfl
@[simp] theorem State.soon_hostO (s : State) (i : Instr) : (s.soon i).hostO = s.hostO := rfl
@[simp] theorem State.soon_hostS (s : State) (i : Instr) : (s.soon i).hostS = s.hostS := rfl
@[simp] theorem State.soon_hostCount (s : State) (i : Instr) : (s.soon i).hostCount = s.hostCount := rfl
@[simp] theorem State.soon_hostHeld (s : State) (i : Instr) : (s.soon i).hostHeld = s.hostHeld := rfl
@[simp] theorem State.soon_chip (s : State) (i : Instr) : (s.soon i).chip = s.chip := rfl
@[simp] theorem State.soon_bar2 (s : State) (i : Instr) : (s.soon i).bar2 = s.bar2 := rfl
@[simp] theorem State.soon_bar2Log (s : State) (i : Instr) : (s.soon i).bar2Log = s.bar2Log := rfl
@[simp] theorem State.soon_routes (s : State) (i : Instr) : (s.soon i).routes = s.routes := rfl
@[simp] theorem State.soon_bar2ur (s : State) (i : Instr) : (s.soon i).bar2ur = s.bar2ur := rfl
@[simp] theorem State.soon_hostUrOff (s : State) (i : Instr) : (s.soon i).hostUrOff = s.hostUrOff := rfl
@[simp] theorem State.soon_linkUp (s : State) (i : Instr) : (s.soon i).linkUp = s.linkUp := rfl
@[simp] theorem State.soon_msixMask (s : State) (i : Instr) : (s.soon i).msixMask = s.msixMask := rfl
@[simp] theorem State.soon_msixPend (s : State) (i : Instr) : (s.soon i).msixPend = s.msixPend := rfl
@[simp] theorem State.soon_msixSent (s : State) (i : Instr) : (s.soon i).msixSent = s.msixSent := rfl
@[simp] theorem State.soon_hostOut (s : State) (i : Instr) : (s.soon i).hostOut = s.hostOut := rfl
@[simp] theorem State.soon_spdmChunk (s : State) (i : Instr) : (s.soon i).spdmChunk = s.spdmChunk := rfl
@[simp] theorem State.soon_ports (s : State) (i : Instr) : (s.soon i).ports = s.ports := rfl
@[simp] theorem State.soon_peerOut (s : State) (i : Instr) : (s.soon i).peerOut = s.peerOut := rfl
@[simp] theorem State.soon_peerSent (s : State) (i : Instr) : (s.soon i).peerSent = s.peerSent := rfl
@[simp] theorem State.soon_peerHeld (s : State) (i : Instr) : (s.soon i).peerHeld = s.peerHeld := rfl
@[simp] theorem State.soon_foreign (s : State) (i : Instr) : (s.soon i).foreign = s.foreign := rfl
@[simp] theorem State.soon_peerChunks (s : State) (i : Instr) : (s.soon i).peerChunks = s.peerChunks := rfl
@[simp] theorem State.soon_remoteLu (s : State) (i : Instr) : (s.soon i).remoteLu = s.remoteLu := rfl
@[simp] theorem State.soon_jobChips (s : State) (i : Instr) : (s.soon i).jobChips = s.jobChips := rfl
@[simp] theorem State.soon_dbg (s : State) (i : Instr) : (s.soon i).dbg = s.dbg := rfl
@[simp] theorem State.soon_blackBox (s : State) (i : Instr) : (s.soon i).blackBox = s.blackBox := rfl
@[simp] theorem State.soon_faultsNow (s : State) (i : Instr) : (s.soon i).faultsNow = s.faultsNow := rfl
@[simp] theorem State.soon_racesNow (s : State) (i : Instr) : (s.soon i).racesNow = s.racesNow := rfl
@[simp] theorem State.soon_divsNow (s : State) (i : Instr) : (s.soon i).divsNow = s.divsNow := rfl
@[simp] theorem State.soon_boot (s : State) (i : Instr) : (s.soon i).boot = s.boot := rfl
@[simp] theorem State.soon_powerCap (s : State) (i : Instr) : (s.soon i).powerCap = s.powerCap := rfl

end Sys2Proof.Machine
end

