-- ==== Sys2Proof/Laws/Access.lean ====
section
/-!
SUPPORT. What the accessors read after an update: the part updated, and every other part as before.
-/
namespace Sys2Proof.Machine

/-! ## Hubs and sections -/

@[simp] theorem State.length_modHub (s : State) (h : Nat) (f : Hub → Hub) : (s.modHub h f).hubs.length = s.hubs.length := by
  simp [State.modHub]

@[simp] theorem State.length_modSect (s : State) (h : Nat) (f : Section → Section) : (s.modSect h f).sections.length = s.sections.length := by
  simp [State.modSect]

theorem State.hub_modHub_same {s : State} {h : Nat} (hh : h < s.hubs.length) (f : Hub → Hub) : (s.modHub h f).hub h = f (s.hub h) := by
  simp [State.hub, State.modHub, hh]

theorem State.hub_modHub_other (s : State) {h k : Nat} (hk : k ≠ h) (f : Hub → Hub) : (s.modHub h f).hub k = s.hub k := by
  simp [State.hub, State.modHub, Ne.symm hk]

theorem State.sect_modSect_same {s : State} {h : Nat} (hh : h < s.sections.length) (f : Section → Section) :
    (s.modSect h f).sect h = f (s.sect h) := by
  simp [State.sect, State.modSect, hh]

theorem State.sect_modSect_other (s : State) {h k : Nat} (hk : k ≠ h) (f : Section → Section) : (s.modSect h f).sect k = s.sect k := by
  simp [State.sect, State.modSect, Ne.symm hk]

/-- What the accessors read depends on their own field only. -/
theorem State.hub_of_hubs {s t : State} (h : t.hubs = s.hubs) (n : Nat) : t.hub n = s.hub n := by simp [State.hub, h]

theorem State.sect_of_sections {s t : State} (h : t.sections = s.sections) (n : Nat) : t.sect n = s.sect n := by simp [State.sect, h]

theorem State.core_of_cores {s t : State} (h : t.cores = s.cores) (n : Nat) : t.core n = s.core n := by simp [State.core, h]

theorem State.cox_of_coxes {s t : State} (h : t.coxes = s.coxes) (x : CoxId) : t.cox x = s.cox x := by simp [State.cox, h]

/-! ## Keyed lists -/

section keyed

variable {α β : Type} [DecidableEq β]

/-- An update of the entries with key `k` that keeps the key, seen through a search. -/
theorem find_map_same (key : α → β) (f : α → α) (hf : ∀ x, key (f x) = key x) (k : β) (l : List α) :
    (l.map (fun x => if key x = k then f x else x)).find? (fun x => key x == k) = (l.find? (fun x => key x == k)).map f := by
  induction l with
  | nil => rfl
  | cons a l ih =>
    by_cases ha : key a = k
    · simp [ha, hf]
    · simp [ha, ih]

theorem find_map_other (key : α → β) (f : α → α) (hf : ∀ x, key (f x) = key x) {j k : β} (hj : j ≠ k) (l : List α) :
    (l.map (fun x => if key x = k then f x else x)).find? (fun x => key x == j) = l.find? (fun x => key x == j) := by
  induction l with
  | nil => rfl
  | cons a l ih =>
    by_cases ha : key a = k
    · simp [ha, hf, Ne.symm hj, ih]
    · by_cases hb : key a = j
      · simp [hb, hj]
      · simp [ha, hb, ih]

theorem find_append_of_none (p : α → Bool) (l m : List α) (h : l.any p = false) : (l ++ m).find? p = m.find? p := by
  induction l with
  | nil => rfl
  | cons a l ih =>
    simp only [List.any_cons, Bool.or_eq_false_iff] at h
    simp only [List.cons_append, List.find?_cons, h.1]
    exact ih h.2

theorem find_of_any {p : α → Bool} {l : List α} (h : l.any p = true) : ∃ x, l.find? p = some x := by
  induction l with
  | nil => simp at h
  | cons a l ih =>
    by_cases ha : p a = true
    · exact ⟨a, by simp [ha]⟩
    · simp only [List.any_cons, ha, Bool.false_or] at h
      obtain ⟨x, hx⟩ := ih h
      exact ⟨x, by simp [ha, hx]⟩

theorem find_none_of_any {p : α → Bool} {l : List α} (h : l.any p = false) : l.find? p = none := by
  induction l with
  | nil => rfl
  | cons a l ih =>
    simp only [List.any_cons, Bool.or_eq_false_iff] at h
    simp [h.1, ih h.2]

end keyed

/-! ## Cores, contexts, ASIDs, ports -/

theorem State.core_modCore_same (s : State) (n : Nat) (f : Core → Core) (hf : ∀ x, (f x).num = x.num) :
    (s.modCore n f).core n = f (s.core n) := by
  unfold State.modCore State.core
  split
  · rename_i h
    obtain ⟨x, hx⟩ := find_of_any h
    simp only [find_map_same Core.num f hf, hx, Option.map_some, Option.getD_some]
  · rename_i h
    rw [Bool.not_eq_true] at h
    simp only
    rw [find_append_of_none _ _ _ h, find_none_of_any h]
    simp [hf, Core.reset]

theorem State.core_modCore_other (s : State) {n m : Nat} (hm : m ≠ n) (f : Core → Core) (hf : ∀ x, (f x).num = x.num) :
    (s.modCore n f).core m = s.core m := by
  unfold State.modCore State.core
  split
  · simp only [find_map_other Core.num f hf hm]
  · simp [List.find?_append, hf, Core.reset, Ne.symm hm]

theorem State.cox_modCox_same (s : State) (x : CoxId) (f : Cox → Cox) (hf : ∀ c, (f c).id = c.id) : (s.modCox x f).cox x = f (s.cox x) := by
  unfold State.modCox State.cox
  split
  · rename_i h
    obtain ⟨c, hc⟩ := find_of_any h
    simp only [find_map_same Cox.id f hf, hc, Option.map_some, Option.getD_some]
  · rename_i h
    rw [Bool.not_eq_true] at h
    simp only
    rw [find_append_of_none _ _ _ h, find_none_of_any h]
    simp [hf, Cox.reset]

theorem State.cox_modCox_other (s : State) {x y : CoxId} (hy : y ≠ x) (f : Cox → Cox) (hf : ∀ c, (f c).id = c.id) :
    (s.modCox x f).cox y = s.cox y := by
  unfold State.modCox State.cox
  split
  · simp only [find_map_other Cox.id f hf hy]
  · simp [List.find?_append, hf, Cox.reset, Ne.symm hy]

theorem State.asid_modAsid_same (s : State) (a : BitVec 16) (f : AsidSt → AsidSt) (hf : ∀ x, (f x).asid = x.asid) :
    (s.modAsid a f).asid a = f (s.asid a) := by
  unfold State.modAsid State.asid
  split
  · rename_i h
    obtain ⟨c, hc⟩ := find_of_any h
    simp only [find_map_same AsidSt.asid f hf, hc, Option.map_some, Option.getD_some]
  · rename_i h
    rw [Bool.not_eq_true] at h
    simp only
    rw [find_append_of_none _ _ _ h, find_none_of_any h]
    simp [hf, AsidSt.reset]

theorem State.asid_modAsid_other (s : State) {a b : BitVec 16} (hb : b ≠ a) (f : AsidSt → AsidSt) (hf : ∀ x, (f x).asid = x.asid) :
    (s.modAsid a f).asid b = s.asid b := by
  unfold State.modAsid State.asid
  split
  · simp only [find_map_other AsidSt.asid f hf hb]
  · simp [List.find?_append, hf, AsidSt.reset, Ne.symm hb]

theorem State.port_modPort_same (s : State) (n : Nat) (f : Port → Port) (hf : ∀ x, (f x).num = x.num) :
    (s.modPort n f).port n = f (s.port n) := by
  unfold State.modPort State.port
  split
  · rename_i h
    obtain ⟨x, hx⟩ := find_of_any h
    simp only [find_map_same Port.num f hf, hx, Option.map_some, Option.getD_some]
  · rename_i h
    rw [Bool.not_eq_true] at h
    simp only
    rw [find_append_of_none _ _ _ h, find_none_of_any h]
    simp [hf, Port.reset]

theorem State.port_modPort_other (s : State) {n m : Nat} (hm : m ≠ n) (f : Port → Port) (hf : ∀ x, (f x).num = x.num) :
    (s.modPort n f).port m = s.port m := by
  unfold State.modPort State.port
  split
  · simp only [find_map_other Port.num f hf hm]
  · simp [List.find?_append, hf, Port.reset, Ne.symm hm]

/-! ## Launches, groups, blocks, crews, threads -/

theorem State.launch_modLaunch_same (s : State) (i : Nat) (f : Launch → Launch) (hf : ∀ x, (f x).idx = x.idx) :
    (s.modLaunch i f).launch? i = (s.launch? i).map f := find_map_same Launch.idx f hf i s.launches

theorem State.launch_modLaunch_other (s : State) {i j : Nat} (hj : j ≠ i) (f : Launch → Launch) (hf : ∀ x, (f x).idx = x.idx) :
    (s.modLaunch i f).launch? j = s.launch? j := find_map_other Launch.idx f hf hj s.launches

theorem State.group_modGroup_same (s : State) (g : Nat) (f : Group → Group) (hf : ∀ x, (f x).gid = x.gid) :
    (s.modGroup g f).group? g = (s.group? g).map f := find_map_same Group.gid f hf g s.groups

theorem State.group_modGroup_other (s : State) {g h : Nat} (hh : h ≠ g) (f : Group → Group) (hf : ∀ x, (f x).gid = x.gid) :
    (s.modGroup g f).group? h = s.group? h := find_map_other Group.gid f hf hh s.groups

theorem State.group_modBlock (s : State) (b : BRef) (f : Block → Block) (g : Nat) :
    (s.modBlock b f).group? g = if g = b.g then (s.group? g).map (fun x => { x with blocks := x.blocks.modify b.k f }) else s.group? g := by
  unfold State.modBlock
  split
  · rename_i h
    subst h
    exact State.group_modGroup_same s b.g _ (fun _ => rfl)
  · rename_i h
    exact State.group_modGroup_other s h _ (fun _ => rfl)

theorem State.block_modBlock_same (s : State) (b : BRef) (f : Block → Block) : (s.modBlock b f).block? b = (s.block? b).map f := by
  simp only [State.block?, State.group_modBlock, if_true]
  cases s.group? b.g with
  | none => rfl
  | some g => simp

theorem State.block_modBlock_other (s : State) {b c : BRef} (hc : c ≠ b) (f : Block → Block) : (s.modBlock b f).block? c = s.block? c := by
  simp only [State.block?, State.group_modBlock]
  split
  · rename_i h
    have hk : b.k ≠ c.k := by
      intro hk
      apply hc
      cases b
      cases c
      simp_all
    cases s.group? c.g with
    | none => rfl
    | some g => simp [hk]
  · rfl

theorem State.crew_modCrew_same (s : State) (c : CRef) (f : Crew → Crew) : (s.modCrew c f).crew? c = (s.crew? c).map f := by
  simp only [State.crew?, State.modCrew, State.block_modBlock_same]
  cases s.block? c.block with
  | none => rfl
  | some b => simp

theorem State.crew_modCrew_other (s : State) {c d : CRef} (hd : d ≠ c) (f : Crew → Crew) : (s.modCrew c f).crew? d = s.crew? d := by
  simp only [State.crew?, State.modCrew]
  by_cases hb : d.block = c.block
  · have hc : c.c ≠ d.c := by
      intro h
      apply hd
      cases c
      cases d
      simp_all [CRef.block]
    rw [hb, State.block_modBlock_same]
    cases s.block? c.block with
    | none => rfl
    | some b => simp [hc]
  · rw [State.block_modBlock_other s hb]

theorem State.thread_modThread_same (s : State) (t : TRef) (f : Thread → Thread) : (s.modThread t f).thread? t = (s.thread? t).map f := by
  simp only [State.thread?, State.modThread, State.crew_modCrew_same]
  cases s.crew? t.crew with
  | none => rfl
  | some c => simp

theorem State.thread_modThread_other (s : State) {t u : TRef} (hu : u ≠ t) (f : Thread → Thread) : (s.modThread t f).thread? u = s.thread? u := by
  simp only [State.thread?, State.modThread]
  by_cases hc : u.crew = t.crew
  · have ht : t.t ≠ u.t := by
      intro h
      apply hu
      cases t
      cases u
      simp_all [TRef.crew]
    rw [hc, State.crew_modCrew_same]
    cases s.crew? t.crew with
    | none => rfl
    | some c => simp [ht]
  · rw [State.crew_modCrew_other s hc]

/-- An update of a crew that leaves its threads alone leaves every thread alone. -/
theorem State.thread_modCrew (s : State) (c : CRef) (f : Crew → Crew) (hf : ∀ x, (f x).threads = x.threads) (u : TRef) :
    (s.modCrew c f).thread? u = s.thread? u := by
  simp only [State.thread?]
  by_cases hc : u.crew = c
  · rw [hc, State.crew_modCrew_same]
    cases s.crew? c with
    | none => rfl
    | some x => simp [hf]
  · rw [State.crew_modCrew_other s hc]

theorem State.crew_modBlock (s : State) (b : BRef) (f : Block → Block) (hf : ∀ x, (f x).crews = x.crews) (c : CRef) :
    (s.modBlock b f).crew? c = s.crew? c := by
  simp only [State.crew?]
  by_cases hc : c.block = b
  · rw [hc, State.block_modBlock_same]
    cases s.block? b with
    | none => rfl
    | some x => simp [hf]
  · rw [State.block_modBlock_other s hc]

/-- The threads depend on the groups only. -/
theorem State.thread_of_groups {s t : State} (h : t.groups = s.groups) (u : TRef) : t.thread? u = s.thread? u := by
  simp [State.thread?, State.crew?, State.block?, State.group?, h]

theorem State.crew_of_groups {s t : State} (h : t.groups = s.groups) (c : CRef) : t.crew? c = s.crew? c := by
  simp [State.crew?, State.block?, State.group?, h]

theorem State.block_of_groups {s t : State} (h : t.groups = s.groups) (b : BRef) : t.block? b = s.block? b := by
  simp [State.block?, State.group?, h]

end Sys2Proof.Machine
end

