-- ==== Sys2Proof/Laws/Thread.lean ====
section
/-!
SUPPORT. What the issue of an instruction leaves of a thread as it was, one lemma for each field (R29, R31).
-/
namespace Sys2Proof.Machine

/-! ## enterRegion -/

@[simp] theorem Thread.enterRegion_pc (t : Thread) (pc n : DWord) (b c : Bool) : (t.enterRegion pc n b c).pc = t.pc := by unfold Thread.enterRegion; split <;> [rfl; (split <;> rfl)]
@[simp] theorem Thread.enterRegion_regs (t : Thread) (pc n : DWord) (b c : Bool) : (t.enterRegion pc n b c).regs = t.regs := by unfold Thread.enterRegion; split <;> [rfl; (split <;> rfl)]
@[simp] theorem Thread.enterRegion_flags (t : Thread) (pc n : DWord) (b c : Bool) : (t.enterRegion pc n b c).flags = t.flags := by unfold Thread.enterRegion; split <;> [rfl; (split <;> rfl)]
@[simp] theorem Thread.enterRegion_meet (t : Thread) (pc n : DWord) (b c : Bool) : (t.enterRegion pc n b c).meet = t.meet := by unfold Thread.enterRegion; split <;> [rfl; (split <;> rfl)]
@[simp] theorem Thread.enterRegion_meetAt (t : Thread) (pc n : DWord) (b c : Bool) : (t.enterRegion pc n b c).meetAt = t.meetAt := by unfold Thread.enterRegion; split <;> [rfl; (split <;> rfl)]
@[simp] theorem Thread.enterRegion_exited (t : Thread) (pc n : DWord) (b c : Bool) : (t.enterRegion pc n b c).exited = t.exited := by unfold Thread.enterRegion; split <;> [rfl; (split <;> rfl)]
@[simp] theorem Thread.enterRegion_o (t : Thread) (pc n : DWord) (b c : Bool) : (t.enterRegion pc n b c).o = t.o := by unfold Thread.enterRegion; split <;> [rfl; (split <;> rfl)]
@[simp] theorem Thread.enterRegion_s (t : Thread) (pc n : DWord) (b c : Bool) : (t.enterRegion pc n b c).s = t.s := by unfold Thread.enterRegion; split <;> [rfl; (split <;> rfl)]
@[simp] theorem Thread.enterRegion_pa (t : Thread) (pc n : DWord) (b c : Bool) : (t.enterRegion pc n b c).pa = t.pa := by unfold Thread.enterRegion; split <;> [rfl; (split <;> rfl)]
@[simp] theorem Thread.enterRegion_fs (t : Thread) (pc n : DWord) (b c : Bool) : (t.enterRegion pc n b c).fs = t.fs := by unfold Thread.enterRegion; split <;> [rfl; (split <;> rfl)]
@[simp] theorem Thread.enterRegion_syncscope (t : Thread) (pc n : DWord) (b c : Bool) : (t.enterRegion pc n b c).syncscope = t.syncscope := by unfold Thread.enterRegion; split <;> [rfl; (split <;> rfl)]
@[simp] theorem Thread.enterRegion_trapvec (t : Thread) (pc n : DWord) (b c : Bool) : (t.enterRegion pc n b c).trapvec = t.trapvec := by unfold Thread.enterRegion; split <;> [rfl; (split <;> rfl)]
@[simp] theorem Thread.enterRegion_trapcause (t : Thread) (pc n : DWord) (b c : Bool) : (t.enterRegion pc n b c).trapcause = t.trapcause := by unfold Thread.enterRegion; split <;> [rfl; (split <;> rfl)]
@[simp] theorem Thread.enterRegion_trapaddr (t : Thread) (pc n : DWord) (b c : Bool) : (t.enterRegion pc n b c).trapaddr = t.trapaddr := by unfold Thread.enterRegion; split <;> [rfl; (split <;> rfl)]
@[simp] theorem Thread.enterRegion_trappc (t : Thread) (pc n : DWord) (b c : Bool) : (t.enterRegion pc n b c).trappc = t.trappc := by unfold Thread.enterRegion; split <;> [rfl; (split <;> rfl)]
@[simp] theorem Thread.enterRegion_handler (t : Thread) (pc n : DWord) (b c : Bool) : (t.enterRegion pc n b c).handler = t.handler := by unfold Thread.enterRegion; split <;> [rfl; (split <;> rfl)]
@[simp] theorem Thread.enterRegion_poison (t : Thread) (pc n : DWord) (b c : Bool) : (t.enterRegion pc n b c).poison = t.poison := by unfold Thread.enterRegion; split <;> [rfl; (split <;> rfl)]
@[simp] theorem Thread.enterRegion_poisonRec (t : Thread) (pc n : DWord) (b c : Bool) : (t.enterRegion pc n b c).poisonRec = t.poisonRec := by unfold Thread.enterRegion; split <;> [rfl; (split <;> rfl)]
@[simp] theorem Thread.enterRegion_faults (t : Thread) (pc n : DWord) (b c : Bool) : (t.enterRegion pc n b c).faults = t.faults := by unfold Thread.enterRegion; split <;> [rfl; (split <;> rfl)]
@[simp] theorem Thread.enterRegion_later (t : Thread) (pc n : DWord) (b c : Bool) : (t.enterRegion pc n b c).later = t.later := by unfold Thread.enterRegion; split <;> [rfl; (split <;> rfl)]
@[simp] theorem Thread.enterRegion_readyAt (t : Thread) (pc n : DWord) (b c : Bool) : (t.enterRegion pc n b c).readyAt = t.readyAt := by unfold Thread.enterRegion; split <;> [rfl; (split <;> rfl)]
@[simp] theorem Thread.enterRegion_issuedAt (t : Thread) (pc n : DWord) (b c : Bool) : (t.enterRegion pc n b c).issuedAt = t.issuedAt := by unfold Thread.enterRegion; split <;> [rfl; (split <;> rfl)]
@[simp] theorem Thread.enterRegion_skip (t : Thread) (pc n : DWord) (b c : Bool) : (t.enterRegion pc n b c).skip = t.skip := by unfold Thread.enterRegion; split <;> [rfl; (split <;> rfl)]
@[simp] theorem Thread.enterRegion_yielded (t : Thread) (pc n : DWord) (b c : Bool) : (t.enterRegion pc n b c).yielded = t.yielded := by unfold Thread.enterRegion; split <;> [rfl; (split <;> rfl)]
@[simp] theorem Thread.enterRegion_wait (t : Thread) (pc n : DWord) (b c : Bool) : (t.enterRegion pc n b c).wait = t.wait := by unfold Thread.enterRegion; split <;> [rfl; (split <;> rfl)]
@[simp] theorem Thread.enterRegion_arrivals (t : Thread) (pc n : DWord) (b c : Bool) : (t.enterRegion pc n b c).arrivals = t.arrivals := by unfold Thread.enterRegion; split <;> [rfl; (split <;> rfl)]
@[simp] theorem Thread.enterRegion_pend (t : Thread) (pc n : DWord) (b c : Bool) : (t.enterRegion pc n b c).pend = t.pend := by unfold Thread.enterRegion; split <;> [rfl; (split <;> rfl)]
@[simp] theorem Thread.enterRegion_issued (t : Thread) (pc n : DWord) (b c : Bool) : (t.enterRegion pc n b c).issued = t.issued := by unfold Thread.enterRegion; split <;> [rfl; (split <;> rfl)]
@[simp] theorem Thread.enterRegion_chunkStart (t : Thread) (pc n : DWord) (b c : Bool) : (t.enterRegion pc n b c).chunkStart = t.chunkStart := by unfold Thread.enterRegion; split <;> [rfl; (split <;> rfl)]
@[simp] theorem Thread.enterRegion_check (t : Thread) (pc n : DWord) (b c : Bool) : (t.enterRegion pc n b c).check = t.check := by unfold Thread.enterRegion; split <;> [rfl; (split <;> rfl)]
@[simp] theorem Thread.enterRegion_late (t : Thread) (pc n : DWord) (b c : Bool) : (t.enterRegion pc n b c).late = t.late := by unfold Thread.enterRegion; split <;> [rfl; (split <;> rfl)]
@[simp] theorem Thread.enterRegion_hints (t : Thread) (pc n : DWord) (b c : Bool) : (t.enterRegion pc n b c).hints = t.hints := by unfold Thread.enterRegion; split <;> [rfl; (split <;> rfl)]
@[simp] theorem Thread.enterRegion_passBkpt (t : Thread) (pc n : DWord) (b c : Bool) : (t.enterRegion pc n b c).passBkpt = t.passBkpt := by unfold Thread.enterRegion; split <;> [rfl; (split <;> rfl)]
@[simp] theorem Thread.enterRegion_passWatch (t : Thread) (pc n : DWord) (b c : Bool) : (t.enterRegion pc n b c).passWatch = t.passWatch := by unfold Thread.enterRegion; split <;> [rfl; (split <;> rfl)]
@[simp] theorem Thread.enterRegion_grant (t : Thread) (pc n : DWord) (b c : Bool) : (t.enterRegion pc n b c).grant = t.grant := by unfold Thread.enterRegion; split <;> [rfl; (split <;> rfl)]
@[simp] theorem Thread.enterRegion_haltFault (t : Thread) (pc n : DWord) (b c : Bool) : (t.enterRegion pc n b c).haltFault = t.haltFault := by unfold Thread.enterRegion; split <;> [rfl; (split <;> rfl)]

/-! ## raiseFlag -/

@[simp] theorem Thread.raiseFlag_pc (t : Thread) (f : Option (Fin 12)) : (t.raiseFlag f).pc = t.pc := by cases f <;> rfl
@[simp] theorem Thread.raiseFlag_regs (t : Thread) (f : Option (Fin 12)) : (t.raiseFlag f).regs = t.regs := by cases f <;> rfl
@[simp] theorem Thread.raiseFlag_meet (t : Thread) (f : Option (Fin 12)) : (t.raiseFlag f).meet = t.meet := by cases f <;> rfl
@[simp] theorem Thread.raiseFlag_meetAt (t : Thread) (f : Option (Fin 12)) : (t.raiseFlag f).meetAt = t.meetAt := by cases f <;> rfl
@[simp] theorem Thread.raiseFlag_exited (t : Thread) (f : Option (Fin 12)) : (t.raiseFlag f).exited = t.exited := by cases f <;> rfl
@[simp] theorem Thread.raiseFlag_regionPc (t : Thread) (f : Option (Fin 12)) : (t.raiseFlag f).regionPc = t.regionPc := by cases f <;> rfl
@[simp] theorem Thread.raiseFlag_regionCount (t : Thread) (f : Option (Fin 12)) : (t.raiseFlag f).regionCount = t.regionCount := by cases f <;> rfl
@[simp] theorem Thread.raiseFlag_regionNew (t : Thread) (f : Option (Fin 12)) : (t.raiseFlag f).regionNew = t.regionNew := by cases f <;> rfl
@[simp] theorem Thread.raiseFlag_o (t : Thread) (f : Option (Fin 12)) : (t.raiseFlag f).o = t.o := by cases f <;> rfl
@[simp] theorem Thread.raiseFlag_s (t : Thread) (f : Option (Fin 12)) : (t.raiseFlag f).s = t.s := by cases f <;> rfl
@[simp] theorem Thread.raiseFlag_pa (t : Thread) (f : Option (Fin 12)) : (t.raiseFlag f).pa = t.pa := by cases f <;> rfl
@[simp] theorem Thread.raiseFlag_fs (t : Thread) (f : Option (Fin 12)) : (t.raiseFlag f).fs = t.fs := by cases f <;> rfl
@[simp] theorem Thread.raiseFlag_syncscope (t : Thread) (f : Option (Fin 12)) : (t.raiseFlag f).syncscope = t.syncscope := by cases f <;> rfl
@[simp] theorem Thread.raiseFlag_trapvec (t : Thread) (f : Option (Fin 12)) : (t.raiseFlag f).trapvec = t.trapvec := by cases f <;> rfl
@[simp] theorem Thread.raiseFlag_trapcause (t : Thread) (f : Option (Fin 12)) : (t.raiseFlag f).trapcause = t.trapcause := by cases f <;> rfl
@[simp] theorem Thread.raiseFlag_trapaddr (t : Thread) (f : Option (Fin 12)) : (t.raiseFlag f).trapaddr = t.trapaddr := by cases f <;> rfl
@[simp] theorem Thread.raiseFlag_trappc (t : Thread) (f : Option (Fin 12)) : (t.raiseFlag f).trappc = t.trappc := by cases f <;> rfl
@[simp] theorem Thread.raiseFlag_handler (t : Thread) (f : Option (Fin 12)) : (t.raiseFlag f).handler = t.handler := by cases f <;> rfl
@[simp] theorem Thread.raiseFlag_poison (t : Thread) (f : Option (Fin 12)) : (t.raiseFlag f).poison = t.poison := by cases f <;> rfl
@[simp] theorem Thread.raiseFlag_poisonRec (t : Thread) (f : Option (Fin 12)) : (t.raiseFlag f).poisonRec = t.poisonRec := by cases f <;> rfl
@[simp] theorem Thread.raiseFlag_faults (t : Thread) (f : Option (Fin 12)) : (t.raiseFlag f).faults = t.faults := by cases f <;> rfl
@[simp] theorem Thread.raiseFlag_later (t : Thread) (f : Option (Fin 12)) : (t.raiseFlag f).later = t.later := by cases f <;> rfl
@[simp] theorem Thread.raiseFlag_readyAt (t : Thread) (f : Option (Fin 12)) : (t.raiseFlag f).readyAt = t.readyAt := by cases f <;> rfl
@[simp] theorem Thread.raiseFlag_issuedAt (t : Thread) (f : Option (Fin 12)) : (t.raiseFlag f).issuedAt = t.issuedAt := by cases f <;> rfl
@[simp] theorem Thread.raiseFlag_skip (t : Thread) (f : Option (Fin 12)) : (t.raiseFlag f).skip = t.skip := by cases f <;> rfl
@[simp] theorem Thread.raiseFlag_yielded (t : Thread) (f : Option (Fin 12)) : (t.raiseFlag f).yielded = t.yielded := by cases f <;> rfl
@[simp] theorem Thread.raiseFlag_wait (t : Thread) (f : Option (Fin 12)) : (t.raiseFlag f).wait = t.wait := by cases f <;> rfl
@[simp] theorem Thread.raiseFlag_arrivals (t : Thread) (f : Option (Fin 12)) : (t.raiseFlag f).arrivals = t.arrivals := by cases f <;> rfl
@[simp] theorem Thread.raiseFlag_pend (t : Thread) (f : Option (Fin 12)) : (t.raiseFlag f).pend = t.pend := by cases f <;> rfl
@[simp] theorem Thread.raiseFlag_issued (t : Thread) (f : Option (Fin 12)) : (t.raiseFlag f).issued = t.issued := by cases f <;> rfl
@[simp] theorem Thread.raiseFlag_chunkStart (t : Thread) (f : Option (Fin 12)) : (t.raiseFlag f).chunkStart = t.chunkStart := by cases f <;> rfl
@[simp] theorem Thread.raiseFlag_check (t : Thread) (f : Option (Fin 12)) : (t.raiseFlag f).check = t.check := by cases f <;> rfl
@[simp] theorem Thread.raiseFlag_late (t : Thread) (f : Option (Fin 12)) : (t.raiseFlag f).late = t.late := by cases f <;> rfl
@[simp] theorem Thread.raiseFlag_hints (t : Thread) (f : Option (Fin 12)) : (t.raiseFlag f).hints = t.hints := by cases f <;> rfl
@[simp] theorem Thread.raiseFlag_passBkpt (t : Thread) (f : Option (Fin 12)) : (t.raiseFlag f).passBkpt = t.passBkpt := by cases f <;> rfl
@[simp] theorem Thread.raiseFlag_passWatch (t : Thread) (f : Option (Fin 12)) : (t.raiseFlag f).passWatch = t.passWatch := by cases f <;> rfl
@[simp] theorem Thread.raiseFlag_grant (t : Thread) (f : Option (Fin 12)) : (t.raiseFlag f).grant = t.grant := by cases f <;> rfl
@[simp] theorem Thread.raiseFlag_haltFault (t : Thread) (f : Option (Fin 12)) : (t.raiseFlag f).haltFault = t.haltFault := by cases f <;> rfl

/-! ## tidyPoison -/

@[simp] theorem Thread.tidyPoison_pc (t : Thread)  : (t.tidyPoison).pc = t.pc := by unfold Thread.tidyPoison; split <;> rfl
@[simp] theorem Thread.tidyPoison_regs (t : Thread)  : (t.tidyPoison).regs = t.regs := by unfold Thread.tidyPoison; split <;> rfl
@[simp] theorem Thread.tidyPoison_flags (t : Thread)  : (t.tidyPoison).flags = t.flags := by unfold Thread.tidyPoison; split <;> rfl
@[simp] theorem Thread.tidyPoison_meet (t : Thread)  : (t.tidyPoison).meet = t.meet := by unfold Thread.tidyPoison; split <;> rfl
@[simp] theorem Thread.tidyPoison_meetAt (t : Thread)  : (t.tidyPoison).meetAt = t.meetAt := by unfold Thread.tidyPoison; split <;> rfl
@[simp] theorem Thread.tidyPoison_exited (t : Thread)  : (t.tidyPoison).exited = t.exited := by unfold Thread.tidyPoison; split <;> rfl
@[simp] theorem Thread.tidyPoison_regionPc (t : Thread)  : (t.tidyPoison).regionPc = t.regionPc := by unfold Thread.tidyPoison; split <;> rfl
@[simp] theorem Thread.tidyPoison_regionCount (t : Thread)  : (t.tidyPoison).regionCount = t.regionCount := by unfold Thread.tidyPoison; split <;> rfl
@[simp] theorem Thread.tidyPoison_regionNew (t : Thread)  : (t.tidyPoison).regionNew = t.regionNew := by unfold Thread.tidyPoison; split <;> rfl
@[simp] theorem Thread.tidyPoison_o (t : Thread)  : (t.tidyPoison).o = t.o := by unfold Thread.tidyPoison; split <;> rfl
@[simp] theorem Thread.tidyPoison_s (t : Thread)  : (t.tidyPoison).s = t.s := by unfold Thread.tidyPoison; split <;> rfl
@[simp] theorem Thread.tidyPoison_pa (t : Thread)  : (t.tidyPoison).pa = t.pa := by unfold Thread.tidyPoison; split <;> rfl
@[simp] theorem Thread.tidyPoison_fs (t : Thread)  : (t.tidyPoison).fs = t.fs := by unfold Thread.tidyPoison; split <;> rfl
@[simp] theorem Thread.tidyPoison_syncscope (t : Thread)  : (t.tidyPoison).syncscope = t.syncscope := by unfold Thread.tidyPoison; split <;> rfl
@[simp] theorem Thread.tidyPoison_trapvec (t : Thread)  : (t.tidyPoison).trapvec = t.trapvec := by unfold Thread.tidyPoison; split <;> rfl
@[simp] theorem Thread.tidyPoison_trapcause (t : Thread)  : (t.tidyPoison).trapcause = t.trapcause := by unfold Thread.tidyPoison; split <;> rfl
@[simp] theorem Thread.tidyPoison_trapaddr (t : Thread)  : (t.tidyPoison).trapaddr = t.trapaddr := by unfold Thread.tidyPoison; split <;> rfl
@[simp] theorem Thread.tidyPoison_trappc (t : Thread)  : (t.tidyPoison).trappc = t.trappc := by unfold Thread.tidyPoison; split <;> rfl
@[simp] theorem Thread.tidyPoison_handler (t : Thread)  : (t.tidyPoison).handler = t.handler := by unfold Thread.tidyPoison; split <;> rfl
@[simp] theorem Thread.tidyPoison_poison (t : Thread)  : (t.tidyPoison).poison = t.poison := by unfold Thread.tidyPoison; split <;> rfl
@[simp] theorem Thread.tidyPoison_faults (t : Thread)  : (t.tidyPoison).faults = t.faults := by unfold Thread.tidyPoison; split <;> rfl
@[simp] theorem Thread.tidyPoison_later (t : Thread)  : (t.tidyPoison).later = t.later := by unfold Thread.tidyPoison; split <;> rfl
@[simp] theorem Thread.tidyPoison_readyAt (t : Thread)  : (t.tidyPoison).readyAt = t.readyAt := by unfold Thread.tidyPoison; split <;> rfl
@[simp] theorem Thread.tidyPoison_issuedAt (t : Thread)  : (t.tidyPoison).issuedAt = t.issuedAt := by unfold Thread.tidyPoison; split <;> rfl
@[simp] theorem Thread.tidyPoison_skip (t : Thread)  : (t.tidyPoison).skip = t.skip := by unfold Thread.tidyPoison; split <;> rfl
@[simp] theorem Thread.tidyPoison_yielded (t : Thread)  : (t.tidyPoison).yielded = t.yielded := by unfold Thread.tidyPoison; split <;> rfl
@[simp] theorem Thread.tidyPoison_wait (t : Thread)  : (t.tidyPoison).wait = t.wait := by unfold Thread.tidyPoison; split <;> rfl
@[simp] theorem Thread.tidyPoison_arrivals (t : Thread)  : (t.tidyPoison).arrivals = t.arrivals := by unfold Thread.tidyPoison; split <;> rfl
@[simp] theorem Thread.tidyPoison_pend (t : Thread)  : (t.tidyPoison).pend = t.pend := by unfold Thread.tidyPoison; split <;> rfl
@[simp] theorem Thread.tidyPoison_issued (t : Thread)  : (t.tidyPoison).issued = t.issued := by unfold Thread.tidyPoison; split <;> rfl
@[simp] theorem Thread.tidyPoison_chunkStart (t : Thread)  : (t.tidyPoison).chunkStart = t.chunkStart := by unfold Thread.tidyPoison; split <;> rfl
@[simp] theorem Thread.tidyPoison_check (t : Thread)  : (t.tidyPoison).check = t.check := by unfold Thread.tidyPoison; split <;> rfl
@[simp] theorem Thread.tidyPoison_late (t : Thread)  : (t.tidyPoison).late = t.late := by unfold Thread.tidyPoison; split <;> rfl
@[simp] theorem Thread.tidyPoison_hints (t : Thread)  : (t.tidyPoison).hints = t.hints := by unfold Thread.tidyPoison; split <;> rfl
@[simp] theorem Thread.tidyPoison_passBkpt (t : Thread)  : (t.tidyPoison).passBkpt = t.passBkpt := by unfold Thread.tidyPoison; split <;> rfl
@[simp] theorem Thread.tidyPoison_passWatch (t : Thread)  : (t.tidyPoison).passWatch = t.passWatch := by unfold Thread.tidyPoison; split <;> rfl
@[simp] theorem Thread.tidyPoison_grant (t : Thread)  : (t.tidyPoison).grant = t.grant := by unfold Thread.tidyPoison; split <;> rfl
@[simp] theorem Thread.tidyPoison_haltFault (t : Thread)  : (t.tidyPoison).haltFault = t.haltFault := by unfold Thread.tidyPoison; split <;> rfl

/-! ## writeReg -/

@[simp] theorem Thread.writeReg_pc (t : Thread) (c d : Nat) (r : BitVec 7) (v : Word) (p : Bool) : (t.writeReg c d r v p).pc = t.pc := rfl
@[simp] theorem Thread.writeReg_flags (t : Thread) (c d : Nat) (r : BitVec 7) (v : Word) (p : Bool) : (t.writeReg c d r v p).flags = t.flags := rfl
@[simp] theorem Thread.writeReg_meet (t : Thread) (c d : Nat) (r : BitVec 7) (v : Word) (p : Bool) : (t.writeReg c d r v p).meet = t.meet := rfl
@[simp] theorem Thread.writeReg_meetAt (t : Thread) (c d : Nat) (r : BitVec 7) (v : Word) (p : Bool) : (t.writeReg c d r v p).meetAt = t.meetAt := rfl
@[simp] theorem Thread.writeReg_exited (t : Thread) (c d : Nat) (r : BitVec 7) (v : Word) (p : Bool) : (t.writeReg c d r v p).exited = t.exited := rfl
@[simp] theorem Thread.writeReg_regionPc (t : Thread) (c d : Nat) (r : BitVec 7) (v : Word) (p : Bool) : (t.writeReg c d r v p).regionPc = t.regionPc := rfl
@[simp] theorem Thread.writeReg_regionCount (t : Thread) (c d : Nat) (r : BitVec 7) (v : Word) (p : Bool) : (t.writeReg c d r v p).regionCount = t.regionCount := rfl
@[simp] theorem Thread.writeReg_regionNew (t : Thread) (c d : Nat) (r : BitVec 7) (v : Word) (p : Bool) : (t.writeReg c d r v p).regionNew = t.regionNew := rfl
@[simp] theorem Thread.writeReg_o (t : Thread) (c d : Nat) (r : BitVec 7) (v : Word) (p : Bool) : (t.writeReg c d r v p).o = t.o := rfl
@[simp] theorem Thread.writeReg_s (t : Thread) (c d : Nat) (r : BitVec 7) (v : Word) (p : Bool) : (t.writeReg c d r v p).s = t.s := rfl
@[simp] theorem Thread.writeReg_pa (t : Thread) (c d : Nat) (r : BitVec 7) (v : Word) (p : Bool) : (t.writeReg c d r v p).pa = t.pa := rfl
@[simp] theorem Thread.writeReg_fs (t : Thread) (c d : Nat) (r : BitVec 7) (v : Word) (p : Bool) : (t.writeReg c d r v p).fs = t.fs := rfl
@[simp] theorem Thread.writeReg_syncscope (t : Thread) (c d : Nat) (r : BitVec 7) (v : Word) (p : Bool) : (t.writeReg c d r v p).syncscope = t.syncscope := rfl
@[simp] theorem Thread.writeReg_trapvec (t : Thread) (c d : Nat) (r : BitVec 7) (v : Word) (p : Bool) : (t.writeReg c d r v p).trapvec = t.trapvec := rfl
@[simp] theorem Thread.writeReg_trapcause (t : Thread) (c d : Nat) (r : BitVec 7) (v : Word) (p : Bool) : (t.writeReg c d r v p).trapcause = t.trapcause := rfl
@[simp] theorem Thread.writeReg_trapaddr (t : Thread) (c d : Nat) (r : BitVec 7) (v : Word) (p : Bool) : (t.writeReg c d r v p).trapaddr = t.trapaddr := rfl
@[simp] theorem Thread.writeReg_trappc (t : Thread) (c d : Nat) (r : BitVec 7) (v : Word) (p : Bool) : (t.writeReg c d r v p).trappc = t.trappc := rfl
@[simp] theorem Thread.writeReg_handler (t : Thread) (c d : Nat) (r : BitVec 7) (v : Word) (p : Bool) : (t.writeReg c d r v p).handler = t.handler := rfl
@[simp] theorem Thread.writeReg_poisonRec (t : Thread) (c d : Nat) (r : BitVec 7) (v : Word) (p : Bool) : (t.writeReg c d r v p).poisonRec = t.poisonRec := rfl
@[simp] theorem Thread.writeReg_faults (t : Thread) (c d : Nat) (r : BitVec 7) (v : Word) (p : Bool) : (t.writeReg c d r v p).faults = t.faults := rfl
@[simp] theorem Thread.writeReg_later (t : Thread) (c d : Nat) (r : BitVec 7) (v : Word) (p : Bool) : (t.writeReg c d r v p).later = t.later := rfl
@[simp] theorem Thread.writeReg_readyAt (t : Thread) (c d : Nat) (r : BitVec 7) (v : Word) (p : Bool) : (t.writeReg c d r v p).readyAt = t.readyAt := rfl
@[simp] theorem Thread.writeReg_issuedAt (t : Thread) (c d : Nat) (r : BitVec 7) (v : Word) (p : Bool) : (t.writeReg c d r v p).issuedAt = t.issuedAt := rfl
@[simp] theorem Thread.writeReg_skip (t : Thread) (c d : Nat) (r : BitVec 7) (v : Word) (p : Bool) : (t.writeReg c d r v p).skip = t.skip := rfl
@[simp] theorem Thread.writeReg_yielded (t : Thread) (c d : Nat) (r : BitVec 7) (v : Word) (p : Bool) : (t.writeReg c d r v p).yielded = t.yielded := rfl
@[simp] theorem Thread.writeReg_wait (t : Thread) (c d : Nat) (r : BitVec 7) (v : Word) (p : Bool) : (t.writeReg c d r v p).wait = t.wait := rfl
@[simp] theorem Thread.writeReg_arrivals (t : Thread) (c d : Nat) (r : BitVec 7) (v : Word) (p : Bool) : (t.writeReg c d r v p).arrivals = t.arrivals := rfl
@[simp] theorem Thread.writeReg_issued (t : Thread) (c d : Nat) (r : BitVec 7) (v : Word) (p : Bool) : (t.writeReg c d r v p).issued = t.issued := rfl
@[simp] theorem Thread.writeReg_chunkStart (t : Thread) (c d : Nat) (r : BitVec 7) (v : Word) (p : Bool) : (t.writeReg c d r v p).chunkStart = t.chunkStart := rfl
@[simp] theorem Thread.writeReg_check (t : Thread) (c d : Nat) (r : BitVec 7) (v : Word) (p : Bool) : (t.writeReg c d r v p).check = t.check := rfl
@[simp] theorem Thread.writeReg_hints (t : Thread) (c d : Nat) (r : BitVec 7) (v : Word) (p : Bool) : (t.writeReg c d r v p).hints = t.hints := rfl
@[simp] theorem Thread.writeReg_passBkpt (t : Thread) (c d : Nat) (r : BitVec 7) (v : Word) (p : Bool) : (t.writeReg c d r v p).passBkpt = t.passBkpt := rfl
@[simp] theorem Thread.writeReg_passWatch (t : Thread) (c d : Nat) (r : BitVec 7) (v : Word) (p : Bool) : (t.writeReg c d r v p).passWatch = t.passWatch := rfl
@[simp] theorem Thread.writeReg_grant (t : Thread) (c d : Nat) (r : BitVec 7) (v : Word) (p : Bool) : (t.writeReg c d r v p).grant = t.grant := rfl
@[simp] theorem Thread.writeReg_haltFault (t : Thread) (c d : Nat) (r : BitVec 7) (v : Word) (p : Bool) : (t.writeReg c d r v p).haltFault = t.haltFault := rfl

/-! ## advance -/

@[simp] theorem Thread.advance_regs (t : Thread) (e : Env) (o : Ops) (n : Nat) (x y : Bool) : (t.advance e o n x y).regs = t.regs := by cases x <;> simp [Thread.advance]
@[simp] theorem Thread.advance_exited (t : Thread) (e : Env) (o : Ops) (n : Nat) (x y : Bool) : (t.advance e o n x y).exited = t.exited := by cases x <;> simp [Thread.advance]
@[simp] theorem Thread.advance_o (t : Thread) (e : Env) (o : Ops) (n : Nat) (x y : Bool) : (t.advance e o n x y).o = t.o := by cases x <;> simp [Thread.advance]
@[simp] theorem Thread.advance_s (t : Thread) (e : Env) (o : Ops) (n : Nat) (x y : Bool) : (t.advance e o n x y).s = t.s := by cases x <;> simp [Thread.advance]
@[simp] theorem Thread.advance_pa (t : Thread) (e : Env) (o : Ops) (n : Nat) (x y : Bool) : (t.advance e o n x y).pa = t.pa := by cases x <;> simp [Thread.advance]
@[simp] theorem Thread.advance_fs (t : Thread) (e : Env) (o : Ops) (n : Nat) (x y : Bool) : (t.advance e o n x y).fs = t.fs := by cases x <;> simp [Thread.advance]
@[simp] theorem Thread.advance_syncscope (t : Thread) (e : Env) (o : Ops) (n : Nat) (x y : Bool) : (t.advance e o n x y).syncscope = t.syncscope := by cases x <;> simp [Thread.advance]
@[simp] theorem Thread.advance_trapvec (t : Thread) (e : Env) (o : Ops) (n : Nat) (x y : Bool) : (t.advance e o n x y).trapvec = t.trapvec := by cases x <;> simp [Thread.advance]
@[simp] theorem Thread.advance_trapcause (t : Thread) (e : Env) (o : Ops) (n : Nat) (x y : Bool) : (t.advance e o n x y).trapcause = t.trapcause := by cases x <;> simp [Thread.advance]
@[simp] theorem Thread.advance_trapaddr (t : Thread) (e : Env) (o : Ops) (n : Nat) (x y : Bool) : (t.advance e o n x y).trapaddr = t.trapaddr := by cases x <;> simp [Thread.advance]
@[simp] theorem Thread.advance_trappc (t : Thread) (e : Env) (o : Ops) (n : Nat) (x y : Bool) : (t.advance e o n x y).trappc = t.trappc := by cases x <;> simp [Thread.advance]
@[simp] theorem Thread.advance_handler (t : Thread) (e : Env) (o : Ops) (n : Nat) (x y : Bool) : (t.advance e o n x y).handler = t.handler := by cases x <;> simp [Thread.advance]
@[simp] theorem Thread.advance_poison (t : Thread) (e : Env) (o : Ops) (n : Nat) (x y : Bool) : (t.advance e o n x y).poison = t.poison := by cases x <;> simp [Thread.advance]
@[simp] theorem Thread.advance_poisonRec (t : Thread) (e : Env) (o : Ops) (n : Nat) (x y : Bool) : (t.advance e o n x y).poisonRec = t.poisonRec := by cases x <;> simp [Thread.advance]
@[simp] theorem Thread.advance_faults (t : Thread) (e : Env) (o : Ops) (n : Nat) (x y : Bool) : (t.advance e o n x y).faults = t.faults := by cases x <;> simp [Thread.advance]
@[simp] theorem Thread.advance_later (t : Thread) (e : Env) (o : Ops) (n : Nat) (x y : Bool) : (t.advance e o n x y).later = t.later := by cases x <;> simp [Thread.advance]
@[simp] theorem Thread.advance_skip (t : Thread) (e : Env) (o : Ops) (n : Nat) (x y : Bool) : (t.advance e o n x y).skip = t.skip := by cases x <;> simp [Thread.advance]
@[simp] theorem Thread.advance_yielded (t : Thread) (e : Env) (o : Ops) (n : Nat) (x y : Bool) : (t.advance e o n x y).yielded = t.yielded := by cases x <;> simp [Thread.advance]
@[simp] theorem Thread.advance_wait (t : Thread) (e : Env) (o : Ops) (n : Nat) (x y : Bool) : (t.advance e o n x y).wait = t.wait := by cases x <;> simp [Thread.advance]
@[simp] theorem Thread.advance_arrivals (t : Thread) (e : Env) (o : Ops) (n : Nat) (x y : Bool) : (t.advance e o n x y).arrivals = t.arrivals := by cases x <;> simp [Thread.advance]
@[simp] theorem Thread.advance_pend (t : Thread) (e : Env) (o : Ops) (n : Nat) (x y : Bool) : (t.advance e o n x y).pend = t.pend := by cases x <;> simp [Thread.advance]
@[simp] theorem Thread.advance_chunkStart (t : Thread) (e : Env) (o : Ops) (n : Nat) (x y : Bool) : (t.advance e o n x y).chunkStart = t.chunkStart := by cases x <;> simp [Thread.advance]
@[simp] theorem Thread.advance_late (t : Thread) (e : Env) (o : Ops) (n : Nat) (x y : Bool) : (t.advance e o n x y).late = t.late := by cases x <;> simp [Thread.advance]
@[simp] theorem Thread.advance_hints (t : Thread) (e : Env) (o : Ops) (n : Nat) (x y : Bool) : (t.advance e o n x y).hints = t.hints := by cases x <;> simp [Thread.advance]
@[simp] theorem Thread.advance_haltFault (t : Thread) (e : Env) (o : Ops) (n : Nat) (x y : Bool) : (t.advance e o n x y).haltFault = t.haltFault := by cases x <;> simp [Thread.advance]

@[simp] theorem Thread.advance_issuedAt (t : Thread) (e : Env) (o : Ops) (n : Nat) (x y : Bool) : (t.advance e o n x y).issuedAt = e.issueCycle n := by cases x <;> simp [Thread.advance]

end Sys2Proof.Machine
end

