-- ==== Sys2Proof/Laws/Issue.lean ====
section
/-!
SUPPORT. What the issue of a pass does (R29, R31, R50, R52, R67): the lanes of a pass, the fold of an update over them, the common part of
every issue, and where register results go.
-/
namespace Sys2Proof.Machine

/-! ## The lanes of a pass -/

theorem refs_nodup (c : CRef) (F : Nat × Nat → Option Lane) (hF : ∀ q l, F q = some l → l.ref = c.thread q.2) (L : List (Nat × Nat))
    (h : (L.map Prod.snd).Nodup) : ((L.filterMap F).map Lane.ref).Nodup := by
  induction L with
  | nil => simp
  | cons q L ih =>
    simp only [List.map_cons, List.nodup_cons] at h
    simp only [List.filterMap_cons]
    cases hq : F q with
    | none => exact ih h.2
    | some l =>
      simp only [List.map_cons, List.nodup_cons]
      refine ⟨?_, ih h.2⟩
      intro hm
      simp only [List.mem_map, List.mem_filterMap] at hm
      obtain ⟨m, ⟨r, hr, hrm⟩, hme⟩ := hm
      apply h.1
      rw [hF q l hq, hF r m hrm] at hme
      simp only [CRef.thread, TRef.mk.injEq, true_and] at hme
      simp only [List.mem_map]
      exact ⟨r, hr, hme⟩

theorem map_snd_mapIdx (l : List Nat) : (l.mapIdx (fun i n => (i, n))).map Prod.snd = l := by
  apply List.ext_getElem <;> simp

/-- No thread stands twice in a pass. -/
theorem Env.lanes_nodup (e : Env) (o : Ops) (h : e.pass.lanes.Nodup) : ((e.lanes o).map Lane.ref).Nodup := by
  unfold Env.lanes
  apply refs_nodup e.pass.crew
  · intro q l hq
    simp only [Option.map_eq_some_iff] at hq
    obtain ⟨t, -, rfl⟩ := hq
    rfl
  · rw [map_snd_mapIdx]
    exact h

/-- A lane's thread is the one its name gives in the crew of the pass. -/
theorem Env.mem_lanes {e : Env} {o : Ops} {l : Lane} (h : l ∈ e.lanes o) :
    ∃ n, n ∈ e.pass.lanes ∧ l.ref = e.pass.crew.thread n ∧ e.crew.threads[n]? = some l.t := by
  unfold Env.lanes at h
  simp only [List.mem_filterMap, List.mem_mapIdx, Option.map_eq_some_iff] at h
  obtain ⟨q, ⟨i, hi, rfl⟩, t, ht, rfl⟩ := h
  exact ⟨e.pass.lanes[i], List.getElem_mem hi, rfl, ht⟩

/-- What `State.env?` answers. -/
theorem State.env_some {s : State} {p : Pass} {code : Nat} {o : Ops} {e : Env} (h : s.env? p code o = some e) :
    s.crew? p.crew = some e.crew ∧ rowOf code o = some e.row ∧ e.pass = p ∧ e.code = code ∧ e.cyc = s.cycle ∧ e.base = s.fresh
      ∧ e.core = s.coreOf p.crew.block ∧ e.modes = s.modesOf p.crew.g := by
  unfold State.env? at h
  split at h
  · rename_i c r hc hr
    simp only [Option.some.injEq] at h
    subst h
    exact ⟨hc, hr, rfl, rfl, rfl, rfl, rfl, rfl⟩
  · exact absurd h (by simp)

theorem Issues.thread {s : State} {p : Pass} {code : Nat} {o : Ops} {x : Env → Lane → List IssueFault} {e : Env} (h : Issues s p code o x e)
    {l : Lane} (hl : l ∈ e.lanes o) : s.thread? l.ref = some l.t := by
  obtain ⟨hc, -, hp, -⟩ := State.env_some h.env
  obtain ⟨n, -, hr, ht⟩ := Env.mem_lanes hl
  rw [hr, hp]
  change (s.crew? p.crew).bind (fun c => c.threads[n]?) = _
  rw [hc]
  exact ht

/-! ## An update of each lane -/

/-- A fold of updates of distinct threads gives each its own update and leaves the other threads alone. -/
theorem thread_fold {α : Type} (ref : α → TRef) (g : α → Thread → Thread) (F : State → α → State)
    (hs : ∀ u x, (F u x).thread? (ref x) = (u.thread? (ref x)).map (g x)) (ho : ∀ u x r, r ≠ ref x → (F u x).thread? r = u.thread? r)
    (ls : List α) (s : State) (hn : (ls.map ref).Nodup) :
    (∀ x ∈ ls, (ls.foldl F s).thread? (ref x) = (s.thread? (ref x)).map (g x))
      ∧ ∀ r, r ∉ ls.map ref → (ls.foldl F s).thread? r = s.thread? r := by
  induction ls generalizing s with
  | nil => simp
  | cons a ls ih =>
    simp only [List.map_cons, List.nodup_cons] at hn
    obtain ⟨h1, h2⟩ := ih (F s a) hn.2
    constructor
    · intro x hx
      simp only [List.foldl_cons]
      rcases List.mem_cons.mp hx with rfl | hx
      · rw [h2 _ hn.1, hs]
      · rw [h1 x hx, ho]
        intro he
        apply hn.1
        rw [← he]
        exact List.mem_map_of_mem hx
    · intro r hr
      simp only [List.map_cons, List.mem_cons, not_or] at hr
      simp only [List.foldl_cons]
      rw [h2 r hr.2, ho _ _ _ hr.1]

/-- A fold keeps what each of its steps keeps. -/
theorem fold_keeps {α σ β : Type} (obs : σ → β) (F : σ → α → σ) (h : ∀ u x, obs (F u x) = obs u) (ls : List α) (s : σ) :
    obs (ls.foldl F s) = obs s := by
  induction ls generalizing s with
  | nil => rfl
  | cons a ls ih => rw [List.foldl_cons, ih, h]

theorem State.thread_onLanes (s : State) (ls : List Lane) (f : Lane → Thread → Thread) (hn : (ls.map Lane.ref).Nodup) :
    (∀ l ∈ ls, (s.onLanes ls f).thread? l.ref = (s.thread? l.ref).map (f l))
      ∧ ∀ r, r ∉ ls.map Lane.ref → (s.onLanes ls f).thread? r = s.thread? r :=
  thread_fold Lane.ref f _ (fun u x => u.thread_modThread_same x.ref (f x)) (fun u x _ hr => u.thread_modThread_other hr (f x)) ls s hn

/-! ## The common part of an issue -/

@[simp] theorem State.samplePass_groups (s : State) (p : Pass) (code m : Nat) : (s.samplePass p code m).groups = s.groups := by
  unfold State.samplePass
  split
  · rfl
  · split
    · dsimp only
      split <;> simp
    · rfl

/-- A crew observed through what a trace packet leaves as it was. -/
theorem State.crew_tracePacket {β : Type} (obs : Crew → β) (ho : ∀ (x : Crew) (u : TraceStream), obs { x with trace := u } = obs x) (s : State) (c : CRef)
    (pc : DWord) (a b : Bool) (f : Nat → DWord → List Byte) (d : CRef) :
    ((s.tracePacket c pc a b f).crew? d).map obs = (s.crew? d).map obs := by
  have hm : ∀ (u : State) (g : Crew → Crew), (∀ x, obs (g x) = obs x) → ((u.modCrew c g).crew? d).map obs = (u.crew? d).map obs := by
    intro u g hg
    by_cases hd : d = c
    · rw [hd, State.crew_modCrew_same]
      cases u.crew? c <;> simp [hg]
    · rw [State.crew_modCrew_other u hd]
  have hg : ∀ (u : State) (h : Nat) (fs : List (List Byte)), (u.traceAdd h fs).groups = u.groups := by
    intro u h fs
    unfold State.traceAdd
    split <;> simp
  have hi : ∀ (p : Prop) [Decidable p] (u v : State), (u.crew? d).map obs = (s.crew? d).map obs → (v.crew? d).map obs = (s.crew? d).map obs →
      ((if p then u else v).crew? d).map obs = (s.crew? d).map obs := by
    intro p _ u v hu hv
    split <;> assumption
  unfold State.tracePacket
  split
  · refine hi _ _ _ ?_ ?_
    · exact hm s _ (fun x => ho x _)
    · rw [hm _ _ (fun x => ho x _), State.crew_of_groups (hg _ _ _)]
  · rfl

theorem State.crew_traceFirst {β : Type} (obs : Crew → β) (ho : ∀ (x : Crew) (u : TraceStream), obs { x with trace := u } = obs x) (s : State) (c : CRef)
    (pc : DWord) (d : CRef) : ((s.traceFirst c pc).crew? d).map obs = (s.crew? d).map obs := by
  unfold State.traceFirst
  split
  · refine Eq.trans ?_ (State.crew_tracePacket obs ho s c pc true true (fun _ _ => []) d)
    by_cases hd : d = c
    · rw [hd, State.crew_modCrew_same]
      cases (s.tracePacket c pc true true (fun _ _ => [])).crew? c <;> simp [ho]
    · rw [State.crew_modCrew_other _ hd]
  · rfl

theorem State.thread_traceFirst (s : State) (c : CRef) (pc : DWord) (r : TRef) : (s.traceFirst c pc).thread? r = s.thread? r := by
  have h := State.crew_traceFirst Crew.threads (fun _ _ => rfl) s c pc r.crew
  simp only [State.thread?]
  revert h
  cases (s.traceFirst c pc).crew? r.crew <;> cases s.crew? r.crew <;> simp_all

/-- The threads, lanes and State that an issue without a fault answers. -/
theorem Issues.issue {s : State} {p : Pass} {code : Nat} {o : Ops} {x : Env → Lane → List IssueFault} {e : Env} (h : Issues s p code o x e)
    (sets : Bool) :
    s.issue e o (x e) sets
      = (((({ s with focus := .none, fresh := s.fresh + 2 ^ 18 } : State).onLanes (e.lanes o) (fun l t => t.advance e o l.lane l.exec sets)).samplePass
          e.pass e.code (activeMask (e.lanes o))).traceFirst e.pass.crew e.pass.pc, (e.lanes o).filter (fun l => l.exec)) := by
  have hb : (e.lanes o).filterMap (fun l => (e.standing o l (x e)).map (fun f => (l, f))) = [] := by
    rw [List.filterMap_eq_nil_iff]
    intro l hl
    simp [h.clean l hl]
  have hg : (e.lanes o).filter (fun l => (e.standing o l (x e)).isNone && l.t.mayIssue) = e.lanes o := by
    rw [List.filter_eq_self]
    intro l hl
    simp [h.clean l hl, h.runs l hl]
  simp only [State.issue, hb, hg, List.foldl_nil]

/-- The pass runs its instruction's own effect on the lanes whose guard is true. -/
theorem Issues.run {s : State} {p : Pass} {code : Nat} {o : Ops} {x : Env → Lane → List IssueFault} {e : Env} (h : Issues s p code o x e)
    (body : Env → List Lane → State → State) :
    runPass code o x body s = .next ((body e ((e.lanes o).filter (fun l => l.exec)) (s.issue e o (x e) (code != 0x0CB)).1).sampleDone p.crew) := by
  simp only [runPass, h.focus, h.env, h.issue]

/-- After the common part each thread of the pass has advanced, and every other thread is as before. -/
theorem Issues.advanced {s : State} {p : Pass} {code : Nat} {o : Ops} {x : Env → Lane → List IssueFault} {e : Env} (h : Issues s p code o x e)
    (sets : Bool) :
    (∀ l ∈ e.lanes o, (s.issue e o (x e) sets).1.thread? l.ref = some (l.t.advance e o l.lane l.exec sets))
      ∧ ∀ r, r ∉ (e.lanes o).map Lane.ref → (s.issue e o (x e) sets).1.thread? r = s.thread? r := by
  have hn : ((e.lanes o).map Lane.ref).Nodup := e.lanes_nodup o (by rw [(State.env_some h.env).2.2.1]; exact h.nodup)
  obtain ⟨h1, h2⟩ := State.thread_onLanes ({ s with focus := .none, fresh := s.fresh + 2 ^ 18 } : State) (e.lanes o)
    (fun l t => t.advance e o l.lane l.exec sets) hn
  rw [h.issue]
  constructor
  · intro l hl
    rw [State.thread_traceFirst, State.thread_of_groups (State.samplePass_groups _ _ _ _), h1 l hl]
    exact congrArg (Option.map _) (h.thread hl)
  · intro r hr
    rw [State.thread_traceFirst, State.thread_of_groups (State.samplePass_groups _ _ _ _), h2 r hr]
    rfl

/-! ## Ends of a pass -/

@[simp] theorem State.bbox_groups (s : State) (d k u : Nat) (a : BitVec 16) (g : Word) (x y : DWord) : (s.bbox d k u a g x y).groups = s.groups := by
  unfold State.bbox
  dsimp only

@[simp] theorem State.tracePut_groups (s : State) (h : Nat) (f : List Byte) : (s.tracePut h f).groups = s.groups := by
  unfold State.tracePut State.traceAdd State.traceLost
  split
  · split <;> simp
  · simp

@[simp] theorem State.dropTags_groups (s : State) (f) : (s.dropTags f).groups = s.groups := by
  unfold State.dropTags
  rfl

@[simp] theorem State.writeTags_groups (s : State) (f) : (s.writeTags f).groups = s.groups := by
  unfold State.writeTags
  dsimp only
  split
  · rfl
  · rw [State.dropTags_groups, fold_keeps State.groups _ (fun u x => u.tracePut_groups _ _)]

@[simp] theorem State.sampleDone_groups (s : State) (c : CRef) : (s.sampleDone c).groups = s.groups := by
  unfold State.sampleDone
  split
  · exact s.writeTags_groups _
  · rfl

end Sys2Proof.Machine
end

