-- ==== Sys2Proof/Laws/Result.lean ====
section
/-!
SUPPORT. Where the results of a pass go (R46, R50, R52, R67): the registers a write changes, and what `aluOp` answers.
-/
namespace Sys2Proof.Machine

/-! ## Observations that an update keeps -/

theorem State.obs_modThread {β : Type} (obs : Thread → β) (s : State) (t : TRef) (f : Thread → Thread) (hf : ∀ x, obs (f x) = obs x) (r : TRef) :
    ((s.modThread t f).thread? r).map obs = (s.thread? r).map obs := by
  by_cases h : r = t
  · rw [h, State.thread_modThread_same]
    cases s.thread? t with
    | none => rfl
    | some x => simp [hf]
  · rw [State.thread_modThread_other s h]

theorem State.kregs_modThread (s : State) (t : TRef) (f : Thread → Thread) (c : CRef) :
    ((s.modThread t f).crew? c).map Crew.kregs = (s.crew? c).map Crew.kregs := by
  unfold State.modThread
  by_cases h : c = t.crew
  · rw [h, State.crew_modCrew_same]
    cases s.crew? t.crew with
    | none => rfl
    | some x => simp
  · rw [State.crew_modCrew_other s h]

/-! ## One register file -/

theorem Thread.regs_writeReg (t : Thread) (cyc due : Nat) (r : BitVec 7) (v : Word) (p : Bool) :
    (t.writeReg cyc due r v p).regs = t.regs.set r.toNat v := rfl

theorem Crew.kregs_writeReg (c : Crew) (cyc due : Nat) (r : BitVec 7) (v : Word) (k : Nat) :
    (c.writeReg cyc due r v k).kregs = c.kregs.set r.toNat v := rfl

/-- A register file after the writes of `ws`, in their order. -/
def fileWrites (f : List Word) (ws : List (BitVec 7 × Word)) : List Word := ws.foldl (fun g x => g.set x.1.toNat x.2) f

theorem Thread.regs_fold (t : Thread) (cyc due : Nat) (p : Bool) (ws : List (BitVec 7 × Word)) :
    (ws.foldl (fun (u : Thread) x => u.writeReg cyc due x.1 x.2 p) t).regs = fileWrites t.regs ws := by
  induction ws generalizing t with
  | nil => rfl
  | cons w ws ih => rw [List.foldl_cons, ih, Thread.regs_writeReg]; rfl

theorem Crew.kregs_fold (c : Crew) (cyc due k : Nat) (ws : List (BitVec 7 × Word)) :
    (ws.foldl (fun (u : Crew) x => u.writeReg cyc due x.1 x.2 k) c).kregs = fileWrites c.kregs ws := by
  induction ws generalizing c with
  | nil => rfl
  | cons w ws ih => rw [List.foldl_cons, ih, Crew.kregs_writeReg]; rfl

theorem fileWrites_length (f : List Word) (ws : List (BitVec 7 × Word)) : (fileWrites f ws).length = f.length := by
  induction ws generalizing f with
  | nil => rfl
  | cons w ws ih => unfold fileWrites at ih ⊢; rw [List.foldl_cons, ih, List.length_set]

theorem fileWrites_other (f : List Word) (ws : List (BitVec 7 × Word)) (q : BitVec 7) (h : ∀ w ∈ ws, w.1 ≠ q) :
    (fileWrites f ws)[q.toNat]? = f[q.toNat]? := by
  induction ws generalizing f with
  | nil => rfl
  | cons w ws ih =>
    unfold fileWrites at ih ⊢
    rw [List.foldl_cons, ih _ (fun x hx => h x (List.mem_cons_of_mem _ hx))]
    have : w.1.toNat ≠ q.toNat := fun he => h w List.mem_cons_self (BitVec.eq_of_toNat_eq he)
    simp [this]

theorem fileWrites_mem (f : List Word) (ws : List (BitVec 7 × Word)) (q : BitVec 7) (v : Word) (hn : (ws.map Prod.fst).Nodup) (hm : (q, v) ∈ ws)
    (hq : q.toNat < f.length) : (fileWrites f ws)[q.toNat]? = some v := by
  induction ws generalizing f with
  | nil => simp at hm
  | cons w ws ih =>
    simp only [List.map_cons, List.nodup_cons, List.mem_map, not_exists, not_and] at hn
    rcases List.mem_cons.mp hm with h | h
    · subst h
      change (fileWrites (f.set q.toNat v) ws)[q.toNat]? = some v
      rw [fileWrites_other _ _ _ (fun x hx he => hn.1 x hx he)]
      simp [hq]
    · change (fileWrites (f.set w.1.toNat w.2) ws)[q.toNat]? = some v
      exact ih _ hn.2 h (by simpa using hq)

theorem resultWords_nodup (r : Reg) (w v : Nat) (hw : w ≤ 128) : ((resultWords r w v).map Prod.fst).Nodup := by
  unfold resultWords
  rw [List.map_map]
  refine List.Nodup.map_on ?_ List.nodup_range
  intro a ha b hb hab
  simp only [List.mem_range] at ha hb
  have := congrArg BitVec.toNat hab
  simp only [Function.comp, BitVec.toNat_add, BitVec.toNat_ofNat] at this
  omega

theorem resultWords_mem (r : Reg) (w v i : Nat) (hi : i < w) : (r.num + BitVec.ofNat 7 i, wordAtIdx v i) ∈ resultWords r w v := by
  unfold resultWords
  exact List.mem_map.mpr ⟨i, List.mem_range.mpr hi, rfl⟩

/-! ## Flags and operations under way -/

theorem State.flagPends_regs (s : State) (e : Env) (o : Ops) (ls : List Lane) (n : Nat) (r : TRef) :
    ((s.flagPends e o ls n).thread? r).map Thread.regs = (s.thread? r).map Thread.regs := by
  unfold State.flagPends
  split
  · rfl
  · refine fold_keeps (fun (u : State) => (u.thread? r).map Thread.regs) _ ?_ ls s
    intro u l
    dsimp only
    rw [State.thread_of_groups (State.inCycle_groups _ _ _)]
    rw [State.obs_modThread Thread.regs]
    · rfl
    · intro _
      rfl

theorem State.flagPends_kregs (s : State) (e : Env) (o : Ops) (ls : List Lane) (n : Nat) (c : CRef) :
    ((s.flagPends e o ls n).crew? c).map Crew.kregs = (s.crew? c).map Crew.kregs := by
  unfold State.flagPends
  split
  · rfl
  · refine fold_keeps (fun (u : State) => (u.crew? c).map Crew.kregs) _ ?_ ls s
    intro u l
    dsimp only
    rw [State.crew_of_groups (State.inCycle_groups _ _ _)]
    rw [State.kregs_modThread]
    rfl

/-! ## The register limit that an issue has checked (R395) -/

theorem Issues.inRange {s : State} {p : Pass} {code : Nat} {o : Ops} {x : Env → Lane → List IssueFault} {e : Env} (h : Issues s p code o x e)
    {l : Lane} (hl : l ∈ e.lanes o) : regRange e.row o l.t.regs.length = none := by
  have hc := h.clean l hl
  unfold Env.standing at hc
  split at hc
  · simp at hc
  · rw [Option.map_eq_none_iff] at hc
    cases hr : regRange e.row o l.t.regs.length with
    | none => rfl
    | some d =>
      exfalso
      simp only [Env.faults, hr, List.cons_append, List.nil_append, lowestFault] at hc
      split at hc <;> simp at hc

theorem regRange_vd {row : Row} {o : Ops} {n : Nat} (h : regRange row o n = none) (hc : o.vd.crew = false) {q : BitVec 7}
    (hq : q ∈ row.vd.regs o.vd) : q.toNat < n := by
  unfold regRange at h
  simp only [Option.or_eq_none_iff] at h
  have h0 := h.1
  simp only [hc, Bool.false_eq_true, if_false, Option.map_eq_none_iff, List.find?_eq_none, decide_eq_true_eq, Nat.not_le] at h0
  exact h0 q hq

/-! ## Results of a fixed latency -/

theorem State.writeResult_vec_same (s : State) (e : Env) (l : Lane) (r : Reg) (hr : r.crew = false) (w v due : Nat) (p : Bool) :
    (s.writeResult e l r w v due p).thread? l.ref
      = (s.thread? l.ref).map (fun t => ((resultWords r w v).foldl (fun u x => u.writeReg e.cyc due x.1 x.2 p) t).tidyPoison) := by
  simp only [State.writeResult, hr, Bool.false_eq_true, if_false]
  exact State.thread_modThread_same _ _ _

theorem State.writeResult_vec_other (s : State) (e : Env) (l : Lane) (r : Reg) (hr : r.crew = false) (w v due : Nat) (p : Bool) (q : TRef)
    (hq : q ≠ l.ref) : (s.writeResult e l r w v due p).thread? q = s.thread? q := by
  simp only [State.writeResult, hr, Bool.false_eq_true, if_false]
  exact State.thread_modThread_other _ hq _

theorem State.writeResult_crew (s : State) (e : Env) (l : Lane) (r : Reg) (hr : r.crew = true) (w v due : Nat) (p : Bool) :
    (s.writeResult e l r w v due p).crew? l.ref.crew
      = (s.crew? l.ref.crew).map (fun c => (resultWords r w v).foldl (fun u x => u.writeReg e.cyc due x.1 x.2 (writeOrder e.pass.num l.lane)) c) := by
  simp only [State.writeResult, hr, if_true]
  exact State.crew_modCrew_same _ _ _

/-- What the results of a pass put into the registers, for a fixed latency and one destination (R46, R50). -/
theorem State.results_fixed (s : State) (e : Env) (o : Ops) (ls : List Lane) (n w : Nat) (f : Lane → Nat) (hl : e.row.lat = some n) (hw : w ≤ 128)
    (hn : (ls.map Lane.ref).Nodup) :
    (o.vd.crew = false → ∀ l ∈ ls, ∀ x, s.thread? l.ref = some x → (∀ i, i < w → (o.vd.num + BitVec.ofNat 7 i).toNat < x.regs.length) →
      (s.results e o ls (fun l => [⟨o.vd, w, f l⟩])).groupIs l.ref o.vd.num w (f l))
    ∧ (o.vd.crew = true → ∀ l c x, ls.getLast? = some l → (∀ m ∈ ls, m.ref.crew = c) → s.crew? c = some x →
      (∀ i, i < w → (o.vd.num + BitVec.ofNat 7 i).toNat < x.kregs.length) →
      (s.results e o ls (fun l => [⟨o.vd, w, f l⟩])).crewIs c o.vd.num w (f l)) := by
  simp only [State.results, hl, List.foldl_cons, List.foldl_nil]
  constructor
  · intro hc l hm x hx hr i hi
    obtain ⟨h1, -⟩ := thread_fold Lane.ref _ (fun (u : State) (l : Lane) => u.writeResult e l o.vd w (f l) (e.cyc + n) (resultPoison e l o.vd))
      (fun u l => u.writeResult_vec_same e l o.vd hc w (f l) (e.cyc + n) (resultPoison e l o.vd))
      (fun u l q hq => u.writeResult_vec_other e l o.vd hc w (f l) (e.cyc + n) (resultPoison e l o.vd) q hq) ls s hn
    have h2 := State.flagPends_regs (ls.foldl (fun (u : State) (l : Lane) =>
      u.writeResult e l o.vd w (f l) (e.cyc + n) (resultPoison e l o.vd)) s) e o ls n l.ref
    rw [h1 l hm, hx] at h2
    simp only [Option.map_some, Option.map_eq_some_iff] at h2
    obtain ⟨y, hy, hyr⟩ := h2
    refine ⟨y, hy, ?_⟩
    rw [hyr, Thread.tidyPoison_regs, Thread.regs_fold]
    exact fileWrites_mem _ _ _ _ (resultWords_nodup _ _ _ hw) (resultWords_mem _ _ _ _ hi) (hr i hi)
  · intro hc l c x hlast hcs hx hr i hi
    obtain ⟨ini, rfl⟩ : ∃ ini, ls = ini ++ [l] := by
      obtain ⟨ini, hini⟩ := List.getLast?_eq_some_iff.mp hlast
      exact ⟨ini, hini⟩
    have hlen : ∀ (ms : List Lane) (u : State) (y : Crew), (∀ m ∈ ms, m.ref.crew = c) → u.crew? c = some y →
        ∃ z, (ms.foldl (fun (u : State) (l : Lane) => u.writeResult e l o.vd w (f l) (e.cyc + n) (resultPoison e l o.vd)) u).crew? c = some z
          ∧ z.kregs.length = y.kregs.length := by
      intro ms
      induction ms with
      | nil => intro u y _ hy; exact ⟨y, hy, rfl⟩
      | cons m ms ih =>
        intro u y hms hy
        have hm : m.ref.crew = c := hms m List.mem_cons_self
        have h1 := u.writeResult_crew e m o.vd hc w (f m) (e.cyc + n) (resultPoison e m o.vd)
        rw [hm, hy] at h1
        obtain ⟨z, hz, hz2⟩ := ih _ _ (fun k hk => hms k (List.mem_cons_of_mem _ hk)) h1
        refine ⟨z, hz, ?_⟩
        rw [hz2, Crew.kregs_fold, fileWrites_length]
    obtain ⟨z, hz, hz2⟩ := hlen ini s x (fun m hm => hcs m (List.mem_append_left _ hm)) hx
    have hlc : l.ref.crew = c := hcs l (by simp)
    have h2 := State.flagPends_kregs ((ini ++ [l]).foldl (fun (u : State) (l : Lane) =>
      u.writeResult e l o.vd w (f l) (e.cyc + n) (resultPoison e l o.vd)) s) e o (ini ++ [l]) n c
    have h3 := State.writeResult_crew (ini.foldl (fun (u : State) (l : Lane) =>
      u.writeResult e l o.vd w (f l) (e.cyc + n) (resultPoison e l o.vd)) s) e l o.vd hc w (f l) (e.cyc + n) (resultPoison e l o.vd)
    rw [hlc, hz] at h3
    rw [List.foldl_append, List.foldl_cons, List.foldl_nil] at h2 ⊢
    rw [h3] at h2
    simp only [Option.map_some, Option.map_eq_some_iff] at h2
    obtain ⟨y, hy, hyr⟩ := h2
    refine ⟨y, hy, ?_⟩
    rw [hyr, Crew.kregs_fold]
    refine fileWrites_mem _ _ _ _ (resultWords_nodup _ _ _ hw) (resultWords_mem _ _ _ _ hi) ?_
    rw [hz2]
    exact hr i hi

end Sys2Proof.Machine
end

