-- ==== Sys2Proof/Laws/Alu.lean ====
section
/-!
SUPPORT. What an instruction of one destination per thread answers (`aluOp`, R113), its result and its frame.
-/
namespace Sys2Proof.Machine

theorem Operand.regs_mem (s d : Bool) (w : Nat) (k : OpKind) (r : Reg) (i : Nat) (hi : i < w) :
    r.num + BitVec.ofNat 7 i ∈ (Operand.reg s d w k).regs r := by
  simp only [Operand.regs, groupRegs, List.mem_map, List.mem_range]
  exact ⟨i, hi, rfl⟩

theorem Issues.crew {s : State} {p : Pass} {code : Nat} {o : Ops} {x : Env → Lane → List IssueFault} {e : Env} (h : Issues s p code o x e) :
    s.crew? p.crew = some e.crew ∧ e.pass = p := ⟨(State.env_some h.env).1, (State.env_some h.env).2.2.1⟩

theorem State.onLanes_kregs (s : State) (ls : List Lane) (f : Lane → Thread → Thread) (c : CRef) :
    ((s.onLanes ls f).crew? c).map Crew.kregs = (s.crew? c).map Crew.kregs := by
  unfold State.onLanes
  exact fold_keeps (fun (u : State) => (u.crew? c).map Crew.kregs) (fun u l => u.modThread l.ref (f l))
    (fun u l => u.kregs_modThread l.ref (f l) c) ls s

theorem Issues.kregs {s : State} {p : Pass} {code : Nat} {o : Ops} {x : Env → Lane → List IssueFault} {e : Env} (h : Issues s p code o x e)
    (sets : Bool) (c : CRef) : ((s.issue e o (x e) sets).1.crew? c).map Crew.kregs = (s.crew? c).map Crew.kregs := by
  rw [h.issue, State.crew_traceFirst Crew.kregs (fun _ _ => rfl), State.crew_of_groups (State.samplePass_groups _ _ _ _), State.onLanes_kregs]
  rfl

/-- An issue without a fault gives every lane that executes its result, by the rule that `f` states (R46, R50, R113). -/
theorem aluOp_result {s : State} {p : Pass} {code : Nat} {o : Ops} {e : Env} (h : Issues s p code o noFaults e) (f : Row → Src → Nat)
    {n w : Nat} {a b : Bool} {k : OpKind} (hl : e.row.lat = some n) (hv : e.row.vd = .reg a b w k) (hw : w ≤ 128) :
    ∃ t, aluOp code o f s = .next t ∧ t.resultIs e o w (fun l => f e.row l.src) := by
  obtain ⟨hc, hp⟩ := h.crew
  have hn : (((e.lanes o).filter (fun l => l.exec)).map Lane.ref).Nodup :=
    ((e.lanes_nodup o (by rw [hp]; exact h.nodup)).sublist ((List.filter_sublist).map _))
  refine ⟨_, h.run _, ?_⟩
  have hwd : e.row.vd.width = w := by rw [hv]; rfl
  obtain ⟨r1, r2⟩ := State.results_fixed (s.issue e o (noFaults e) (code != 0x0CB)).1 e o ((e.lanes o).filter (fun l => l.exec)) n w
    (fun l => f e.row l.src) hl hw hn
  constructor
  · intro hcr l hex i hi
    have hm : l ∈ (e.lanes o).filter (fun l => l.exec) := List.mem_filter.mpr ⟨hex.1, hex.2⟩
    have hr : ∀ j, j < w → (o.vd.num + BitVec.ofNat 7 j).toNat < (l.t.advance e o l.lane l.exec (code != 0x0CB)).regs.length := by
      intro j hj
      have h1 := regRange_vd (h.inRange hex.1) hcr (by rw [hv]; exact Operand.regs_mem a b w k o.vd j hj)
      rw [Thread.advance_regs]
      exact h1
    obtain ⟨y, hy, hyr⟩ := r1 hcr l hm _ ((h.advanced (code != 0x0CB)).1 l hex.1) hr i hi
    refine ⟨y, ?_, hyr⟩
    rw [State.thread_of_groups (State.sampleDone_groups _ _), hwd]
    exact hy
  · intro hcr hr l hlast i hi
    have hcs : ∀ m ∈ (e.lanes o).filter (fun l => l.exec), m.ref.crew = p.crew := by
      intro m hm
      obtain ⟨n, -, hmr, -⟩ := Env.mem_lanes (List.mem_filter.mp hm).1
      rw [hmr, hp]
      rfl
    have hk := h.kregs (code != 0x0CB) p.crew
    rw [hc] at hk
    simp only [Option.map_some, Option.map_eq_some_iff] at hk
    obtain ⟨x, hx, hxk⟩ := hk
    obtain ⟨y, hy, hyr⟩ := r2 hcr l p.crew x hlast hcs hx (fun j hj => by rw [hxk]; exact hr j hj) i hi
    refine ⟨y, ?_, hyr⟩
    rw [State.crew_of_groups (State.sampleDone_groups _ _), hwd, hp]
    exact hy

end Sys2Proof.Machine
end

