-- ==== Sys2Proof/Laws/Memory.lean ====
section
/-!
SUPPORT. The laws of a byte memory: a read after a write, and that every operation keeps the canonical form.
-/
namespace Sys2Proof.Machine

/-! ## One byte -/

theorem cellsWf_mono {cs : List Host.Cell} {lo hi : Nat} (h : cellsWf hi cs = true) (hl : lo ≤ hi) : cellsWf lo cs = true := by
  cases cs with
  | nil => rfl
  | cons c cs =>
    simp only [cellsWf, Bool.and_eq_true, decide_eq_true_eq, bne_iff_ne] at h ⊢
    exact ⟨⟨by omega, h.1.2⟩, h.2⟩

theorem cellsRead_lt {cs : List Host.Cell} {lo a : Nat} (h : cellsWf lo cs = true) (ha : a < lo) : cellsRead cs a = 0 := by
  cases cs with
  | nil => rfl
  | cons c cs =>
    simp only [cellsWf, Bool.and_eq_true, decide_eq_true_eq, bne_iff_ne] at h
    have hc : ¬ c.1 = a := by omega
    have hl : a < c.1 := by omega
    simp [cellsRead, hc, hl]

/-- A write keeps the canonical form. -/
theorem cellsWrite_wf {cs : List Host.Cell} {lo a : Nat} {v : Byte} (h : cellsWf lo cs = true) (ha : lo ≤ a) :
    cellsWf lo (cellsWrite cs a v) = true := by
  induction cs generalizing lo with
  | nil =>
    by_cases hv : v = 0#8
    · simp [cellsWrite, hv, cellsWf]
    · simp [cellsWrite, hv, cellsWf, ha]
  | cons c cs ih =>
    simp only [cellsWf, Bool.and_eq_true, decide_eq_true_eq, bne_iff_ne] at h
    obtain ⟨⟨h1, h2⟩, h3⟩ := h
    rw [BitVec.ofNat_eq_ofNat] at h2
    simp only [cellsWrite]
    split
    · rename_i hc
      split
      · exact cellsWf_mono h3 (by omega)
      · rename_i hv
        rw [BitVec.ofNat_eq_ofNat] at hv
        subst hc
        simp [cellsWf, ha, hv, h3]
    · rename_i hc
      split
      · rename_i hl
        split
        · simp [cellsWf, h1, h2, h3]
        · rename_i hv
          rw [BitVec.ofNat_eq_ofNat] at hv
          simp [cellsWf, ha, hv, h2, h3, Nat.succ_le_of_lt hl]
      · rename_i hl
        simp [cellsWf, h1, h2, ih h3 (by omega)]

/-- The byte written is the byte read. -/
theorem cellsRead_write_same {cs : List Host.Cell} {lo a : Nat} {v : Byte} (h : cellsWf lo cs = true) (ha : lo ≤ a) :
    cellsRead (cellsWrite cs a v) a = v := by
  induction cs generalizing lo with
  | nil =>
    by_cases hv : v = 0#8
    · simp [cellsWrite, hv, cellsRead]
    · simp [cellsWrite, hv, cellsRead]
  | cons c cs ih =>
    simp only [cellsWf, Bool.and_eq_true, decide_eq_true_eq, bne_iff_ne] at h
    obtain ⟨⟨h1, h2⟩, h3⟩ := h
    rw [BitVec.ofNat_eq_ofNat] at h2
    simp only [cellsWrite]
    split
    · rename_i hc
      split
      · rename_i hv
        rw [hv]
        exact cellsRead_lt h3 (by omega)
      · simp [cellsRead]
    · rename_i hc
      split
      · rename_i hl
        split
        · rename_i hv
          simp [cellsRead, hc, hl, hv]
        · simp [cellsRead]
      · rename_i hl
        simp only [cellsRead, hc, hl, if_false]
        exact ih h3 (by omega)

/-- A write leaves every other byte alone. -/
theorem cellsRead_write_other {cs : List Host.Cell} {lo a b : Nat} {v : Byte} (h : cellsWf lo cs = true) (hab : b ≠ a) :
    cellsRead (cellsWrite cs a v) b = cellsRead cs b := by
  induction cs generalizing lo with
  | nil =>
    by_cases hv : v = 0#8
    · simp [cellsWrite, hv]
    · simp [cellsWrite, hv, cellsRead, Ne.symm hab]
  | cons c cs ih =>
    simp only [cellsWf, Bool.and_eq_true, decide_eq_true_eq, bne_iff_ne] at h
    obtain ⟨⟨h1, h2⟩, h3⟩ := h
    rw [BitVec.ofNat_eq_ofNat] at h2
    simp only [cellsWrite]
    split
    · rename_i hc
      have hcb : ¬ c.1 = b := by omega
      split
      · simp only [cellsRead, hcb, if_false]
        split
        · rename_i hl
          exact cellsRead_lt h3 (by omega)
        · rfl
      · have hab' : ¬ a = b := fun h => hab h.symm
        simp only [cellsRead, hab', hcb, if_false]
        rw [hc]
    · rename_i hc
      split
      · rename_i hl
        split
        · rfl
        · have hab' : ¬ a = b := fun h => hab h.symm
          simp only [cellsRead, hab', if_false]
          split
          · rename_i hb
            have h4 : ¬ c.1 = b := by omega
            have h5 : b < c.1 := by omega
            simp [h4, h5]
          · rfl
      · rename_i hl
        simp only [cellsRead]
        rw [ih h3]

/-! ## Memories -/

theorem Memory.wf_write {m : Memory} (h : m.wf = true) (a : Nat) (v : Byte) : (m.write a v).wf = true :=
  cellsWrite_wf (lo := 0) h (Nat.zero_le a)

theorem Memory.read_write_same {m : Memory} (h : m.wf = true) (a : Nat) (v : Byte) : (m.write a v).read a = v :=
  cellsRead_write_same (lo := 0) h (Nat.zero_le a)

theorem Memory.read_write_other {m : Memory} (h : m.wf = true) {a b : Nat} (v : Byte) (hab : b ≠ a) : (m.write a v).read b = m.read b :=
  cellsRead_write_other (lo := 0) h hab

theorem Memory.wf_empty : Memory.empty.wf = true := rfl

theorem Memory.wf_writeN {m : Memory} (h : m.wf = true) (a : Nat) (bs : List Byte) : (m.writeN a bs).wf = true := by
  induction bs generalizing m a with
  | nil => exact h
  | cons b bs ih => exact ih (Memory.wf_write h a b) (a + 1)

/-- Bytes outside those written are as they were. -/
theorem Memory.read_writeN_other {m : Memory} (h : m.wf = true) (a : Nat) (bs : List Byte) {b : Nat} (hb : b < a ∨ a + bs.length ≤ b) :
    (m.writeN a bs).read b = m.read b := by
  induction bs generalizing m a with
  | nil => rfl
  | cons x bs ih =>
    simp only [List.length_cons] at hb
    simp only [Memory.writeN]
    rw [ih (Memory.wf_write h a x) (a + 1) (by omega), Memory.read_write_other h x (by omega)]

/-- The bytes written are the bytes read. -/
theorem Memory.read_writeN {m : Memory} (h : m.wf = true) (a : Nat) (bs : List Byte) (i : Nat) (hi : i < bs.length) :
    (m.writeN a bs).read (a + i) = bs[i] := by
  induction bs generalizing m a i with
  | nil => exact absurd hi (Nat.not_lt_zero i)
  | cons x bs ih =>
    simp only [Memory.writeN]
    cases i with
    | zero =>
      simp only [Nat.add_zero, List.getElem_cons_zero]
      rw [Memory.read_writeN_other (Memory.wf_write h a x) (a + 1) bs (by omega), Memory.read_write_same h]
    | succ i =>
      have := ih (Memory.wf_write h a x) (a + 1) i (by simpa using hi)
      rw [show a + (i + 1) = a + 1 + i by omega, this]
      simp

theorem cellsWf_filter {cs : List Host.Cell} {lo : Nat} (f : Host.Cell → Bool) (h : cellsWf lo cs = true) :
    cellsWf lo (cs.filter f) = true := by
  induction cs generalizing lo with
  | nil => rfl
  | cons c cs ih =>
    simp only [cellsWf, Bool.and_eq_true, decide_eq_true_eq, bne_iff_ne] at h
    obtain ⟨⟨h1, h2⟩, h3⟩ := h
    rw [BitVec.ofNat_eq_ofNat] at h2
    simp only [List.filter_cons]
    split
    · simp [cellsWf, h1, h2, ih h3]
    · exact cellsWf_mono (ih h3) (by omega)

theorem Memory.wf_clear {m : Memory} (h : m.wf = true) (lo hi : Nat) : (m.clear lo hi).wf = true := cellsWf_filter _ h

theorem Memory.length_readN (m : Memory) (a n : Nat) : (m.readN a n).length = n := by
  induction n generalizing a with
  | zero => rfl
  | succ n ih => simp [Memory.readN, ih]

/-! ## HBM -/

theorem State.wf_physWriteByte {s : State} (h : s.mem.wf = true) (pa : Nat) (v : Byte) : (s.physWriteByte pa v).mem.wf = true := by
  unfold State.physWriteByte
  split
  · exact Memory.wf_write h _ _
  · exact h

theorem State.wf_physWrite {s : State} (h : s.mem.wf = true) (pa : Nat) (bs : List Byte) : (s.physWrite pa bs).mem.wf = true := by
  induction bs generalizing s pa with
  | nil => exact h
  | cons b bs ih => exact ih (State.wf_physWriteByte h pa b) (pa + 1)

end Sys2Proof.Machine
end

