-- ==== Sys2Proof/Laws/PerInstr.lean ====
section
/-!
SUPPORT. The family EncodingDefined, for every constructor of Instr: a well-formed thread instruction has as many bytes as its length says
(R69, R72), and any other instruction the one word of a cox instruction, if it has one (R304).
-/
namespace Sys2Proof.Laws

open Sys2Proof.Machine

def EncodingDefined.Statement (i : Instr) : Prop :=
  i.wellFormed = true → (∀ code o, opcodeOf i = some (code, o) → 4 * (encode i).length = lenBytes o.len)
    ∧ (opcodeOf i = none → encode i = (encodeCox i).toList)

theorem packWords_length (f : Machine.Form) (code : Nat) (o : Ops) (h : lenOk f o.len = true) : 4 * (packWords f code o).length = lenBytes o.len := by
  unfold packWords
  cases f <;> cases ho : o.len <;> simp_all [lenOk, lenBytes]

/-- What every instruction has by its words. -/
theorem encoding_defined (i : Instr) : EncodingDefined.Statement i := by
  intro hw
  constructor
  · intro code o ho
    simp only [Instr.wellFormed, ho, wfOps] at hw
    simp only [encode, ho]
    cases hr : Machine.rowOf code o with
    | none => simp [hr] at hw
    | some r =>
      simp only [hr, Bool.and_eq_true] at hw
      exact packWords_length r.form code o hw.1.1
  · intro ho
    simp only [encode, ho]

end Sys2Proof.Laws

theorem Sys2Proof.Laws.EncodingDefined.iadd (o : Ops) : Sys2Proof.Laws.EncodingDefined.Statement (Sys2Proof.Instr.iadd o) := Sys2Proof.Laws.encoding_defined _
theorem Sys2Proof.Laws.EncodingDefined.iaddI (o : Ops) : Sys2Proof.Laws.EncodingDefined.Statement (Sys2Proof.Instr.iaddI o) := Sys2Proof.Laws.encoding_defined _
theorem Sys2Proof.Laws.EncodingDefined.isub (o : Ops) : Sys2Proof.Laws.EncodingDefined.Statement (Sys2Proof.Instr.isub o) := Sys2Proof.Laws.encoding_defined _
theorem Sys2Proof.Laws.EncodingDefined.isubI (o : Ops) : Sys2Proof.Laws.EncodingDefined.Statement (Sys2Proof.Instr.isubI o) := Sys2Proof.Laws.encoding_defined _
theorem Sys2Proof.Laws.EncodingDefined.ineg (o : Ops) : Sys2Proof.Laws.EncodingDefined.Statement (Sys2Proof.Instr.ineg o) := Sys2Proof.Laws.encoding_defined _
theorem Sys2Proof.Laws.EncodingDefined.iadd3 (o : Ops) : Sys2Proof.Laws.EncodingDefined.Statement (Sys2Proof.Instr.iadd3 o) := Sys2Proof.Laws.encoding_defined _
theorem Sys2Proof.Laws.EncodingDefined.imul (o : Ops) : Sys2Proof.Laws.EncodingDefined.Statement (Sys2Proof.Instr.imul o) := Sys2Proof.Laws.encoding_defined _
theorem Sys2Proof.Laws.EncodingDefined.imulI (o : Ops) : Sys2Proof.Laws.EncodingDefined.Statement (Sys2Proof.Instr.imulI o) := Sys2Proof.Laws.encoding_defined _
theorem Sys2Proof.Laws.EncodingDefined.imulh (o : Ops) : Sys2Proof.Laws.EncodingDefined.Statement (Sys2Proof.Instr.imulh o) := Sys2Proof.Laws.encoding_defined _
theorem Sys2Proof.Laws.EncodingDefined.imad (o : Ops) : Sys2Proof.Laws.EncodingDefined.Statement (Sys2Proof.Instr.imad o) := Sys2Proof.Laws.encoding_defined _
theorem Sys2Proof.Laws.EncodingDefined.imadI (o : Ops) : Sys2Proof.Laws.EncodingDefined.Statement (Sys2Proof.Instr.imadI o) := Sys2Proof.Laws.encoding_defined _
theorem Sys2Proof.Laws.EncodingDefined.imadw (o : Ops) : Sys2Proof.Laws.EncodingDefined.Statement (Sys2Proof.Instr.imadw o) := Sys2Proof.Laws.encoding_defined _
theorem Sys2Proof.Laws.EncodingDefined.iadd64 (o : Ops) : Sys2Proof.Laws.EncodingDefined.Statement (Sys2Proof.Instr.iadd64 o) := Sys2Proof.Laws.encoding_defined _
theorem Sys2Proof.Laws.EncodingDefined.isub64 (o : Ops) : Sys2Proof.Laws.EncodingDefined.Statement (Sys2Proof.Instr.isub64 o) := Sys2Proof.Laws.encoding_defined _
theorem Sys2Proof.Laws.EncodingDefined.imad64 (o : Ops) : Sys2Proof.Laws.EncodingDefined.Statement (Sys2Proof.Instr.imad64 o) := Sys2Proof.Laws.encoding_defined _
theorem Sys2Proof.Laws.EncodingDefined.imin (o : Ops) : Sys2Proof.Laws.EncodingDefined.Statement (Sys2Proof.Instr.imin o) := Sys2Proof.Laws.encoding_defined _
theorem Sys2Proof.Laws.EncodingDefined.iminI (o : Ops) : Sys2Proof.Laws.EncodingDefined.Statement (Sys2Proof.Instr.iminI o) := Sys2Proof.Laws.encoding_defined _
theorem Sys2Proof.Laws.EncodingDefined.imax (o : Ops) : Sys2Proof.Laws.EncodingDefined.Statement (Sys2Proof.Instr.imax o) := Sys2Proof.Laws.encoding_defined _
theorem Sys2Proof.Laws.EncodingDefined.imaxI (o : Ops) : Sys2Proof.Laws.EncodingDefined.Statement (Sys2Proof.Instr.imaxI o) := Sys2Proof.Laws.encoding_defined _
theorem Sys2Proof.Laws.EncodingDefined.iabs (o : Ops) : Sys2Proof.Laws.EncodingDefined.Statement (Sys2Proof.Instr.iabs o) := Sys2Proof.Laws.encoding_defined _
theorem Sys2Proof.Laws.EncodingDefined.isad (o : Ops) : Sys2Proof.Laws.EncodingDefined.Statement (Sys2Proof.Instr.isad o) := Sys2Proof.Laws.encoding_defined _
theorem Sys2Proof.Laws.EncodingDefined.and (o : Ops) : Sys2Proof.Laws.EncodingDefined.Statement (Sys2Proof.Instr.and o) := Sys2Proof.Laws.encoding_defined _
theorem Sys2Proof.Laws.EncodingDefined.andI (o : Ops) : Sys2Proof.Laws.EncodingDefined.Statement (Sys2Proof.Instr.andI o) := Sys2Proof.Laws.encoding_defined _
theorem Sys2Proof.Laws.EncodingDefined.or (o : Ops) : Sys2Proof.Laws.EncodingDefined.Statement (Sys2Proof.Instr.or o) := Sys2Proof.Laws.encoding_defined _
theorem Sys2Proof.Laws.EncodingDefined.orI (o : Ops) : Sys2Proof.Laws.EncodingDefined.Statement (Sys2Proof.Instr.orI o) := Sys2Proof.Laws.encoding_defined _
theorem Sys2Proof.Laws.EncodingDefined.xor (o : Ops) : Sys2Proof.Laws.EncodingDefined.Statement (Sys2Proof.Instr.xor o) := Sys2Proof.Laws.encoding_defined _
theorem Sys2Proof.Laws.EncodingDefined.xorI (o : Ops) : Sys2Proof.Laws.EncodingDefined.Statement (Sys2Proof.Instr.xorI o) := Sys2Proof.Laws.encoding_defined _
theorem Sys2Proof.Laws.EncodingDefined.not (o : Ops) : Sys2Proof.Laws.EncodingDefined.Statement (Sys2Proof.Instr.not o) := Sys2Proof.Laws.encoding_defined _
theorem Sys2Proof.Laws.EncodingDefined.andn (o : Ops) : Sys2Proof.Laws.EncodingDefined.Statement (Sys2Proof.Instr.andn o) := Sys2Proof.Laws.encoding_defined _
theorem Sys2Proof.Laws.EncodingDefined.andnI (o : Ops) : Sys2Proof.Laws.EncodingDefined.Statement (Sys2Proof.Instr.andnI o) := Sys2Proof.Laws.encoding_defined _
theorem Sys2Proof.Laws.EncodingDefined.lop3 (o : Ops) : Sys2Proof.Laws.EncodingDefined.Statement (Sys2Proof.Instr.lop3 o) := Sys2Proof.Laws.encoding_defined _
theorem Sys2Proof.Laws.EncodingDefined.shl (o : Ops) : Sys2Proof.Laws.EncodingDefined.Statement (Sys2Proof.Instr.shl o) := Sys2Proof.Laws.encoding_defined _
theorem Sys2Proof.Laws.EncodingDefined.shlI (o : Ops) : Sys2Proof.Laws.EncodingDefined.Statement (Sys2Proof.Instr.shlI o) := Sys2Proof.Laws.encoding_defined _
theorem Sys2Proof.Laws.EncodingDefined.shr (o : Ops) : Sys2Proof.Laws.EncodingDefined.Statement (Sys2Proof.Instr.shr o) := Sys2Proof.Laws.encoding_defined _
theorem Sys2Proof.Laws.EncodingDefined.shrI (o : Ops) : Sys2Proof.Laws.EncodingDefined.Statement (Sys2Proof.Instr.shrI o) := Sys2Proof.Laws.encoding_defined _
theorem Sys2Proof.Laws.EncodingDefined.sar (o : Ops) : Sys2Proof.Laws.EncodingDefined.Statement (Sys2Proof.Instr.sar o) := Sys2Proof.Laws.encoding_defined _
theorem Sys2Proof.Laws.EncodingDefined.sarI (o : Ops) : Sys2Proof.Laws.EncodingDefined.Statement (Sys2Proof.Instr.sarI o) := Sys2Proof.Laws.encoding_defined _
theorem Sys2Proof.Laws.EncodingDefined.shf (o : Ops) : Sys2Proof.Laws.EncodingDefined.Statement (Sys2Proof.Instr.shf o) := Sys2Proof.Laws.encoding_defined _
theorem Sys2Proof.Laws.EncodingDefined.rot (o : Ops) : Sys2Proof.Laws.EncodingDefined.Statement (Sys2Proof.Instr.rot o) := Sys2Proof.Laws.encoding_defined _
theorem Sys2Proof.Laws.EncodingDefined.bfe (o : Ops) : Sys2Proof.Laws.EncodingDefined.Statement (Sys2Proof.Instr.bfe o) := Sys2Proof.Laws.encoding_defined _
theorem Sys2Proof.Laws.EncodingDefined.bfi (o : Ops) : Sys2Proof.Laws.EncodingDefined.Statement (Sys2Proof.Instr.bfi o) := Sys2Proof.Laws.encoding_defined _
theorem Sys2Proof.Laws.EncodingDefined.brev (o : Ops) : Sys2Proof.Laws.EncodingDefined.Statement (Sys2Proof.Instr.brev o) := Sys2Proof.Laws.encoding_defined _
theorem Sys2Proof.Laws.EncodingDefined.popc (o : Ops) : Sys2Proof.Laws.EncodingDefined.Statement (Sys2Proof.Instr.popc o) := Sys2Proof.Laws.encoding_defined _
theorem Sys2Proof.Laws.EncodingDefined.clz (o : Ops) : Sys2Proof.Laws.EncodingDefined.Statement (Sys2Proof.Instr.clz o) := Sys2Proof.Laws.encoding_defined _
theorem Sys2Proof.Laws.EncodingDefined.ctz (o : Ops) : Sys2Proof.Laws.EncodingDefined.Statement (Sys2Proof.Instr.ctz o) := Sys2Proof.Laws.encoding_defined _
theorem Sys2Proof.Laws.EncodingDefined.prmt (o : Ops) : Sys2Proof.Laws.EncodingDefined.Statement (Sys2Proof.Instr.prmt o) := Sys2Proof.Laws.encoding_defined _
theorem Sys2Proof.Laws.EncodingDefined.isetb (o : Ops) : Sys2Proof.Laws.EncodingDefined.Statement (Sys2Proof.Instr.isetb o) := Sys2Proof.Laws.encoding_defined _
theorem Sys2Proof.Laws.EncodingDefined.isetbI (o : Ops) : Sys2Proof.Laws.EncodingDefined.Statement (Sys2Proof.Instr.isetbI o) := Sys2Proof.Laws.encoding_defined _
theorem Sys2Proof.Laws.EncodingDefined.sel (o : Ops) : Sys2Proof.Laws.EncodingDefined.Statement (Sys2Proof.Instr.sel o) := Sys2Proof.Laws.encoding_defined _
theorem Sys2Proof.Laws.EncodingDefined.selI (o : Ops) : Sys2Proof.Laws.EncodingDefined.Statement (Sys2Proof.Instr.selI o) := Sys2Proof.Laws.encoding_defined _
theorem Sys2Proof.Laws.EncodingDefined.mov (o : Ops) : Sys2Proof.Laws.EncodingDefined.Statement (Sys2Proof.Instr.mov o) := Sys2Proof.Laws.encoding_defined _
theorem Sys2Proof.Laws.EncodingDefined.movi (o : Ops) : Sys2Proof.Laws.EncodingDefined.Statement (Sys2Proof.Instr.movi o) := Sys2Proof.Laws.encoding_defined _
theorem Sys2Proof.Laws.EncodingDefined.mov64 (o : Ops) : Sys2Proof.Laws.EncodingDefined.Statement (Sys2Proof.Instr.mov64 o) := Sys2Proof.Laws.encoding_defined _
theorem Sys2Proof.Laws.EncodingDefined.mov64I (o : Ops) : Sys2Proof.Laws.EncodingDefined.Statement (Sys2Proof.Instr.mov64I o) := Sys2Proof.Laws.encoding_defined _
theorem Sys2Proof.Laws.EncodingDefined.lea (o : Ops) : Sys2Proof.Laws.EncodingDefined.Statement (Sys2Proof.Instr.lea o) := Sys2Proof.Laws.encoding_defined _
theorem Sys2Proof.Laws.EncodingDefined.leaI (o : Ops) : Sys2Proof.Laws.EncodingDefined.Statement (Sys2Proof.Instr.leaI o) := Sys2Proof.Laws.encoding_defined _
theorem Sys2Proof.Laws.EncodingDefined.setbit (o : Ops) : Sys2Proof.Laws.EncodingDefined.Statement (Sys2Proof.Instr.setbit o) := Sys2Proof.Laws.encoding_defined _
theorem Sys2Proof.Laws.EncodingDefined.clrbit (o : Ops) : Sys2Proof.Laws.EncodingDefined.Statement (Sys2Proof.Instr.clrbit o) := Sys2Proof.Laws.encoding_defined _
theorem Sys2Proof.Laws.EncodingDefined.bitop (o : Ops) : Sys2Proof.Laws.EncodingDefined.Statement (Sys2Proof.Instr.bitop o) := Sys2Proof.Laws.encoding_defined _
theorem Sys2Proof.Laws.EncodingDefined.fadd (o : Ops) : Sys2Proof.Laws.EncodingDefined.Statement (Sys2Proof.Instr.fadd o) := Sys2Proof.Laws.encoding_defined _
theorem Sys2Proof.Laws.EncodingDefined.faddI (o : Ops) : Sys2Proof.Laws.EncodingDefined.Statement (Sys2Proof.Instr.faddI o) := Sys2Proof.Laws.encoding_defined _
theorem Sys2Proof.Laws.EncodingDefined.fmul (o : Ops) : Sys2Proof.Laws.EncodingDefined.Statement (Sys2Proof.Instr.fmul o) := Sys2Proof.Laws.encoding_defined _
theorem Sys2Proof.Laws.EncodingDefined.fmulI (o : Ops) : Sys2Proof.Laws.EncodingDefined.Statement (Sys2Proof.Instr.fmulI o) := Sys2Proof.Laws.encoding_defined _
theorem Sys2Proof.Laws.EncodingDefined.ffma (o : Ops) : Sys2Proof.Laws.EncodingDefined.Statement (Sys2Proof.Instr.ffma o) := Sys2Proof.Laws.encoding_defined _
theorem Sys2Proof.Laws.EncodingDefined.ffmaI (o : Ops) : Sys2Proof.Laws.EncodingDefined.Statement (Sys2Proof.Instr.ffmaI o) := Sys2Proof.Laws.encoding_defined _
theorem Sys2Proof.Laws.EncodingDefined.fmin (o : Ops) : Sys2Proof.Laws.EncodingDefined.Statement (Sys2Proof.Instr.fmin o) := Sys2Proof.Laws.encoding_defined _
theorem Sys2Proof.Laws.EncodingDefined.fminI (o : Ops) : Sys2Proof.Laws.EncodingDefined.Statement (Sys2Proof.Instr.fminI o) := Sys2Proof.Laws.encoding_defined _
theorem Sys2Proof.Laws.EncodingDefined.fmax (o : Ops) : Sys2Proof.Laws.EncodingDefined.Statement (Sys2Proof.Instr.fmax o) := Sys2Proof.Laws.encoding_defined _
theorem Sys2Proof.Laws.EncodingDefined.fmaxI (o : Ops) : Sys2Proof.Laws.EncodingDefined.Statement (Sys2Proof.Instr.fmaxI o) := Sys2Proof.Laws.encoding_defined _
theorem Sys2Proof.Laws.EncodingDefined.fsetb (o : Ops) : Sys2Proof.Laws.EncodingDefined.Statement (Sys2Proof.Instr.fsetb o) := Sys2Proof.Laws.encoding_defined _
theorem Sys2Proof.Laws.EncodingDefined.fsetbI (o : Ops) : Sys2Proof.Laws.EncodingDefined.Statement (Sys2Proof.Instr.fsetbI o) := Sys2Proof.Laws.encoding_defined _
theorem Sys2Proof.Laws.EncodingDefined.fclass (o : Ops) : Sys2Proof.Laws.EncodingDefined.Statement (Sys2Proof.Instr.fclass o) := Sys2Proof.Laws.encoding_defined _
theorem Sys2Proof.Laws.EncodingDefined.frnd (o : Ops) : Sys2Proof.Laws.EncodingDefined.Statement (Sys2Proof.Instr.frnd o) := Sys2Proof.Laws.encoding_defined _
theorem Sys2Proof.Laws.EncodingDefined.fscale (o : Ops) : Sys2Proof.Laws.EncodingDefined.Statement (Sys2Proof.Instr.fscale o) := Sys2Proof.Laws.encoding_defined _
theorem Sys2Proof.Laws.EncodingDefined.rcp (o : Ops) : Sys2Proof.Laws.EncodingDefined.Statement (Sys2Proof.Instr.rcp o) := Sys2Proof.Laws.encoding_defined _
theorem Sys2Proof.Laws.EncodingDefined.rsq (o : Ops) : Sys2Proof.Laws.EncodingDefined.Statement (Sys2Proof.Instr.rsq o) := Sys2Proof.Laws.encoding_defined _
theorem Sys2Proof.Laws.EncodingDefined.sqrt (o : Ops) : Sys2Proof.Laws.EncodingDefined.Statement (Sys2Proof.Instr.sqrt o) := Sys2Proof.Laws.encoding_defined _
theorem Sys2Proof.Laws.EncodingDefined.ex2 (o : Ops) : Sys2Proof.Laws.EncodingDefined.Statement (Sys2Proof.Instr.ex2 o) := Sys2Proof.Laws.encoding_defined _
theorem Sys2Proof.Laws.EncodingDefined.lg2 (o : Ops) : Sys2Proof.Laws.EncodingDefined.Statement (Sys2Proof.Instr.lg2 o) := Sys2Proof.Laws.encoding_defined _
theorem Sys2Proof.Laws.EncodingDefined.sin (o : Ops) : Sys2Proof.Laws.EncodingDefined.Statement (Sys2Proof.Instr.sin o) := Sys2Proof.Laws.encoding_defined _
theorem Sys2Proof.Laws.EncodingDefined.cos (o : Ops) : Sys2Proof.Laws.EncodingDefined.Statement (Sys2Proof.Instr.cos o) := Sys2Proof.Laws.encoding_defined _
theorem Sys2Proof.Laws.EncodingDefined.tanh (o : Ops) : Sys2Proof.Laws.EncodingDefined.Statement (Sys2Proof.Instr.tanh o) := Sys2Proof.Laws.encoding_defined _
theorem Sys2Proof.Laws.EncodingDefined.idp4 (o : Ops) : Sys2Proof.Laws.EncodingDefined.Statement (Sys2Proof.Instr.idp4 o) := Sys2Proof.Laws.encoding_defined _
theorem Sys2Proof.Laws.EncodingDefined.hadd2 (o : Ops) : Sys2Proof.Laws.EncodingDefined.Statement (Sys2Proof.Instr.hadd2 o) := Sys2Proof.Laws.encoding_defined _
theorem Sys2Proof.Laws.EncodingDefined.hadd2I (o : Ops) : Sys2Proof.Laws.EncodingDefined.Statement (Sys2Proof.Instr.hadd2I o) := Sys2Proof.Laws.encoding_defined _
theorem Sys2Proof.Laws.EncodingDefined.hmul2 (o : Ops) : Sys2Proof.Laws.EncodingDefined.Statement (Sys2Proof.Instr.hmul2 o) := Sys2Proof.Laws.encoding_defined _
theorem Sys2Proof.Laws.EncodingDefined.hmul2I (o : Ops) : Sys2Proof.Laws.EncodingDefined.Statement (Sys2Proof.Instr.hmul2I o) := Sys2Proof.Laws.encoding_defined _
theorem Sys2Proof.Laws.EncodingDefined.hfma2 (o : Ops) : Sys2Proof.Laws.EncodingDefined.Statement (Sys2Proof.Instr.hfma2 o) := Sys2Proof.Laws.encoding_defined _
theorem Sys2Proof.Laws.EncodingDefined.hfma2I (o : Ops) : Sys2Proof.Laws.EncodingDefined.Statement (Sys2Proof.Instr.hfma2I o) := Sys2Proof.Laws.encoding_defined _
theorem Sys2Proof.Laws.EncodingDefined.hmin2 (o : Ops) : Sys2Proof.Laws.EncodingDefined.Statement (Sys2Proof.Instr.hmin2 o) := Sys2Proof.Laws.encoding_defined _
theorem Sys2Proof.Laws.EncodingDefined.hmax2 (o : Ops) : Sys2Proof.Laws.EncodingDefined.Statement (Sys2Proof.Instr.hmax2 o) := Sys2Proof.Laws.encoding_defined _
theorem Sys2Proof.Laws.EncodingDefined.hsetb2 (o : Ops) : Sys2Proof.Laws.EncodingDefined.Statement (Sys2Proof.Instr.hsetb2 o) := Sys2Proof.Laws.encoding_defined _
theorem Sys2Proof.Laws.EncodingDefined.badd2 (o : Ops) : Sys2Proof.Laws.EncodingDefined.Statement (Sys2Proof.Instr.badd2 o) := Sys2Proof.Laws.encoding_defined _
theorem Sys2Proof.Laws.EncodingDefined.badd2I (o : Ops) : Sys2Proof.Laws.EncodingDefined.Statement (Sys2Proof.Instr.badd2I o) := Sys2Proof.Laws.encoding_defined _
theorem Sys2Proof.Laws.EncodingDefined.bmul2 (o : Ops) : Sys2Proof.Laws.EncodingDefined.Statement (Sys2Proof.Instr.bmul2 o) := Sys2Proof.Laws.encoding_defined _
theorem Sys2Proof.Laws.EncodingDefined.bmul2I (o : Ops) : Sys2Proof.Laws.EncodingDefined.Statement (Sys2Proof.Instr.bmul2I o) := Sys2Proof.Laws.encoding_defined _
theorem Sys2Proof.Laws.EncodingDefined.bfma2 (o : Ops) : Sys2Proof.Laws.EncodingDefined.Statement (Sys2Proof.Instr.bfma2 o) := Sys2Proof.Laws.encoding_defined _
theorem Sys2Proof.Laws.EncodingDefined.bfma2I (o : Ops) : Sys2Proof.Laws.EncodingDefined.Statement (Sys2Proof.Instr.bfma2I o) := Sys2Proof.Laws.encoding_defined _
theorem Sys2Proof.Laws.EncodingDefined.dadd (o : Ops) : Sys2Proof.Laws.EncodingDefined.Statement (Sys2Proof.Instr.dadd o) := Sys2Proof.Laws.encoding_defined _
theorem Sys2Proof.Laws.EncodingDefined.dmul (o : Ops) : Sys2Proof.Laws.EncodingDefined.Statement (Sys2Proof.Instr.dmul o) := Sys2Proof.Laws.encoding_defined _
theorem Sys2Proof.Laws.EncodingDefined.dfma (o : Ops) : Sys2Proof.Laws.EncodingDefined.Statement (Sys2Proof.Instr.dfma o) := Sys2Proof.Laws.encoding_defined _
theorem Sys2Proof.Laws.EncodingDefined.dmin (o : Ops) : Sys2Proof.Laws.EncodingDefined.Statement (Sys2Proof.Instr.dmin o) := Sys2Proof.Laws.encoding_defined _
theorem Sys2Proof.Laws.EncodingDefined.dmax (o : Ops) : Sys2Proof.Laws.EncodingDefined.Statement (Sys2Proof.Instr.dmax o) := Sys2Proof.Laws.encoding_defined _
theorem Sys2Proof.Laws.EncodingDefined.dsetb (o : Ops) : Sys2Proof.Laws.EncodingDefined.Statement (Sys2Proof.Instr.dsetb o) := Sys2Proof.Laws.encoding_defined _
theorem Sys2Proof.Laws.EncodingDefined.cvt (o : Ops) : Sys2Proof.Laws.EncodingDefined.Statement (Sys2Proof.Instr.cvt o) := Sys2Proof.Laws.encoding_defined _
theorem Sys2Proof.Laws.EncodingDefined.cvtpk (o : Ops) : Sys2Proof.Laws.EncodingDefined.Statement (Sys2Proof.Instr.cvtpk o) := Sys2Proof.Laws.encoding_defined _
theorem Sys2Proof.Laws.EncodingDefined.cvts (o : Ops) : Sys2Proof.Laws.EncodingDefined.Statement (Sys2Proof.Instr.cvts o) := Sys2Proof.Laws.encoding_defined _
theorem Sys2Proof.Laws.EncodingDefined.shfl (o : Ops) : Sys2Proof.Laws.EncodingDefined.Statement (Sys2Proof.Instr.shfl o) := Sys2Proof.Laws.encoding_defined _
theorem Sys2Proof.Laws.EncodingDefined.vote (o : Ops) : Sys2Proof.Laws.EncodingDefined.Statement (Sys2Proof.Instr.vote o) := Sys2Proof.Laws.encoding_defined _
theorem Sys2Proof.Laws.EncodingDefined.redux (o : Ops) : Sys2Proof.Laws.EncodingDefined.Statement (Sys2Proof.Instr.redux o) := Sys2Proof.Laws.encoding_defined _
theorem Sys2Proof.Laws.EncodingDefined.elect (o : Ops) : Sys2Proof.Laws.EncodingDefined.Statement (Sys2Proof.Instr.elect o) := Sys2Proof.Laws.encoding_defined _
theorem Sys2Proof.Laws.EncodingDefined.bra (o : Ops) : Sys2Proof.Laws.EncodingDefined.Statement (Sys2Proof.Instr.bra o) := Sys2Proof.Laws.encoding_defined _
theorem Sys2Proof.Laws.EncodingDefined.brx (o : Ops) : Sys2Proof.Laws.EncodingDefined.Statement (Sys2Proof.Instr.brx o) := Sys2Proof.Laws.encoding_defined _
theorem Sys2Proof.Laws.EncodingDefined.call (o : Ops) : Sys2Proof.Laws.EncodingDefined.Statement (Sys2Proof.Instr.call o) := Sys2Proof.Laws.encoding_defined _
theorem Sys2Proof.Laws.EncodingDefined.callx (o : Ops) : Sys2Proof.Laws.EncodingDefined.Statement (Sys2Proof.Instr.callx o) := Sys2Proof.Laws.encoding_defined _
theorem Sys2Proof.Laws.EncodingDefined.ret (o : Ops) : Sys2Proof.Laws.EncodingDefined.Statement (Sys2Proof.Instr.ret o) := Sys2Proof.Laws.encoding_defined _
theorem Sys2Proof.Laws.EncodingDefined.exit (o : Ops) : Sys2Proof.Laws.EncodingDefined.Statement (Sys2Proof.Instr.exit o) := Sys2Proof.Laws.encoding_defined _
theorem Sys2Proof.Laws.EncodingDefined.meet (o : Ops) : Sys2Proof.Laws.EncodingDefined.Statement (Sys2Proof.Instr.meet o) := Sys2Proof.Laws.encoding_defined _
theorem Sys2Proof.Laws.EncodingDefined.region (o : Ops) : Sys2Proof.Laws.EncodingDefined.Statement (Sys2Proof.Instr.region o) := Sys2Proof.Laws.encoding_defined _
theorem Sys2Proof.Laws.EncodingDefined.nop (o : Ops) : Sys2Proof.Laws.EncodingDefined.Statement (Sys2Proof.Instr.nop o) := Sys2Proof.Laws.encoding_defined _
theorem Sys2Proof.Laws.EncodingDefined.trap (o : Ops) : Sys2Proof.Laws.EncodingDefined.Statement (Sys2Proof.Instr.trap o) := Sys2Proof.Laws.encoding_defined _
theorem Sys2Proof.Laws.EncodingDefined.resume (o : Ops) : Sys2Proof.Laws.EncodingDefined.Statement (Sys2Proof.Instr.resume o) := Sys2Proof.Laws.encoding_defined _
theorem Sys2Proof.Laws.EncodingDefined.clrp (o : Ops) : Sys2Proof.Laws.EncodingDefined.Statement (Sys2Proof.Instr.clrp o) := Sys2Proof.Laws.encoding_defined _
theorem Sys2Proof.Laws.EncodingDefined.ld (o : Ops) : Sys2Proof.Laws.EncodingDefined.Statement (Sys2Proof.Instr.ld o) := Sys2Proof.Laws.encoding_defined _
theorem Sys2Proof.Laws.EncodingDefined.st (o : Ops) : Sys2Proof.Laws.EncodingDefined.Statement (Sys2Proof.Instr.st o) := Sys2Proof.Laws.encoding_defined _
theorem Sys2Proof.Laws.EncodingDefined.ldt (o : Ops) : Sys2Proof.Laws.EncodingDefined.Statement (Sys2Proof.Instr.ldt o) := Sys2Proof.Laws.encoding_defined _
theorem Sys2Proof.Laws.EncodingDefined.pref (o : Ops) : Sys2Proof.Laws.EncodingDefined.Statement (Sys2Proof.Instr.pref o) := Sys2Proof.Laws.encoding_defined _
theorem Sys2Proof.Laws.EncodingDefined.atom (o : Ops) : Sys2Proof.Laws.EncodingDefined.Statement (Sys2Proof.Instr.atom o) := Sys2Proof.Laws.encoding_defined _
theorem Sys2Proof.Laws.EncodingDefined.red (o : Ops) : Sys2Proof.Laws.EncodingDefined.Statement (Sys2Proof.Instr.red o) := Sys2Proof.Laws.encoding_defined _
theorem Sys2Proof.Laws.EncodingDefined.match (o : Ops) : Sys2Proof.Laws.EncodingDefined.Statement (Sys2Proof.Instr.match o) := Sys2Proof.Laws.encoding_defined _
theorem Sys2Proof.Laws.EncodingDefined.fence (o : Ops) : Sys2Proof.Laws.EncodingDefined.Statement (Sys2Proof.Instr.fence o) := Sys2Proof.Laws.encoding_defined _
theorem Sys2Proof.Laws.EncodingDefined.barArr (o : Ops) : Sys2Proof.Laws.EncodingDefined.Statement (Sys2Proof.Instr.barArr o) := Sys2Proof.Laws.encoding_defined _
theorem Sys2Proof.Laws.EncodingDefined.barWait (o : Ops) : Sys2Proof.Laws.EncodingDefined.Statement (Sys2Proof.Instr.barWait o) := Sys2Proof.Laws.encoding_defined _
theorem Sys2Proof.Laws.EncodingDefined.barSync (o : Ops) : Sys2Proof.Laws.EncodingDefined.Statement (Sys2Proof.Instr.barSync o) := Sys2Proof.Laws.encoding_defined _
theorem Sys2Proof.Laws.EncodingDefined.ctrwait (o : Ops) : Sys2Proof.Laws.EncodingDefined.Statement (Sys2Proof.Instr.ctrwait o) := Sys2Proof.Laws.encoding_defined _
theorem Sys2Proof.Laws.EncodingDefined.oclaim (o : Ops) : Sys2Proof.Laws.EncodingDefined.Statement (Sys2Proof.Instr.oclaim o) := Sys2Proof.Laws.encoding_defined _
theorem Sys2Proof.Laws.EncodingDefined.orelease (o : Ops) : Sys2Proof.Laws.EncodingDefined.Statement (Sys2Proof.Instr.orelease o) := Sys2Proof.Laws.encoding_defined _
theorem Sys2Proof.Laws.EncodingDefined.ohdr (o : Ops) : Sys2Proof.Laws.EncodingDefined.Statement (Sys2Proof.Instr.ohdr o) := Sys2Proof.Laws.encoding_defined _
theorem Sys2Proof.Laws.EncodingDefined.old (o : Ops) : Sys2Proof.Laws.EncodingDefined.Statement (Sys2Proof.Instr.old o) := Sys2Proof.Laws.encoding_defined _
theorem Sys2Proof.Laws.EncodingDefined.aclaim (o : Ops) : Sys2Proof.Laws.EncodingDefined.Statement (Sys2Proof.Instr.aclaim o) := Sys2Proof.Laws.encoding_defined _
theorem Sys2Proof.Laws.EncodingDefined.arelease (o : Ops) : Sys2Proof.Laws.EncodingDefined.Statement (Sys2Proof.Instr.arelease o) := Sys2Proof.Laws.encoding_defined _
theorem Sys2Proof.Laws.EncodingDefined.azero (o : Ops) : Sys2Proof.Laws.EncodingDefined.Statement (Sys2Proof.Instr.azero o) := Sys2Proof.Laws.encoding_defined _
theorem Sys2Proof.Laws.EncodingDefined.ald (o : Ops) : Sys2Proof.Laws.EncodingDefined.Statement (Sys2Proof.Instr.ald o) := Sys2Proof.Laws.encoding_defined _
theorem Sys2Proof.Laws.EncodingDefined.ast (o : Ops) : Sys2Proof.Laws.EncodingDefined.Statement (Sys2Proof.Instr.ast o) := Sys2Proof.Laws.encoding_defined _
theorem Sys2Proof.Laws.EncodingDefined.ard (o : Ops) : Sys2Proof.Laws.EncodingDefined.Statement (Sys2Proof.Instr.ard o) := Sys2Proof.Laws.encoding_defined _
theorem Sys2Proof.Laws.EncodingDefined.mma (o : Ops) : Sys2Proof.Laws.EncodingDefined.Statement (Sys2Proof.Instr.mma o) := Sys2Proof.Laws.encoding_defined _
theorem Sys2Proof.Laws.EncodingDefined.mmas (o : Ops) : Sys2Proof.Laws.EncodingDefined.Statement (Sys2Proof.Instr.mmas o) := Sys2Proof.Laws.encoding_defined _
theorem Sys2Proof.Laws.EncodingDefined.mmag (o : Ops) : Sys2Proof.Laws.EncodingDefined.Statement (Sys2Proof.Instr.mmag o) := Sys2Proof.Laws.encoding_defined _
theorem Sys2Proof.Laws.EncodingDefined.mmags (o : Ops) : Sys2Proof.Laws.EncodingDefined.Statement (Sys2Proof.Instr.mmags o) := Sys2Proof.Laws.encoding_defined _
theorem Sys2Proof.Laws.EncodingDefined.xcopy (o : Ops) : Sys2Proof.Laws.EncodingDefined.Statement (Sys2Proof.Instr.xcopy o) := Sys2Proof.Laws.encoding_defined _
theorem Sys2Proof.Laws.EncodingDefined.xloop (o : Ops) : Sys2Proof.Laws.EncodingDefined.Statement (Sys2Proof.Instr.xloop o) := Sys2Proof.Laws.encoding_defined _
theorem Sys2Proof.Laws.EncodingDefined.xgather (o : Ops) : Sys2Proof.Laws.EncodingDefined.Statement (Sys2Proof.Instr.xgather o) := Sys2Proof.Laws.encoding_defined _
theorem Sys2Proof.Laws.EncodingDefined.xscatter (o : Ops) : Sys2Proof.Laws.EncodingDefined.Statement (Sys2Proof.Instr.xscatter o) := Sys2Proof.Laws.encoding_defined _
theorem Sys2Proof.Laws.EncodingDefined.xred (o : Ops) : Sys2Proof.Laws.EncodingDefined.Statement (Sys2Proof.Instr.xred o) := Sys2Proof.Laws.encoding_defined _
theorem Sys2Proof.Laws.EncodingDefined.xfence (o : Ops) : Sys2Proof.Laws.EncodingDefined.Statement (Sys2Proof.Instr.xfence o) := Sys2Proof.Laws.encoding_defined _
theorem Sys2Proof.Laws.EncodingDefined.movs (o : Ops) : Sys2Proof.Laws.EncodingDefined.Statement (Sys2Proof.Instr.movs o) := Sys2Proof.Laws.encoding_defined _
theorem Sys2Proof.Laws.EncodingDefined.movsw (o : Ops) : Sys2Proof.Laws.EncodingDefined.Statement (Sys2Proof.Instr.movsw o) := Sys2Proof.Laws.encoding_defined _
theorem Sys2Proof.Laws.EncodingDefined.yield (o : Ops) : Sys2Proof.Laws.EncodingDefined.Statement (Sys2Proof.Instr.yield o) := Sys2Proof.Laws.encoding_defined _
theorem Sys2Proof.Laws.EncodingDefined.tmark (o : Ops) : Sys2Proof.Laws.EncodingDefined.Statement (Sys2Proof.Instr.tmark o) := Sys2Proof.Laws.encoding_defined _
theorem Sys2Proof.Laws.EncodingDefined.enq (o : Ops) : Sys2Proof.Laws.EncodingDefined.Statement (Sys2Proof.Instr.enq o) := Sys2Proof.Laws.encoding_defined _
theorem Sys2Proof.Laws.EncodingDefined.bkpt (o : Ops) : Sys2Proof.Laws.EncodingDefined.Statement (Sys2Proof.Instr.bkpt o) := Sys2Proof.Laws.encoding_defined _
theorem Sys2Proof.Laws.EncodingDefined.cctl (o : Ops) : Sys2Proof.Laws.EncodingDefined.Statement (Sys2Proof.Instr.cctl o) := Sys2Proof.Laws.encoding_defined _
theorem Sys2Proof.Laws.EncodingDefined.invi (o : Ops) : Sys2Proof.Laws.EncodingDefined.Statement (Sys2Proof.Instr.invi o) := Sys2Proof.Laws.encoding_defined _
theorem Sys2Proof.Laws.EncodingDefined.coxHalt : Sys2Proof.Laws.EncodingDefined.Statement (Sys2Proof.Instr.coxHalt) := Sys2Proof.Laws.encoding_defined _
theorem Sys2Proof.Laws.EncodingDefined.coxLi (rd : BitVec 4) (imm : BitVec 22) : Sys2Proof.Laws.EncodingDefined.Statement (Sys2Proof.Instr.coxLi rd imm) := Sys2Proof.Laws.encoding_defined _
theorem Sys2Proof.Laws.EncodingDefined.coxLih (rd : BitVec 4) (imm : BitVec 16) : Sys2Proof.Laws.EncodingDefined.Statement (Sys2Proof.Instr.coxLih rd imm) := Sys2Proof.Laws.encoding_defined _
theorem Sys2Proof.Laws.EncodingDefined.coxAdd (rd ra rb : BitVec 4) (imm : BitVec 14) : Sys2Proof.Laws.EncodingDefined.Statement (Sys2Proof.Instr.coxAdd rd ra rb imm) := Sys2Proof.Laws.encoding_defined _
theorem Sys2Proof.Laws.EncodingDefined.coxSub (rd ra rb : BitVec 4) : Sys2Proof.Laws.EncodingDefined.Statement (Sys2Proof.Instr.coxSub rd ra rb) := Sys2Proof.Laws.encoding_defined _
theorem Sys2Proof.Laws.EncodingDefined.coxAnd (rd ra rb : BitVec 4) : Sys2Proof.Laws.EncodingDefined.Statement (Sys2Proof.Instr.coxAnd rd ra rb) := Sys2Proof.Laws.encoding_defined _
theorem Sys2Proof.Laws.EncodingDefined.coxOr (rd ra rb : BitVec 4) : Sys2Proof.Laws.EncodingDefined.Statement (Sys2Proof.Instr.coxOr rd ra rb) := Sys2Proof.Laws.encoding_defined _
theorem Sys2Proof.Laws.EncodingDefined.coxXor (rd ra rb : BitVec 4) : Sys2Proof.Laws.EncodingDefined.Statement (Sys2Proof.Instr.coxXor rd ra rb) := Sys2Proof.Laws.encoding_defined _
theorem Sys2Proof.Laws.EncodingDefined.coxShl (rd ra : BitVec 4) (imm : BitVec 14) : Sys2Proof.Laws.EncodingDefined.Statement (Sys2Proof.Instr.coxShl rd ra imm) := Sys2Proof.Laws.encoding_defined _
theorem Sys2Proof.Laws.EncodingDefined.coxShr (rd ra : BitVec 4) (imm : BitVec 14) : Sys2Proof.Laws.EncodingDefined.Statement (Sys2Proof.Instr.coxShr rd ra imm) := Sys2Proof.Laws.encoding_defined _
theorem Sys2Proof.Laws.EncodingDefined.coxMul (rd ra rb : BitVec 4) : Sys2Proof.Laws.EncodingDefined.Statement (Sys2Proof.Instr.coxMul rd ra rb) := Sys2Proof.Laws.encoding_defined _
theorem Sys2Proof.Laws.EncodingDefined.coxMinu (rd ra rb : BitVec 4) : Sys2Proof.Laws.EncodingDefined.Statement (Sys2Proof.Instr.coxMinu rd ra rb) := Sys2Proof.Laws.encoding_defined _
theorem Sys2Proof.Laws.EncodingDefined.coxPkr (rd : BitVec 4) (imm : BitVec 14) : Sys2Proof.Laws.EncodingDefined.Statement (Sys2Proof.Instr.coxPkr rd imm) := Sys2Proof.Laws.encoding_defined _
theorem Sys2Proof.Laws.EncodingDefined.coxPkw (ra : BitVec 4) (imm : BitVec 14) : Sys2Proof.Laws.EncodingDefined.Statement (Sys2Proof.Instr.coxPkw ra imm) := Sys2Proof.Laws.encoding_defined _
theorem Sys2Proof.Laws.EncodingDefined.coxLdw (rd ra : BitVec 4) (w : BitVec 3) (imm : BitVec 15) : Sys2Proof.Laws.EncodingDefined.Statement (Sys2Proof.Instr.coxLdw rd ra w imm) := Sys2Proof.Laws.encoding_defined _
theorem Sys2Proof.Laws.EncodingDefined.coxStw (rd ra : BitVec 4) (w : BitVec 3) (imm : BitVec 15) : Sys2Proof.Laws.EncodingDefined.Statement (Sys2Proof.Instr.coxStw rd ra w imm) := Sys2Proof.Laws.encoding_defined _
theorem Sys2Proof.Laws.EncodingDefined.coxAtadd (rd ra : BitVec 4) (w : BitVec 3) (imm : BitVec 15) : Sys2Proof.Laws.EncodingDefined.Statement (Sys2Proof.Instr.coxAtadd rd ra w imm) := Sys2Proof.Laws.encoding_defined _
theorem Sys2Proof.Laws.EncodingDefined.coxBeq (ra rb : BitVec 4) (imm : BitVec 14) : Sys2Proof.Laws.EncodingDefined.Statement (Sys2Proof.Instr.coxBeq ra rb imm) := Sys2Proof.Laws.encoding_defined _
theorem Sys2Proof.Laws.EncodingDefined.coxBne (ra rb : BitVec 4) (imm : BitVec 14) : Sys2Proof.Laws.EncodingDefined.Statement (Sys2Proof.Instr.coxBne ra rb imm) := Sys2Proof.Laws.encoding_defined _
theorem Sys2Proof.Laws.EncodingDefined.coxBltu (ra rb : BitVec 4) (imm : BitVec 14) : Sys2Proof.Laws.EncodingDefined.Statement (Sys2Proof.Instr.coxBltu ra rb imm) := Sys2Proof.Laws.encoding_defined _
theorem Sys2Proof.Laws.EncodingDefined.coxLoop (imm : BitVec 14) : Sys2Proof.Laws.EncodingDefined.Statement (Sys2Proof.Instr.coxLoop imm) := Sys2Proof.Laws.encoding_defined _
theorem Sys2Proof.Laws.EncodingDefined.coxEndl : Sys2Proof.Laws.EncodingDefined.Statement (Sys2Proof.Instr.coxEndl) := Sys2Proof.Laws.encoding_defined _
theorem Sys2Proof.Laws.EncodingDefined.coxAct : Sys2Proof.Laws.EncodingDefined.Statement (Sys2Proof.Instr.coxAct) := Sys2Proof.Laws.encoding_defined _
theorem Sys2Proof.Laws.EncodingDefined.coxNotify (ra : BitVec 4) : Sys2Proof.Laws.EncodingDefined.Statement (Sys2Proof.Instr.coxNotify ra) := Sys2Proof.Laws.encoding_defined _
theorem Sys2Proof.Laws.EncodingDefined.coxTime (rd : BitVec 4) : Sys2Proof.Laws.EncodingDefined.Statement (Sys2Proof.Instr.coxTime rd) := Sys2Proof.Laws.encoding_defined _
theorem Sys2Proof.Laws.EncodingDefined.coxSeq (rd : BitVec 4) : Sys2Proof.Laws.EncodingDefined.Statement (Sys2Proof.Instr.coxSeq rd) := Sys2Proof.Laws.encoding_defined _
theorem Sys2Proof.Laws.EncodingDefined.quarterIssue (core quarter : Nat) (defer : Bool) : Sys2Proof.Laws.EncodingDefined.Statement (Sys2Proof.Instr.quarterIssue core quarter defer) := Sys2Proof.Laws.encoding_defined _
theorem Sys2Proof.Laws.EncodingDefined.accessComplete (t : TRef) (id : Nat) : Sys2Proof.Laws.EncodingDefined.Statement (Sys2Proof.Instr.accessComplete t id) := Sys2Proof.Laws.encoding_defined _
theorem Sys2Proof.Laws.EncodingDefined.resultWritten (t : TRef) (id : Nat) : Sys2Proof.Laws.EncodingDefined.Statement (Sys2Proof.Instr.resultWritten t id) := Sys2Proof.Laws.encoding_defined _
theorem Sys2Proof.Laws.EncodingDefined.meetTargetExpiry (t : TRef) : Sys2Proof.Laws.EncodingDefined.Statement (Sys2Proof.Instr.meetTargetExpiry t) := Sys2Proof.Laws.encoding_defined _
theorem Sys2Proof.Laws.EncodingDefined.yieldExpiry (t : TRef) : Sys2Proof.Laws.EncodingDefined.Statement (Sys2Proof.Instr.yieldExpiry t) := Sys2Proof.Laws.encoding_defined _
theorem Sys2Proof.Laws.EncodingDefined.trapDelivery (t : TRef) : Sys2Proof.Laws.EncodingDefined.Statement (Sys2Proof.Instr.trapDelivery t) := Sys2Proof.Laws.encoding_defined _
theorem Sys2Proof.Laws.EncodingDefined.barrierPhaseComplete (b : BarRef) : Sys2Proof.Laws.EncodingDefined.Statement (Sys2Proof.Instr.barrierPhaseComplete b) := Sys2Proof.Laws.encoding_defined _
theorem Sys2Proof.Laws.EncodingDefined.ctrwaitReread (t : TRef) : Sys2Proof.Laws.EncodingDefined.Statement (Sys2Proof.Instr.ctrwaitReread t) := Sys2Proof.Laws.encoding_defined _
theorem Sys2Proof.Laws.EncodingDefined.blockEnd (b : BRef) : Sys2Proof.Laws.EncodingDefined.Statement (Sys2Proof.Instr.blockEnd b) := Sys2Proof.Laws.encoding_defined _
theorem Sys2Proof.Laws.EncodingDefined.enqRetry (t : TRef) : Sys2Proof.Laws.EncodingDefined.Statement (Sys2Proof.Instr.enqRetry t) := Sys2Proof.Laws.encoding_defined _
theorem Sys2Proof.Laws.EncodingDefined.enqPublish (t : TRef) : Sys2Proof.Laws.EncodingDefined.Statement (Sys2Proof.Instr.enqPublish t) := Sys2Proof.Laws.encoding_defined _
theorem Sys2Proof.Laws.EncodingDefined.claimGrant (core id : Nat) : Sys2Proof.Laws.EncodingDefined.Statement (Sys2Proof.Instr.claimGrant core id) := Sys2Proof.Laws.encoding_defined _
theorem Sys2Proof.Laws.EncodingDefined.resourceReleaseDone (core id : Nat) : Sys2Proof.Laws.EncodingDefined.Statement (Sys2Proof.Instr.resourceReleaseDone core id) := Sys2Proof.Laws.encoding_defined _
theorem Sys2Proof.Laws.EncodingDefined.dataMoveComplete (core id : Nat) : Sys2Proof.Laws.EncodingDefined.Statement (Sys2Proof.Instr.dataMoveComplete core id) := Sys2Proof.Laws.encoding_defined _
theorem Sys2Proof.Laws.EncodingDefined.productAccept (core id : Nat) : Sys2Proof.Laws.EncodingDefined.Statement (Sys2Proof.Instr.productAccept core id) := Sys2Proof.Laws.encoding_defined _
theorem Sys2Proof.Laws.EncodingDefined.productComplete (core id : Nat) : Sys2Proof.Laws.EncodingDefined.Statement (Sys2Proof.Instr.productComplete core id) := Sys2Proof.Laws.encoding_defined _
theorem Sys2Proof.Laws.EncodingDefined.transferCommandBegin (b : BRef) (queue : Nat) : Sys2Proof.Laws.EncodingDefined.Statement (Sys2Proof.Instr.transferCommandBegin b queue) := Sys2Proof.Laws.encoding_defined _
theorem Sys2Proof.Laws.EncodingDefined.transferChunk (b : BRef) (id slice : Nat) : Sys2Proof.Laws.EncodingDefined.Statement (Sys2Proof.Instr.transferChunk b id slice) := Sys2Proof.Laws.encoding_defined _
theorem Sys2Proof.Laws.EncodingDefined.transferCommandComplete (b : BRef) (id : Nat) : Sys2Proof.Laws.EncodingDefined.Statement (Sys2Proof.Instr.transferCommandComplete b id) := Sys2Proof.Laws.encoding_defined _
theorem Sys2Proof.Laws.EncodingDefined.xloopIteration (b : BRef) (id : Nat) : Sys2Proof.Laws.EncodingDefined.Statement (Sys2Proof.Instr.xloopIteration b id) := Sys2Proof.Laws.encoding_defined _
theorem Sys2Proof.Laws.EncodingDefined.xredChunkCommit (b : BRef) (id chunk : Nat) : Sys2Proof.Laws.EncodingDefined.Statement (Sys2Proof.Instr.xredChunkCommit b id chunk) := Sys2Proof.Laws.encoding_defined _
theorem Sys2Proof.Laws.EncodingDefined.walkStep (hub : Nat) : Sys2Proof.Laws.EncodingDefined.Statement (Sys2Proof.Instr.walkStep hub) := Sys2Proof.Laws.encoding_defined _
theorem Sys2Proof.Laws.EncodingDefined.sliceArbiterRun : Sys2Proof.Laws.EncodingDefined.Statement (Sys2Proof.Instr.sliceArbiterRun) := Sys2Proof.Laws.encoding_defined _
theorem Sys2Proof.Laws.EncodingDefined.yieldDeadline (g : Nat) : Sys2Proof.Laws.EncodingDefined.Statement (Sys2Proof.Instr.yieldDeadline g) := Sys2Proof.Laws.encoding_defined _
theorem Sys2Proof.Laws.EncodingDefined.preemptStopComplete (g : Nat) : Sys2Proof.Laws.EncodingDefined.Statement (Sys2Proof.Instr.preemptStopComplete g) := Sys2Proof.Laws.encoding_defined _
theorem Sys2Proof.Laws.EncodingDefined.saveComplete (g : Nat) : Sys2Proof.Laws.EncodingDefined.Statement (Sys2Proof.Instr.saveComplete g) := Sys2Proof.Laws.encoding_defined _
theorem Sys2Proof.Laws.EncodingDefined.restoreComplete (g : Nat) : Sys2Proof.Laws.EncodingDefined.Statement (Sys2Proof.Instr.restoreComplete g) := Sys2Proof.Laws.encoding_defined _
theorem Sys2Proof.Laws.EncodingDefined.launchAccept (x : CoxId) : Sys2Proof.Laws.EncodingDefined.Statement (Sys2Proof.Instr.launchAccept x) := Sys2Proof.Laws.encoding_defined _
theorem Sys2Proof.Laws.EncodingDefined.beaconSend (hub : Nat) : Sys2Proof.Laws.EncodingDefined.Statement (Sys2Proof.Instr.beaconSend hub) := Sys2Proof.Laws.encoding_defined _
theorem Sys2Proof.Laws.EncodingDefined.beaconReceive (hub : Nat) (hw : Word) : Sys2Proof.Laws.EncodingDefined.Statement (Sys2Proof.Instr.beaconReceive hub hw) := Sys2Proof.Laws.encoding_defined _
theorem Sys2Proof.Laws.EncodingDefined.coreFloorRaise (core : Nat) : Sys2Proof.Laws.EncodingDefined.Statement (Sys2Proof.Instr.coreFloorRaise core) := Sys2Proof.Laws.encoding_defined _
theorem Sys2Proof.Laws.EncodingDefined.sweeperVisit (line : LineId) : Sys2Proof.Laws.EncodingDefined.Statement (Sys2Proof.Instr.sweeperVisit line) := Sys2Proof.Laws.encoding_defined _
theorem Sys2Proof.Laws.EncodingDefined.coreStampSweep (core : Nat) : Sys2Proof.Laws.EncodingDefined.Statement (Sys2Proof.Instr.coreStampSweep core) := Sys2Proof.Laws.encoding_defined _
theorem Sys2Proof.Laws.EncodingDefined.l1Eviction (core : Nat) (line : LineId) : Sys2Proof.Laws.EncodingDefined.Statement (Sys2Proof.Instr.l1Eviction core line) := Sys2Proof.Laws.encoding_defined _
theorem Sys2Proof.Laws.EncodingDefined.l3Eviction (line : LineId) : Sys2Proof.Laws.EncodingDefined.Statement (Sys2Proof.Instr.l3Eviction line) := Sys2Proof.Laws.encoding_defined _
theorem Sys2Proof.Laws.EncodingDefined.spillEntryFree (t : TRef) (id : Nat) : Sys2Proof.Laws.EncodingDefined.Statement (Sys2Proof.Instr.spillEntryFree t id) := Sys2Proof.Laws.encoding_defined _
theorem Sys2Proof.Laws.EncodingDefined.spillWaitTimeout (t : TRef) (id : Nat) : Sys2Proof.Laws.EncodingDefined.Statement (Sys2Proof.Instr.spillWaitTimeout t id) := Sys2Proof.Laws.encoding_defined _
theorem Sys2Proof.Laws.EncodingDefined.throttleScoreHalve (core quarter : Nat) : Sys2Proof.Laws.EncodingDefined.Statement (Sys2Proof.Instr.throttleScoreHalve core quarter) := Sys2Proof.Laws.encoding_defined _
theorem Sys2Proof.Laws.EncodingDefined.peerRequest (r : PeerReq) : Sys2Proof.Laws.EncodingDefined.Statement (Sys2Proof.Instr.peerRequest r) := Sys2Proof.Laws.encoding_defined _
theorem Sys2Proof.Laws.EncodingDefined.peerResponse (id : Nat) (err : Nat) (data : DWord) (hi : DWord) (o sc pa : Word) (dropped : Option Nat) (race : Option PeerRace) : Sys2Proof.Laws.EncodingDefined.Statement (Sys2Proof.Instr.peerResponse id err data hi o sc pa dropped race) := Sys2Proof.Laws.encoding_defined _
theorem Sys2Proof.Laws.EncodingDefined.peerRequestTimeout (id : Nat) : Sys2Proof.Laws.EncodingDefined.Statement (Sys2Proof.Instr.peerRequestTimeout id) := Sys2Proof.Laws.encoding_defined _
theorem Sys2Proof.Laws.EncodingDefined.xredChunkTimeout (b : BRef) (id chunk : Nat) : Sys2Proof.Laws.EncodingDefined.Statement (Sys2Proof.Instr.xredChunkTimeout b id chunk) := Sys2Proof.Laws.encoding_defined _
theorem Sys2Proof.Laws.EncodingDefined.flitReceive (port : Nat) (f : Flit) : Sys2Proof.Laws.EncodingDefined.Statement (Sys2Proof.Instr.flitReceive port f) := Sys2Proof.Laws.encoding_defined _
theorem Sys2Proof.Laws.EncodingDefined.ackTimeout (port : Nat) : Sys2Proof.Laws.EncodingDefined.Statement (Sys2Proof.Instr.ackTimeout port) := Sys2Proof.Laws.encoding_defined _
theorem Sys2Proof.Laws.EncodingDefined.signalLoss (port : Nat) : Sys2Proof.Laws.EncodingDefined.Statement (Sys2Proof.Instr.signalLoss port) := Sys2Proof.Laws.encoding_defined _
theorem Sys2Proof.Laws.EncodingDefined.portTrained (port : Nat) (peer : BitVec 8) : Sys2Proof.Laws.EncodingDefined.Statement (Sys2Proof.Instr.portTrained port peer) := Sys2Proof.Laws.encoding_defined _
theorem Sys2Proof.Laws.EncodingDefined.portRecoveryTimeout (port : Nat) : Sys2Proof.Laws.EncodingDefined.Statement (Sys2Proof.Instr.portRecoveryTimeout port) := Sys2Proof.Laws.encoding_defined _
theorem Sys2Proof.Laws.EncodingDefined.frontierUpdate (hub : Nat) : Sys2Proof.Laws.EncodingDefined.Statement (Sys2Proof.Instr.frontierUpdate hub) := Sys2Proof.Laws.encoding_defined _
theorem Sys2Proof.Laws.EncodingDefined.replayLuTimeout (hub : Nat) (chip : BitVec 8) : Sys2Proof.Laws.EncodingDefined.Statement (Sys2Proof.Instr.replayLuTimeout hub chip) := Sys2Proof.Laws.encoding_defined _
theorem Sys2Proof.Laws.EncodingDefined.debugTrigger (core : Nat) : Sys2Proof.Laws.EncodingDefined.Statement (Sys2Proof.Instr.debugTrigger core) := Sys2Proof.Laws.encoding_defined _
theorem Sys2Proof.Laws.EncodingDefined.stopRecordWrite (b : BRef) : Sys2Proof.Laws.EncodingDefined.Statement (Sys2Proof.Instr.stopRecordWrite b) := Sys2Proof.Laws.encoding_defined _
theorem Sys2Proof.Laws.EncodingDefined.traceDrain (section_ : Nat) : Sys2Proof.Laws.EncodingDefined.Statement (Sys2Proof.Instr.traceDrain section_) := Sys2Proof.Laws.encoding_defined _
theorem Sys2Proof.Laws.EncodingDefined.sectionGate (section_ : Nat) : Sys2Proof.Laws.EncodingDefined.Statement (Sys2Proof.Instr.sectionGate section_) := Sys2Proof.Laws.encoding_defined _
theorem Sys2Proof.Laws.EncodingDefined.traceGateTimeout (section_ : Nat) : Sys2Proof.Laws.EncodingDefined.Statement (Sys2Proof.Instr.traceGateTimeout section_) := Sys2Proof.Laws.encoding_defined _
theorem Sys2Proof.Laws.EncodingDefined.gateFrameWrite (section_ : Nat) : Sys2Proof.Laws.EncodingDefined.Statement (Sys2Proof.Instr.gateFrameWrite section_) := Sys2Proof.Laws.encoding_defined _
theorem Sys2Proof.Laws.EncodingDefined.memoryErrorDetect (section_ unit : Nat) (where_ : Nat) (correctable : Bool) : Sys2Proof.Laws.EncodingDefined.Statement (Sys2Proof.Instr.memoryErrorDetect section_ unit where_ correctable) := Sys2Proof.Laws.encoding_defined _
theorem Sys2Proof.Laws.EncodingDefined.errorRateWindow (section_ : Nat) : Sys2Proof.Laws.EncodingDefined.Statement (Sys2Proof.Instr.errorRateWindow section_) := Sys2Proof.Laws.encoding_defined _
theorem Sys2Proof.Laws.EncodingDefined.pad (x : CoxId) : Sys2Proof.Laws.EncodingDefined.Statement (Sys2Proof.Instr.pad x) := Sys2Proof.Laws.encoding_defined _
theorem Sys2Proof.Laws.EncodingDefined.launch (x : CoxId) : Sys2Proof.Laws.EncodingDefined.Statement (Sys2Proof.Instr.launch x) := Sys2Proof.Laws.encoding_defined _
theorem Sys2Proof.Laws.EncodingDefined.copy (x : CoxId) : Sys2Proof.Laws.EncodingDefined.Statement (Sys2Proof.Instr.copy x) := Sys2Proof.Laws.encoding_defined _
theorem Sys2Proof.Laws.EncodingDefined.counterAdd (x : CoxId) : Sys2Proof.Laws.EncodingDefined.Statement (Sys2Proof.Instr.counterAdd x) := Sys2Proof.Laws.encoding_defined _
theorem Sys2Proof.Laws.EncodingDefined.counterWait (x : CoxId) : Sys2Proof.Laws.EncodingDefined.Statement (Sys2Proof.Instr.counterWait x) := Sys2Proof.Laws.encoding_defined _
theorem Sys2Proof.Laws.EncodingDefined.step (x : CoxId) : Sys2Proof.Laws.EncodingDefined.Statement (Sys2Proof.Instr.step x) := Sys2Proof.Laws.encoding_defined _
theorem Sys2Proof.Laws.EncodingDefined.checkpoint (x : CoxId) : Sys2Proof.Laws.EncodingDefined.Statement (Sys2Proof.Instr.checkpoint x) := Sys2Proof.Laws.encoding_defined _
theorem Sys2Proof.Laws.EncodingDefined.counterWaitSatisfied (x : CoxId) : Sys2Proof.Laws.EncodingDefined.Statement (Sys2Proof.Instr.counterWaitSatisfied x) := Sys2Proof.Laws.encoding_defined _
theorem Sys2Proof.Laws.EncodingDefined.ordWaitSatisfied (x : CoxId) : Sys2Proof.Laws.EncodingDefined.Statement (Sys2Proof.Instr.ordWaitSatisfied x) := Sys2Proof.Laws.encoding_defined _
theorem Sys2Proof.Laws.EncodingDefined.copyChunk (x : CoxId) : Sys2Proof.Laws.EncodingDefined.Statement (Sys2Proof.Instr.copyChunk x) := Sys2Proof.Laws.encoding_defined _
theorem Sys2Proof.Laws.EncodingDefined.checkpointCut (x : CoxId) : Sys2Proof.Laws.EncodingDefined.Statement (Sys2Proof.Instr.checkpointCut x) := Sys2Proof.Laws.encoding_defined _
theorem Sys2Proof.Laws.EncodingDefined.checkpointLineCopy (x : CoxId) : Sys2Proof.Laws.EncodingDefined.Statement (Sys2Proof.Instr.checkpointLineCopy x) := Sys2Proof.Laws.encoding_defined _
theorem Sys2Proof.Laws.EncodingDefined.qwriteWrite (x : CoxId) (v : DWord) : Sys2Proof.Laws.EncodingDefined.Statement (Sys2Proof.Instr.qwriteWrite x v) := Sys2Proof.Laws.encoding_defined _
theorem Sys2Proof.Laws.EncodingDefined.progWrite (x : CoxId) (v : DWord) : Sys2Proof.Laws.EncodingDefined.Statement (Sys2Proof.Instr.progWrite x v) := Sys2Proof.Laws.encoding_defined _
theorem Sys2Proof.Laws.EncodingDefined.qctlEnSet (x : CoxId) (v : DWord) : Sys2Proof.Laws.EncodingDefined.Statement (Sys2Proof.Instr.qctlEnSet x v) := Sys2Proof.Laws.encoding_defined _
theorem Sys2Proof.Laws.EncodingDefined.qctlEnClear (x : CoxId) (v : DWord) : Sys2Proof.Laws.EncodingDefined.Statement (Sys2Proof.Instr.qctlEnClear x v) := Sys2Proof.Laws.encoding_defined _
theorem Sys2Proof.Laws.EncodingDefined.tinvWrite (x : CoxId) (v : DWord) : Sys2Proof.Laws.EncodingDefined.Statement (Sys2Proof.Instr.tinvWrite x v) := Sys2Proof.Laws.encoding_defined _
theorem Sys2Proof.Laws.EncodingDefined.tinvDone (x : CoxId) : Sys2Proof.Laws.EncodingDefined.Statement (Sys2Proof.Instr.tinvDone x) := Sys2Proof.Laws.encoding_defined _
theorem Sys2Proof.Laws.EncodingDefined.ctxrecWrite (x : CoxId) (v : DWord) : Sys2Proof.Laws.EncodingDefined.Statement (Sys2Proof.Instr.ctxrecWrite x v) := Sys2Proof.Laws.encoding_defined _
theorem Sys2Proof.Laws.EncodingDefined.fstatHaltWrite (x : CoxId) : Sys2Proof.Laws.EncodingDefined.Statement (Sys2Proof.Instr.fstatHaltWrite x) := Sys2Proof.Laws.encoding_defined _
theorem Sys2Proof.Laws.EncodingDefined.fstatKillWrite (x : CoxId) : Sys2Proof.Laws.EncodingDefined.Statement (Sys2Proof.Instr.fstatKillWrite x) := Sys2Proof.Laws.encoding_defined _
theorem Sys2Proof.Laws.EncodingDefined.rlogbaseWrite (x : CoxId) (v : DWord) : Sys2Proof.Laws.EncodingDefined.Statement (Sys2Proof.Instr.rlogbaseWrite x v) := Sys2Proof.Laws.encoding_defined _
theorem Sys2Proof.Laws.EncodingDefined.rrgetWrite (hub : Nat) (v : DWord) : Sys2Proof.Laws.EncodingDefined.Statement (Sys2Proof.Instr.rrgetWrite hub v) := Sys2Proof.Laws.encoding_defined _
theorem Sys2Proof.Laws.EncodingDefined.stopbaseWrite (v : DWord) : Sys2Proof.Laws.EncodingDefined.Statement (Sys2Proof.Instr.stopbaseWrite v) := Sys2Proof.Laws.encoding_defined _
theorem Sys2Proof.Laws.EncodingDefined.dbgctlStop (v : DWord) : Sys2Proof.Laws.EncodingDefined.Statement (Sys2Proof.Instr.dbgctlStop v) := Sys2Proof.Laws.encoding_defined _
theorem Sys2Proof.Laws.EncodingDefined.dbgctlResume (v : DWord) : Sys2Proof.Laws.EncodingDefined.Statement (Sys2Proof.Instr.dbgctlResume v) := Sys2Proof.Laws.encoding_defined _
theorem Sys2Proof.Laws.EncodingDefined.dbgswapSwapOut : Sys2Proof.Laws.EncodingDefined.Statement (Sys2Proof.Instr.dbgswapSwapOut) := Sys2Proof.Laws.encoding_defined _
theorem Sys2Proof.Laws.EncodingDefined.dbgswapRelease : Sys2Proof.Laws.EncodingDefined.Statement (Sys2Proof.Instr.dbgswapRelease) := Sys2Proof.Laws.encoding_defined _
theorem Sys2Proof.Laws.EncodingDefined.dbgdataRead : Sys2Proof.Laws.EncodingDefined.Statement (Sys2Proof.Instr.dbgdataRead) := Sys2Proof.Laws.encoding_defined _
theorem Sys2Proof.Laws.EncodingDefined.dbgdataWrite (v : DWord) : Sys2Proof.Laws.EncodingDefined.Statement (Sys2Proof.Instr.dbgdataWrite v) := Sys2Proof.Laws.encoding_defined _
theorem Sys2Proof.Laws.EncodingDefined.rcvctlGo : Sys2Proof.Laws.EncodingDefined.Statement (Sys2Proof.Instr.rcvctlGo) := Sys2Proof.Laws.encoding_defined _
theorem Sys2Proof.Laws.EncodingDefined.flashWriteComplete (ok : Bool) : Sys2Proof.Laws.EncodingDefined.Statement (Sys2Proof.Instr.flashWriteComplete ok) := Sys2Proof.Laws.encoding_defined _
theorem Sys2Proof.Laws.EncodingDefined.pctlEnWrite (port : Nat) (v : DWord) : Sys2Proof.Laws.EncodingDefined.Statement (Sys2Proof.Instr.pctlEnWrite port v) := Sys2Proof.Laws.encoding_defined _
theorem Sys2Proof.Laws.EncodingDefined.registerWrite (off : Nat) (v : DWord) : Sys2Proof.Laws.EncodingDefined.Statement (Sys2Proof.Instr.registerWrite off v) := Sys2Proof.Laws.encoding_defined _
theorem Sys2Proof.Laws.EncodingDefined.hostBar2Write (off : Nat) (data : List Byte) : Sys2Proof.Laws.EncodingDefined.Statement (Sys2Proof.Instr.hostBar2Write off data) := Sys2Proof.Laws.encoding_defined _
theorem Sys2Proof.Laws.EncodingDefined.hostBar2Read (off size : Nat) : Sys2Proof.Laws.EncodingDefined.Statement (Sys2Proof.Instr.hostBar2Read off size) := Sys2Proof.Laws.encoding_defined _
theorem Sys2Proof.Laws.EncodingDefined.hostLinkDown : Sys2Proof.Laws.EncodingDefined.Statement (Sys2Proof.Instr.hostLinkDown) := Sys2Proof.Laws.encoding_defined _
theorem Sys2Proof.Laws.EncodingDefined.hostLinkReset : Sys2Proof.Laws.EncodingDefined.Statement (Sys2Proof.Instr.hostLinkReset) := Sys2Proof.Laws.encoding_defined _
theorem Sys2Proof.Laws.EncodingDefined.hostLinkUp : Sys2Proof.Laws.EncodingDefined.Statement (Sys2Proof.Instr.hostLinkUp) := Sys2Proof.Laws.encoding_defined _
theorem Sys2Proof.Laws.EncodingDefined.ptmUpdate (host : DWord) : Sys2Proof.Laws.EncodingDefined.Statement (Sys2Proof.Instr.ptmUpdate host) := Sys2Proof.Laws.encoding_defined _
theorem Sys2Proof.Laws.EncodingDefined.perst : Sys2Proof.Laws.EncodingDefined.Statement (Sys2Proof.Instr.perst) := Sys2Proof.Laws.encoding_defined _
theorem Sys2Proof.Laws.EncodingDefined.powerOnReset : Sys2Proof.Laws.EncodingDefined.Statement (Sys2Proof.Instr.powerOnReset) := Sys2Proof.Laws.encoding_defined _
theorem Sys2Proof.Laws.EncodingDefined.selftestControllerRun (core quarter : Nat) : Sys2Proof.Laws.EncodingDefined.Statement (Sys2Proof.Instr.selftestControllerRun core quarter) := Sys2Proof.Laws.encoding_defined _
theorem Sys2Proof.Laws.EncodingDefined.selftestFinish : Sys2Proof.Laws.EncodingDefined.Statement (Sys2Proof.Instr.selftestFinish) := Sys2Proof.Laws.encoding_defined _
theorem Sys2Proof.Laws.EncodingDefined.getVersion : Sys2Proof.Laws.EncodingDefined.Statement (Sys2Proof.Instr.getVersion) := Sys2Proof.Laws.encoding_defined _
theorem Sys2Proof.Laws.EncodingDefined.getCapabilities : Sys2Proof.Laws.EncodingDefined.Statement (Sys2Proof.Instr.getCapabilities) := Sys2Proof.Laws.encoding_defined _
theorem Sys2Proof.Laws.EncodingDefined.negotiateAlgorithms : Sys2Proof.Laws.EncodingDefined.Statement (Sys2Proof.Instr.negotiateAlgorithms) := Sys2Proof.Laws.encoding_defined _
theorem Sys2Proof.Laws.EncodingDefined.getDigests : Sys2Proof.Laws.EncodingDefined.Statement (Sys2Proof.Instr.getDigests) := Sys2Proof.Laws.encoding_defined _
theorem Sys2Proof.Laws.EncodingDefined.getCertificate (offset len : Nat) : Sys2Proof.Laws.EncodingDefined.Statement (Sys2Proof.Instr.getCertificate offset len) := Sys2Proof.Laws.encoding_defined _
theorem Sys2Proof.Laws.EncodingDefined.challenge (nonce : List Byte) : Sys2Proof.Laws.EncodingDefined.Statement (Sys2Proof.Instr.challenge nonce) := Sys2Proof.Laws.encoding_defined _
theorem Sys2Proof.Laws.EncodingDefined.getMeasurements (index : Nat) (signed : Bool) (nonce : List Byte) : Sys2Proof.Laws.EncodingDefined.Statement (Sys2Proof.Instr.getMeasurements index signed nonce) := Sys2Proof.Laws.encoding_defined _
theorem Sys2Proof.Laws.EncodingDefined.powerCapSet (watts : Nat) : Sys2Proof.Laws.EncodingDefined.Statement (Sys2Proof.Instr.powerCapSet watts) := Sys2Proof.Laws.encoding_defined _
theorem Sys2Proof.Laws.EncodingDefined.blackBoxRead (die : Nat) : Sys2Proof.Laws.EncodingDefined.Statement (Sys2Proof.Instr.blackBoxRead die) := Sys2Proof.Laws.encoding_defined _
theorem Sys2Proof.Laws.EncodingDefined.instructionFetchComplete (t : TRef) : Sys2Proof.Laws.EncodingDefined.Statement (Sys2Proof.Instr.instructionFetchComplete t) := Sys2Proof.Laws.encoding_defined _
theorem Sys2Proof.Laws.EncodingDefined.progCheckComplete (x : CoxId) : Sys2Proof.Laws.EncodingDefined.Statement (Sys2Proof.Instr.progCheckComplete x) := Sys2Proof.Laws.encoding_defined _
theorem Sys2Proof.Laws.EncodingDefined.imageVerifyComplete : Sys2Proof.Laws.EncodingDefined.Statement (Sys2Proof.Instr.imageVerifyComplete) := Sys2Proof.Laws.encoding_defined _
theorem Sys2Proof.Laws.EncodingDefined.msixVectorUnmask (vector : Nat) : Sys2Proof.Laws.EncodingDefined.Statement (Sys2Proof.Instr.msixVectorUnmask vector) := Sys2Proof.Laws.encoding_defined _
theorem Sys2Proof.Laws.EncodingDefined.chunkGet (handle seq : Nat) : Sys2Proof.Laws.EncodingDefined.Statement (Sys2Proof.Instr.chunkGet handle seq) := Sys2Proof.Laws.encoding_defined _
theorem Sys2Proof.Laws.EncodingDefined.sectionUngate (section_ : Nat) : Sys2Proof.Laws.EncodingDefined.Statement (Sys2Proof.Instr.sectionUngate section_) := Sys2Proof.Laws.encoding_defined _
end

