-- ==== Sys2Proof/Laws/Quiet.lean ====
section
/-!
SUPPORT. Steps that touch neither memory nor the package outside its groups (`SameMemory`, `SamePackage`), and the frame of an instruction of
one destination per thread.
-/
namespace Sys2Proof.Machine

/-- No byte of memory and nothing of the package outside its groups differs. -/
def Quiet (s t : State) : Prop := SameMemory s t ∧ SamePackage s t

theorem Quiet.refl (s : State) : Quiet s s :=
  ⟨⟨fun _ => rfl, rfl, fun _ => rfl, fun _ _ => rfl, fun _ => rfl, fun _ => rfl⟩, ⟨rfl, rfl, rfl, rfl, rfl, rfl, rfl, rfl, rfl, ⟨rfl, rfl⟩, rfl⟩⟩

theorem Quiet.trans {s t u : State} (h : Quiet s t) (k : Quiet t u) : Quiet s u := by
  obtain ⟨⟨a1, a2, a3, a4, a5, a6⟩, ⟨b1, b2, b3, b4, b5, b6, b7, b8, b9, b10, b11⟩⟩ := h
  obtain ⟨⟨c1, c2, c3, c4, c5, c6⟩, ⟨d1, d2, d3, d4, d5, d6, d7, d8, d9, d10, d11⟩⟩ := k
  exact ⟨⟨fun x => (c1 x).trans (a1 x), c2.trans a2, fun n => (c3 n).trans (a3 n), fun b a => (c4 b a).trans (a4 b a),
      fun n => (c5 n).trans (a5 n), fun n => (c6 n).trans (a6 n)⟩,
    ⟨d1.trans b1, d2.trans b2, d3.trans b3, d4.trans b4, d5.trans b5, d6.trans b6, d7.trans b7, d8.trans b8, d9.trans b9,
      ⟨d10.1.trans b10.1, d10.2.trans b10.2⟩, d11.trans b11⟩⟩

theorem Quiet.fold {α : Type} (F : State → α → State) (h : ∀ u x, Quiet u (F u x)) (ls : List α) (s : State) : Quiet s (ls.foldl F s) := by
  induction ls generalizing s with
  | nil => exact Quiet.refl s
  | cons a ls ih => exact (h s a).trans (ih (F s a))

theorem State.physByte_of_mem {s t : State} (h : t.mem = s.mem) (pa : Nat) : t.physByte pa = s.physByte pa := by
  simp [State.physByte, h]

/-- A step that changes the groups, the agenda or the model's counters only, and no scratchpad. -/
theorem Quiet.of_groups {s t : State} (pad : ∀ b a, (t.block? b).map (fun x => x.scratch.read a) = (s.block? b).map (fun x => x.scratch.read a))
    (mem : t.mem = s.mem) (l3 : t.l3 = s.l3) (cores : t.cores = s.cores) (package : SamePackage s t) : Quiet s t :=
  ⟨⟨State.physByte_of_mem mem, l3, fun n => by rw [State.core_of_cores cores], pad, fun n => by rw [State.core_of_cores cores],
    fun n => by rw [State.core_of_cores cores]⟩, package⟩

/-- A step that changes none of the fields that memory and package lie in. -/
theorem Quiet.of_fields {s t : State} (groups : t.groups = s.groups) (mem : t.mem = s.mem) (l3 : t.l3 = s.l3) (cores : t.cores = s.cores)
    (package : SamePackage s t) : Quiet s t :=
  Quiet.of_groups (fun b a => by rw [State.block_of_groups groups]) mem l3 cores package

theorem Quiet.schedule (s : State) (d : Nat) (a : Act) : Quiet s (s.schedule d a) :=
  Quiet.of_fields rfl rfl rfl rfl ⟨rfl, rfl, rfl, rfl, rfl, rfl, rfl, rfl, rfl, ⟨rfl, rfl⟩, rfl⟩

theorem Quiet.inCycle (s : State) (c : Nat) (i : Instr) : Quiet s (s.inCycle c i) :=
  Quiet.of_fields rfl rfl rfl rfl ⟨rfl, rfl, rfl, rfl, rfl, rfl, rfl, rfl, rfl, ⟨rfl, rfl⟩, rfl⟩

theorem Quiet.soon (s : State) (i : Instr) : Quiet s (s.soon i) :=
  Quiet.of_fields rfl rfl rfl rfl ⟨rfl, rfl, rfl, rfl, rfl, rfl, rfl, rfl, rfl, ⟨rfl, rfl⟩, rfl⟩

theorem Quiet.focus (s : State) (f : Focus) (n : Nat) : Quiet s { s with focus := f, fresh := n } :=
  Quiet.of_fields rfl rfl rfl rfl ⟨rfl, rfl, rfl, rfl, rfl, rfl, rfl, rfl, rfl, ⟨rfl, rfl⟩, rfl⟩

theorem Quiet.serial (s : State) (n : Nat) : Quiet s { s with serial := n } :=
  Quiet.of_fields rfl rfl rfl rfl ⟨rfl, rfl, rfl, rfl, rfl, rfl, rfl, rfl, rfl, ⟨rfl, rfl⟩, rfl⟩

theorem Quiet.fresh (s : State) (n : Nat) : Quiet s { s with fresh := n } :=
  Quiet.of_fields rfl rfl rfl rfl ⟨rfl, rfl, rfl, rfl, rfl, rfl, rfl, rfl, rfl, ⟨rfl, rfl⟩, rfl⟩

theorem Quiet.modSect (s : State) (h : Nat) (f : Section → Section) : Quiet s (s.modSect h f) :=
  Quiet.of_fields rfl rfl rfl rfl ⟨rfl, rfl, rfl, rfl, rfl, rfl, rfl, rfl, rfl, ⟨rfl, rfl⟩, rfl⟩

theorem Quiet.bbox (s : State) (d k u : Nat) (a : BitVec 16) (g : Word) (x y : DWord) : Quiet s (s.bbox d k u a g x y) :=
  Quiet.of_fields rfl rfl rfl rfl ⟨rfl, rfl, rfl, rfl, rfl, rfl, rfl, rfl, rfl, ⟨rfl, rfl⟩, rfl⟩

theorem State.pad_modCrew (s : State) (c : CRef) (f : Crew → Crew) (b : BRef) (a : Nat) :
    ((s.modCrew c f).block? b).map (fun x => x.scratch.read a) = (s.block? b).map (fun x => x.scratch.read a) := by
  unfold State.modCrew
  by_cases h : b = c.block
  · rw [h, State.block_modBlock_same]
    cases s.block? c.block with
    | none => rfl
    | some x => simp
  · rw [State.block_modBlock_other s h]

theorem Quiet.modCrew (s : State) (c : CRef) (f : Crew → Crew) : Quiet s (s.modCrew c f) :=
  Quiet.of_groups (State.pad_modCrew s c f) rfl rfl rfl ⟨rfl, rfl, rfl, rfl, rfl, rfl, rfl, rfl, rfl, ⟨rfl, rfl⟩, rfl⟩

theorem Quiet.modThread (s : State) (t : TRef) (f : Thread → Thread) : Quiet s (s.modThread t f) := Quiet.modCrew s t.crew _

/-- An update of a core that keeps its number, its L1, its operand slots and its accumulators. -/
theorem Quiet.modCore (s : State) (n : Nat) (f : Core → Core)
    (hf : ∀ x, (f x).num = x.num ∧ (f x).l1 = x.l1 ∧ (f x).slots = x.slots ∧ (f x).accs = x.accs) : Quiet s (s.modCore n f) := by
  have hc : ∀ {β : Type} (obs : Core → β), (∀ x, obs (f x) = obs x) → ∀ m, obs ((s.modCore n f).core m) = obs (s.core m) := by
    intro β obs ho m
    by_cases h : m = n
    · rw [h, State.core_modCore_same s n f (fun x => (hf x).1), ho]
    · rw [State.core_modCore_other s h f (fun x => (hf x).1)]
  refine ⟨⟨State.physByte_of_mem (by simp), by simp, hc Core.l1 (fun x => (hf x).2.1), fun b a => ?_, hc Core.slots (fun x => (hf x).2.2.1),
    hc Core.accs (fun x => (hf x).2.2.2)⟩, ⟨by simp, by simp, by simp, by simp, by simp, by simp, by simp, by simp, by simp,
    ⟨by simp, by simp⟩, by simp⟩⟩
  rw [State.block_of_groups (State.modCore_groups s n f)]

theorem Quiet.onLanes (s : State) (ls : List Lane) (f : Lane → Thread → Thread) : Quiet s (s.onLanes ls f) := by
  unfold State.onLanes
  exact Quiet.fold (fun (u : State) (l : Lane) => u.modThread l.ref (f l)) (fun u l => Quiet.modThread u l.ref (f l)) ls s

theorem Quiet.samplePass (s : State) (p : Pass) (code m : Nat) : Quiet s (s.samplePass p code m) := by
  unfold State.samplePass
  split
  · exact Quiet.refl s
  · split
    · dsimp only
      split
      · exact Quiet.modCore s _ _ (fun x => ⟨rfl, rfl, rfl, rfl⟩)
      · refine Quiet.trans ?_ (Quiet.fresh _ _)
        exact Quiet.modCore s _ _ (fun x => ⟨rfl, rfl, rfl, rfl⟩)
    · exact Quiet.refl s

theorem Quiet.tracePut (s : State) (h : Nat) (f : List Byte) : Quiet s (s.tracePut h f) := by
  unfold State.tracePut State.traceAdd State.traceLost
  split
  · split
    · exact Quiet.refl s
    · exact (Quiet.modSect s h _).trans (Quiet.soon _ _)
  · exact (Quiet.modSect s h _).trans (Quiet.bbox _ _ _ _ _ _ _ _)

theorem Quiet.traceAdd (s : State) (h : Nat) (fs : List (List Byte)) : Quiet s (s.traceAdd h fs) := by
  unfold State.traceAdd
  split
  · exact Quiet.refl s
  · exact (Quiet.modSect s h _).trans (Quiet.soon _ _)

theorem Quiet.tracePacket (s : State) (c : CRef) (pc : DWord) (a b : Bool) (f : Nat → DWord → List Byte) : Quiet s (s.tracePacket c pc a b f) := by
  have hi : ∀ (p : Prop) [Decidable p] (u v : State), Quiet s u → Quiet s v → Quiet s (if p then u else v) := by
    intro p _ u v hu hv
    split <;> assumption
  unfold State.tracePacket
  split
  · refine hi _ _ _ ?_ ?_
    · exact Quiet.modCrew s _ _
    · exact (Quiet.traceAdd s _ _).trans (Quiet.modCrew _ _ _)
  · exact Quiet.refl s

theorem Quiet.traceFirst (s : State) (c : CRef) (pc : DWord) : Quiet s (s.traceFirst c pc) := by
  unfold State.traceFirst
  split
  · exact (Quiet.tracePacket s _ _ _ _ _).trans (Quiet.modCrew _ _ _)
  · exact Quiet.refl s

/-- An update of every listed core that keeps its number, its L1, its operand slots and its accumulators. -/
theorem Quiet.mapCores (s : State) (f : Core → Core)
    (hf : ∀ x, (f x).num = x.num ∧ (f x).l1 = x.l1 ∧ (f x).slots = x.slots ∧ (f x).accs = x.accs) : Quiet s { s with cores := s.cores.map f } := by
  have find : ∀ (n : Nat) (l : List Core), (l.map f).find? (fun x => x.num == n) = (l.find? (fun x => x.num == n)).map f := by
    intro n l
    induction l with
    | nil => rfl
    | cons x l ih =>
      rw [List.map_cons, List.find?_cons, List.find?_cons, (hf x).1]
      cases x.num == n
      · exact ih
      · rfl
  have hc : ∀ {β : Type} (obs : Core → β), (∀ x, obs (f x) = obs x) → ∀ n, obs (State.core { s with cores := s.cores.map f } n) = obs (s.core n) := by
    intro β obs ho n
    unfold State.core
    rw [find]
    cases s.cores.find? (fun x => x.num == n) with
    | none => rfl
    | some x => exact ho x
  exact ⟨⟨fun _ => rfl, rfl, hc Core.l1 (fun x => (hf x).2.1), fun _ _ => rfl, hc Core.slots (fun x => (hf x).2.2.1), hc Core.accs (fun x => (hf x).2.2.2)⟩,
    ⟨rfl, rfl, rfl, rfl, rfl, rfl, rfl, rfl, rfl, ⟨rfl, rfl⟩, rfl⟩⟩

theorem Quiet.writeTags (s : State) (f : CRef × Nat × List Byte → Bool) : Quiet s (s.writeTags f) := by
  unfold State.writeTags
  dsimp only
  split
  · exact Quiet.refl s
  · exact (Quiet.fold _ (fun u x => Quiet.tracePut u _ _) _ s).trans (Quiet.mapCores _ _ (fun x => ⟨rfl, rfl, rfl, rfl⟩))

theorem Quiet.sampleDone (s : State) (c : CRef) : Quiet s (s.sampleDone c) := by
  unfold State.sampleDone
  split
  · exact Quiet.writeTags s _
  · exact Quiet.refl s

theorem Quiet.flagPends (s : State) (e : Env) (o : Ops) (ls : List Lane) (n : Nat) : Quiet s (s.flagPends e o ls n) := by
  unfold State.flagPends
  split
  · exact Quiet.refl s
  · refine Quiet.fold _ (fun u l => ?_) ls s
    dsimp only
    exact (Quiet.serial u (u.serial + 1)).trans ((Quiet.modThread _ _ _).trans (Quiet.inCycle _ _ _))

theorem Quiet.writeResult (s : State) (e : Env) (l : Lane) (r : Reg) (w v due : Nat) (p : Bool) : Quiet s (s.writeResult e l r w v due p) := by
  unfold State.writeResult
  split
  · exact Quiet.modCrew s _ _
  · exact Quiet.modThread s _ _

theorem Quiet.addLate (s : State) (e : Env) (o : Ops) (l : Lane) (rs : List Result) (p : Bool) : Quiet s (s.addLate e o l rs p) := by
  unfold State.addLate
  exact (Quiet.serial s (s.serial + 1)).trans ((Quiet.modThread _ _ _).trans (Quiet.soon _ _))

theorem Quiet.results (s : State) (e : Env) (o : Ops) (ls : List Lane) (f : Lane → List Result) : Quiet s (s.results e o ls f) := by
  unfold State.results
  split
  · exact (Quiet.fold _ (fun u l => Quiet.fold _ (fun v (r : Result) => Quiet.writeResult v e l r.reg r.width r.val _ _) _ u) ls s).trans
      (Quiet.flagPends _ _ _ _ _)
  · exact Quiet.fold _ (fun u l => Quiet.addLate u e o l _ _) ls s

/-- The common part of an issue without a fault is quiet. -/
theorem Issues.quiet {s : State} {p : Pass} {code : Nat} {o : Ops} {x : Env → Lane → List IssueFault} {e : Env} (h : Issues s p code o x e)
    (sets : Bool) : Quiet s (s.issue e o (x e) sets).1 := by
  rw [h.issue]
  exact (Quiet.focus s .none (s.fresh + 2 ^ 18)).trans ((Quiet.onLanes _ _ _).trans ((Quiet.samplePass _ _ _ _).trans (Quiet.traceFirst _ _ _)))

/-- An instruction of one destination per thread changes no byte of memory and nothing of the package outside its groups. -/
theorem aluOp_quiet {s : State} {p : Pass} {code : Nat} {o : Ops} {e : Env} (h : Issues s p code o noFaults e) (f : Row → Src → Nat) :
    ∃ t, aluOp code o f s = .next t ∧ Quiet s t :=
  ⟨_, h.run _, (h.quiet _).trans ((Quiet.results _ _ _ _ _).trans (Quiet.sampleDone _ _))⟩

end Sys2Proof.Machine
end

