-- ==== Sys2Proof/Tests/Slice0.lean ====
section
/-!
SUPPORT. Tests of the model on small states. Expected values come from the worked examples and the tables of spec/, which each test's comment names.
-/
namespace Sys2Proof.Tests

open Sys2Proof.Machine Sys2Proof.Claims

set_option Elab.async false

/-! ## Well-formed and ill-formed instructions (R68, R69, R72, R78) -/

theorem wf_plain : (Instr.iadd noOps).wellFormed = true := by decide +kernel
-- No 64-bit I form (Table 3 of 04).
theorem ill_length : (Instr.iaddI noOps).wellFormed = false := by decide +kernel
-- A modifier needs the M word (R72).
theorem ill_modifier_without_word : (Instr.iadd { noOps with mod := 0x2000 }).wellFormed = false := by decide +kernel
theorem ill_operand_word : (Instr.bitop { noOps with len := .w96, mod2 := 256 }).wellFormed = false := by decide +kernel
theorem ill_immediate : (Instr.iaddI { noOps with len := .w96, imm := 0x100000000 }).wellFormed = false := by decide +kernel
-- Subcodes 6 to 11 of NOTINSTR (Table 2 of 21): reserved bit, kind bit, type, rounding, odd pair, unused value.
theorem ill_reserved : (Instr.iadd { noOps with len := .w96, mod := 0x4000 }).wellFormed = false := by decide +kernel
theorem ill_kind : (Instr.isetb { noOps with len := .w96, vd := ⟨true, 1⟩ }).wellFormed = false := by decide +kernel
theorem ill_type : (Instr.iadd { noOps with len := .w96, mod := 4 }).wellFormed = false := by decide +kernel
theorem ill_rounding : (Instr.fmin { noOps with len := .w96, mod := 0x400 }).wellFormed = false := by decide +kernel
theorem ill_pair : (Instr.iadd64 { noOps with vd := ⟨false, 3⟩ }).wellFormed = false := by decide +kernel
theorem ill_value : (Instr.movs { noOps with vs1 := ⟨false, 0x24⟩ }).wellFormed = false := by decide +kernel

/-! ## Decoding of the spec's worked encodings -/

-- "Worked encodings" of 04.
theorem test_decode_iadd : decodeThread [0x04, 0x30, 0x0E, 0x23, 0x81, 0x0B, 0x08, 0x06]
    = .inr (.iadd { noOps with flag := some 7, wait := 0x024, stall := 3, guard := ⟨7, 3, false⟩, vd := ⟨false, 1⟩, vs1 := ⟨false, 2⟩, vs2 := ⟨false, 3⟩ }) := by
  decide +kernel
theorem test_decode_iadd_i : decodeThread [0xC1, 0, 0, 0, 0x80, 0x0F, 8, 0, 0x64, 0, 0, 0]
    = .inr (.iaddI { noOps with len := .w96, vd := ⟨false, 1⟩, vs1 := ⟨false, 2⟩, imm := 100 }) := by decide +kernel
-- "A worked encoding" of 06.
theorem test_decode_isetb : decodeThread [0x91, 0, 0, 0, 0x80, 0x1F, 4, 4, 0, 0, 0x40, 0x0A]
    = .inr (.isetb { noOps with len := .w96, vd := ⟨false, 3⟩, vs1 := ⟨false, 1⟩, vs2 := ⟨false, 2⟩, mod := 0x14800 }) := by decide +kernel
-- "Worked encoding" of 07.
theorem test_decode_ffma_i : decodeThread [0xCA, 1, 0, 0, 0x80, 0x27, 0x14, 0x0C, 0, 0, 0x20, 2, 0, 0, 0x20, 0x40]
    = .inr (.ffmaI { noOps with len := .w128, vd := ⟨false, 4⟩, vs1 := ⟨false, 5⟩, vs2 := ⟨false, 6⟩, mod := 0x4400, imm := 0x40200000 }) := by decide +kernel
-- Worked encodings of 08, 09, 10 and 20.
theorem test_decode_ld : decodeThread [2, 4, 0, 0, 0x80, 0x40, 8, 8, 0, 0x60, 0, 0x14, 0x10, 0, 0, 0]
    = .inr (.ld { noOps with len := .w128, flag := some 1, vd := ⟨false, 8⟩, vs1 := ⟨false, 2⟩, vs2 := ⟨false, 4⟩, mod := 0x2800C, imm := 16 }) := by decide +kernel
theorem test_decode_mma : decodeThread [0x28, 6, 0, 0, 0x80, 0x11, 0x10, 0x0A]
    = .inr (.mma { noOps with flag := some 3, vd := ⟨false, 2⟩, vs1 := ⟨false, 4⟩, vs2 := ⟨false, 5⟩ }) := by decide +kernel
theorem test_decode_movs : decodeThread [0x20, 7, 0, 0, 0, 0x31, 0x88, 0]
    = .inr (.movs { noOps with flag := some 2, vd := ⟨false, 6⟩, vs1 := ⟨false, 0x22⟩ }) := by decide +kernel
theorem test_decode_xloop : (match decodeThread [5, 7, 0, 0, 0, 2, 0x40, 4, 0x18, 7, 0x60, 1] with
    | .inr (.xloop o) => decide (o.flag = some 4 ∧ o.vs1 = ⟨true, 16⟩ ∧ o.vs2 = ⟨true, 2⟩)
    | _ => false) = true := by decide +kernel
theorem test_decode_xcopy : (match decodeThread [1, 7, 0, 0, 0, 0, 0x40, 8, 8, 7, 0, 0x18] with
    | .inr (.xcopy _) => true
    | _ => false) = true := by decide +kernel
theorem test_decode_resume : decodeThread [0x29, 3, 0, 0, 0x80, 7, 0, 0, 0, 0, 0, 2] = .inr (.resume { noOps with len := .w96, mod := 0x4000 }) := by
  decide +kernel
-- The chunk program of 14.
theorem test_decode_cox : decodeCox 0x30400000 = some (.coxPkr 1 0) ∧ decodeCox 0x480D0002 = some (.coxBne 3 4 2)
    ∧ decodeCox 0x41400000 = some (.coxAtadd 5 0 0 0) ∧ decodeCox 0x58000000 = some .coxAct := by decide +kernel
-- NOTINSTR subcodes 1 to 3 (Table 2 of 21): length 0b11, too few bytes in the fetch block, unassigned opcode.
theorem test_decode_not_instr : decodeThread [3, 0, 0, 0, 0, 0, 0, 0] = .inl 1 ∧ decodeThread [0x04, 0, 0, 0] = .inl 2
    ∧ decodeThread (leBytes 8 (511 * 4)) = .inl 3 := by decide +kernel

/-! ## A small package -/

def thread (regs : List Word) : Thread := { Thread.launched (loadLaunch 0).p 0 0 with regs := regs }

def crew (ts : List Thread) : Crew :=
  { slot := 0, kregs := List.replicate 4 0, klate := [], threads := ts, gangSeq := 0, wait := 0, digest := 0, xcopies := 0, engineOps := 0,
    released := false, trace := TraceStream.reset }

def block (cs : List Crew) : Block :=
  { core := 0, base := 0, placeNo := 0, crews := cs, scratch := Memory.empty, stamps := [], settle := 0, bars := List.replicate 16 Barrier.reset,
    rings := List.replicate 8 (Ring.reset 0), cmds := [], broken := [], xreds := 0, ended := false, kills := 0, gridArrived := false, stop := .run }

def group (bs : List Block) : Group :=
  { gid := 1, launch := 0, walk := 0, st := .resident, sect := 0, since := 0, deadline := none, victimOf := none, blocks := bs,
    bars := List.replicate 8 Barrier.reset, savedHwx := 0, saveFrom := 0, saveTook := 0, restoreTook := 0,
    slice := 0, stopPkt := none, storing := false, savedOps := [], savedSlots := [], savedAccs := [], swapped := false }

def crewRef : CRef := ⟨1, 0, 0⟩
def ref (t : Nat) : TRef := ⟨1, 0, 0, t⟩

/-- A pass of the first `n` threads. -/
def pass (n : Nat) : Pass := { crew := crewRef, lanes := List.range n, pc := 0, num := 7, defer := false, collective := false }

/-- One block of one crew of these threads, whose pass issues next. -/
def state (ts : List Thread) : State :=
  { State.reset with agenda := [], launches := [loadLaunch 0], groups := [group [block [crew ts]]], focus := .pass (pass ts.length) }

/-- The operands of the tests: vd v3, vs1 v0, vs2 v1, vs3 v2, set-flag f3. -/
def ops : Ops := { noOps with len := .w128, flag := some 3, vd := ⟨false, 3⟩, vs1 := ⟨false, 0⟩, vs2 := ⟨false, 1⟩, vs3 := ⟨false, 2⟩ }

/-- What `exec` answers, observed; none for a stop. -/
def after {α : Type} (i : Instr) (s : State) (f : State → α) : Option α :=
  match exec i s with
  | .next t => some (f t)
  | _ => none

def reg (t : State) (n q : Nat) : Nat := (((t.thread? (ref n)).bind (fun x => x.regs[q]?)).map BitVec.toNat).getD 0xBAD

/-- v3 of the first thread after an instruction on v0, v1 and v2. -/
def gives (i : Instr) (a b c : Nat) : Option Nat := after i (state [thread [w32 a, w32 b, w32 c, 0, 0, 0, 0, 0]]) (fun t => reg t 0 3)

/-- The value under way to v3. -/
def givesLate (i : Instr) (a b c : Nat) : Option (Option Nat) :=
  after i (state [thread [w32 a, w32 b, w32 c, 0, 0, 0, 0, 0]])
    (fun t => (((t.thread? (ref 0)).bind (fun x => x.pend.head?)).bind (fun p => p.writes.head?)).map (fun w => w.2.toNat))

/-! ## Results (worked examples of 05 to 08) -/

theorem test_iadd_wraps : gives (.iadd ops) 0xFFFFFFFF 1 0 = some 0 := by decide +kernel
-- Table 2 of 06: with .sat INEG maps −2^31 to 0x7FFF_FFFF.
theorem test_ineg_sat : gives (.ineg { ops with mod := 0x2000 }) 0x80000000 0 0 = some 0x7FFFFFFF := by decide +kernel
-- The example of R124.
theorem test_bfe : gives (.bfe { ops with mod := 3 }) 0x87654321 0x081C 0 = some 0xFFFFFFF8 ∧ gives (.bfe { ops with mod := 3 }) 0x87654321 0x080C 0 = some 0x54
    ∧ gives (.bfe { ops with mod := 7 }) 0x87654321 0x081C 0 = some 8 := by decide +kernel
theorem test_prmt : gives (.prmt ops) 0x87654321 0xF0 0x4C83 = some 0x00FFF087 := by decide +kernel
theorem test_sar_all : gives (.sar ops) 0x80000000 40 0 = some 0xFFFFFFFF ∧ gives (.shl ops) 1 32 0 = some 0 := by decide +kernel
theorem test_shf_right_z : gives (.shf { ops with mod := 0x6000 }) 0x11111111 0x22222222 32 = some 0x22222222 := by decide +kernel
theorem test_isetb_i : gives (.isetbI { ops with imm := 5 }) 5 0 0 = some 1 := by decide +kernel
theorem test_lop3 : gives (.lop3 { ops with mod := 0x96000 }) 0b1100 0b1010 0b1001 = some 0b1111 := by decide +kernel
-- The worked encoding of 07: round(−1.5 + 2.5, rz) = 1.0.
theorem test_ffma_i : gives (.ffmaI { ops with mod := 0x4400, imm := 0x40200000 }) 0x40400000 0x3F000000 0 = some 0x3F800000 := by decide +kernel
theorem test_fmin_zero : gives (.fmin ops) 0 0x80000000 0 = some 0x80000000 := by decide +kernel
theorem test_frnd : gives (.frnd ops) 0x40200000 0 0 = some 0x40000000 := by decide +kernel
theorem test_hadd2 : gives (.hadd2 ops) 0x3C004000 0x3C003C00 0 = some 0x40004200 := by decide +kernel
theorem test_fclass : gives (.fclass ops) 0x80000000 0 0 = some 8 := by decide +kernel
-- The worked conversion of 07.
theorem test_idp4 : gives (.idp4 ops) 0x01020304 0x01010101 5 = some 15 := by decide +kernel
-- Table 4 of R149 and its overflow line.
theorem test_ex2 : givesLate (.ex2 ops) 0xC3160000 0 0 = some (some 0) ∧ givesLate (.ex2 ops) 0x43000000 0 0 = some (some 0x7F800000)
    ∧ givesLate (.rcp ops) 0x80000000 0 0 = some (some 0xFF800000) := by decide +kernel
theorem test_movi : gives (.movi { ops with imm := 0xFFFFFFFF }) 0 0 0 = some 0xFFFFFFFF := by decide +kernel

-- The examples of R160 and R162, in passes of ten and eight lanes.
def lanes (n : Nat) (f : Nat → Nat) (b : Nat) : State := state ((List.range n).map (fun i => thread [w32 (f i), w32 b, 0, 0, 0, 0, 0, 0]))
theorem test_shfl_rot : after (.shfl { ops with mod := 0x20000 }) (lanes 10 id 1) (fun t => [reg t 0 3, reg t 1 3, reg t 9 3]) = some [7, 0, 8] := by
  decide +kernel
theorem test_redux : after (.redux { ops with mod := 0xB0000 }) (lanes 8 (fun i => [3, 1, 4, 1, 5, 9, 2, 6].getD i 0) 0)
    (fun t => (List.range 8).map (fun i => reg t i 3)) = some [0, 3, 4, 8, 0, 5, 14, 16] := by decide +kernel

/-! ## Control, traps, system (06, 20, 10) -/

def pcOf (t : State) (n : Nat) : Nat := ((t.thread? (ref n)).map (fun x => x.pc.toNat)).getD 0xBAD

theorem test_bra_guard : after (.bra { ops with guard := ⟨0, 0, true⟩, imm := 4 }) (lanes 2 id 0) (fun t => [pcOf t 0, pcOf t 1]) = some [16, 16] := by
  decide +kernel
theorem test_bra_taken : after (.bra { ops with guard := ⟨0, 1, false⟩, imm := 0xFFFFFFFC }) (lanes 2 (fun i => 2 * i) 0) (fun t => [pcOf t 0, pcOf t 1])
    = some [16, 2 ^ 64 - 16] := by decide +kernel
-- R378: a trap saves the PC and its cause and goes to $trapvec.
theorem test_trap : after (.trap { ops with vd := ⟨false, 5⟩, flag := none }) (state [{ thread [0, 0] with trapvec := 0x400 }])
    (fun t => ((t.thread? (ref 0)).map (fun x => (x.pc, x.trapcause, x.trappc, x.handler)))) = some (some (0x400, 0x605, 0, true)) := by decide +kernel
theorem test_movsw_trapvec : after (.movsw { ops with vd := ⟨false, 0x1E⟩ }) (state [thread [0x47, 1, 0, 0]])
    (fun t => (t.thread? (ref 0)).map (fun x => x.trapvec)) = some (some 0x100000044) := by decide +kernel
theorem test_movs_lane : after (.movs { ops with vs1 := ⟨false, 0x12⟩ }) (lanes 2 id 0)
    (fun t => ((t.thread? (ref 1)).map (fun x => x.pend.map (fun p => p.writes)))) = some (some [[(3, 1)]]) := by decide +kernel
-- The trace packet of cycle 9 in Table 7 of 16.
theorem test_trace_packet : (passPacket 1 (List.range 32) 9 2 ((List.range 32).map (fun n => n % 2 == 1)) []).map BitVec.toNat
    = [0x11, 0x31, 1, 9, 2, 0xAA, 0xAA, 0xAA, 0xAA] := by decide +kernel

/-! ## One word for every constructor with an encoding

Each word is the opcode of the instruction's entry at bits 10:2, its length, set-flag 15 (none) at bits 42:39, the default guard, and every operand field
zero but for those that the entry requires: a barrier's scope, the kind bits of crew-only operands, XFENCE's queue mask. -/

/-- The word of `nbits` bits decodes to the instruction. -/
def reads (xs : List (Nat × Nat × Instr)) : Bool := xs.all (fun x => decodeTableWord x.1 x.2.1 == some x.2.2)

theorem test_words_0 : reads
    [(64, 0x78000000004, .iadd noOps),
     (96, 0x780000000C1, .iaddI { noOps with len := .w96 }),
     (64, 0x78000000008, .isub noOps),
     (96, 0x780000000C5, .isubI { noOps with len := .w96 }),
     (64, 0x7800000000C, .ineg noOps),
     (64, 0x78000000010, .iadd3 noOps),
     (64, 0x78000000014, .imul noOps),
     (96, 0x780000000C9, .imulI { noOps with len := .w96 }),
     (64, 0x78000000018, .imulh noOps),
     (64, 0x7800000001C, .imad noOps),
     (96, 0x780000000CD, .imadI { noOps with len := .w96 }),
     (64, 0x78000000020, .imadw noOps),
     (64, 0x78000000024, .iadd64 noOps),
     (64, 0x78000000028, .isub64 noOps),
     (64, 0x7800000002C, .imad64 noOps),
     (64, 0x78000000030, .imin noOps),
     (96, 0x780000000D1, .iminI { noOps with len := .w96 }),
     (64, 0x78000000034, .imax noOps),
     (96, 0x780000000D5, .imaxI { noOps with len := .w96 }),
     (64, 0x78000000038, .iabs noOps),
     (64, 0x7800000003C, .isad noOps)] = true := by decide +kernel

theorem test_words_1 : reads
    [(64, 0x78000000040, .and noOps),
     (96, 0x780000000E1, .andI { noOps with len := .w96 }),
     (64, 0x78000000044, .or noOps),
     (96, 0x780000000E5, .orI { noOps with len := .w96 }),
     (64, 0x78000000048, .xor noOps),
     (96, 0x780000000E9, .xorI { noOps with len := .w96 }),
     (64, 0x7800000004C, .not noOps),
     (64, 0x78000000050, .andn noOps),
     (96, 0x780000000ED, .andnI { noOps with len := .w96 }),
     (64, 0x78000000054, .lop3 noOps),
     (64, 0x78000000060, .shl noOps),
     (96, 0x780000000F1, .shlI { noOps with len := .w96 }),
     (64, 0x78000000064, .shr noOps),
     (96, 0x780000000F5, .shrI { noOps with len := .w96 }),
     (64, 0x78000000068, .sar noOps),
     (96, 0x780000000F9, .sarI { noOps with len := .w96 }),
     (64, 0x7800000006C, .shf noOps),
     (64, 0x78000000070, .rot noOps),
     (64, 0x78000000074, .bfe noOps),
     (64, 0x78000000078, .bfi noOps),
     (64, 0x7800000007C, .brev noOps)] = true := by decide +kernel

theorem test_words_2 : reads
    [(64, 0x78000000080, .popc noOps),
     (64, 0x78000000084, .clz noOps),
     (64, 0x78000000088, .ctz noOps),
     (64, 0x7800000008C, .prmt noOps),
     (64, 0x78000000090, .isetb noOps),
     (96, 0x780000000D9, .isetbI { noOps with len := .w96 }),
     (64, 0x78000000094, .sel noOps),
     (96, 0x780000000DD, .selI { noOps with len := .w96 }),
     (64, 0x780000000A0, .mov noOps),
     (96, 0x780000000A5, .movi { noOps with len := .w96 }),
     (64, 0x780000000A8, .mov64 noOps),
     (128, 0x780000000BE, .mov64I { noOps with len := .w128 }),
     (64, 0x780000000AC, .lea noOps),
     (96, 0x780000000FD, .leaI { noOps with len := .w96 }),
     (64, 0x780000000B0, .setbit noOps),
     (64, 0x780000000B4, .clrbit noOps),
     (64, 0x780000000B8, .bitop noOps),
     (64, 0x78000000100, .fadd noOps),
     (96, 0x780000001C1, .faddI { noOps with len := .w96 }),
     (64, 0x78000000104, .fmul noOps),
     (96, 0x780000001C5, .fmulI { noOps with len := .w96 })] = true := by decide +kernel

theorem test_words_3 : reads
    [(64, 0x78000000108, .ffma noOps),
     (96, 0x780000001C9, .ffmaI { noOps with len := .w96 }),
     (64, 0x7800000010C, .fmin noOps),
     (96, 0x780000001CD, .fminI { noOps with len := .w96 }),
     (64, 0x78000000110, .fmax noOps),
     (96, 0x780000001D1, .fmaxI { noOps with len := .w96 }),
     (64, 0x78000000114, .fsetb noOps),
     (96, 0x780000001D5, .fsetbI { noOps with len := .w96 }),
     (64, 0x78000000118, .fclass noOps),
     (64, 0x7800000011C, .frnd noOps),
     (64, 0x78000000120, .fscale noOps),
     (64, 0x78000000124, .rcp noOps),
     (64, 0x78000000128, .rsq noOps),
     (64, 0x7800000012C, .sqrt noOps),
     (64, 0x78000000130, .ex2 noOps),
     (64, 0x78000000134, .lg2 noOps),
     (64, 0x78000000138, .sin noOps),
     (64, 0x7800000013C, .cos noOps),
     (64, 0x78000000140, .tanh noOps),
     (64, 0x78000000150, .idp4 noOps),
     (64, 0x78000000160, .hadd2 noOps)] = true := by decide +kernel

theorem test_words_4 : reads
    [(96, 0x780000001E1, .hadd2I { noOps with len := .w96 }),
     (64, 0x78000000164, .hmul2 noOps),
     (96, 0x780000001E5, .hmul2I { noOps with len := .w96 }),
     (64, 0x78000000168, .hfma2 noOps),
     (96, 0x780000001E9, .hfma2I { noOps with len := .w96 }),
     (64, 0x7800000016C, .hmin2 noOps),
     (64, 0x78000000170, .hmax2 noOps),
     (64, 0x78000000174, .hsetb2 noOps),
     (64, 0x78000000180, .badd2 noOps),
     (96, 0x780000001ED, .badd2I { noOps with len := .w96 }),
     (64, 0x78000000184, .bmul2 noOps),
     (96, 0x780000001F1, .bmul2I { noOps with len := .w96 }),
     (64, 0x78000000188, .bfma2 noOps),
     (96, 0x780000001F5, .bfma2I { noOps with len := .w96 }),
     (64, 0x780000001A0, .dadd noOps),
     (64, 0x780000001A4, .dmul noOps),
     (64, 0x780000001A8, .dfma noOps),
     (64, 0x780000001AC, .dmin noOps),
     (64, 0x780000001B0, .dmax noOps),
     (64, 0x780000001B4, .dsetb noOps),
     (64, 0x78000000200, .cvt noOps)] = true := by decide +kernel

theorem test_words_5 : reads
    [(64, 0x78000000204, .cvtpk noOps),
     (64, 0x78000000208, .cvts noOps),
     (64, 0x78000000220, .shfl noOps),
     (64, 0x78000000224, .vote noOps),
     (64, 0x78000000228, .redux noOps),
     (64, 0x7800000022C, .elect noOps),
     (128, 0x78000000302, .bra { noOps with len := .w128 }),
     (64, 0x78000000304, .brx noOps),
     (128, 0x7800000030A, .call { noOps with len := .w128 }),
     (64, 0x7800000030C, .callx noOps),
     (64, 0x78000000310, .ret noOps),
     (64, 0x78000000314, .exit noOps),
     (128, 0x7800000031A, .meet { noOps with len := .w128 }),
     (64, 0x7800000031C, .region noOps),
     (64, 0x78000000320, .nop noOps),
     (64, 0x78000000324, .trap noOps),
     (64, 0x78000000328, .resume noOps),
     (64, 0x7800000032C, .clrp noOps),
     (64, 0x78000000400, .ld noOps),
     (64, 0x78000000404, .st noOps),
     (64, 0x78000000408, .ldt noOps)] = true := by decide +kernel

theorem test_words_6 : reads
    [(64, 0x7800000040C, .pref noOps),
     (64, 0x78000000500, .atom noOps),
     (64, 0x78000000504, .red noOps),
     (64, 0x78000000508, .match noOps),
     (64, 0x7800000050C, .fence noOps),
     (96, 0x2000000000078000000511, .barArr { noOps with len := .w96, mod := 0x400 }),
     (96, 0x2000000000078000000515, .barWait { noOps with len := .w96, mod := 0x400 }),
     (96, 0x2000000000078000000519, .barSync { noOps with len := .w96, mod := 0x400 }),
     (64, 0x7800000051C, .ctrwait noOps),
     (64, 0x78000000600, .oclaim noOps),
     (64, 0x78000000604, .orelease noOps),
     (96, 0x1000000078000000609, .ohdr { noOps with len := .w96, vs1 := ⟨true, 0⟩ }),
     (96, 0x100000007800000060D, .old { noOps with len := .w96, vs1 := ⟨true, 0⟩ }),
     (64, 0x78000000610, .aclaim noOps),
     (64, 0x78000000614, .arelease noOps),
     (64, 0x78000000618, .azero noOps),
     (96, 0x100000007800000061D, .ald { noOps with len := .w96, vs1 := ⟨true, 0⟩ }),
     (96, 0x1000000078000000621, .ast { noOps with len := .w96, vs1 := ⟨true, 0⟩ }),
     (64, 0x78000000624, .ard noOps),
     (64, 0x78000000628, .mma noOps),
     (64, 0x7800000062C, .mmas noOps)] = true := by decide +kernel

theorem test_words_7 : reads
    [(64, 0x78000000630, .mmag noOps),
     (64, 0x78000000634, .mmags noOps),
     (96, 0x7000000078000000701, .xcopy { noOps with len := .w96, vs1 := ⟨true, 0⟩, vs2 := ⟨true, 0⟩, vs3 := ⟨true, 0⟩ }),
     (96, 0x7000000078000000705, .xloop { noOps with len := .w96, vs1 := ⟨true, 0⟩, vs2 := ⟨true, 0⟩, vs3 := ⟨true, 0⟩ }),
     (96, 0x7000000078000000709, .xgather { noOps with len := .w96, vs1 := ⟨true, 0⟩, vs2 := ⟨true, 0⟩, vs3 := ⟨true, 0⟩ }),
     (96, 0x700000007800000070D, .xscatter { noOps with len := .w96, vs1 := ⟨true, 0⟩, vs2 := ⟨true, 0⟩, vs3 := ⟨true, 0⟩ }),
     (96, 0x7000000078000000711, .xred { noOps with len := .w96, vs1 := ⟨true, 0⟩, vs2 := ⟨true, 0⟩, vs3 := ⟨true, 0⟩ }),
     (96, 0x10000000000078000000715, .xfence { noOps with len := .w96, mod := 0x2000 }),
     (64, 0x78000000720, .movs noOps),
     (64, 0x78000000724, .movsw noOps),
     (64, 0x78000000728, .yield noOps),
     (64, 0x7800000072C, .tmark noOps),
     (64, 0x78000000730, .enq noOps),
     (64, 0x78000000734, .bkpt noOps),
     (64, 0x78000000738, .cctl noOps),
     (64, 0x7800000073C, .invi noOps)] = true := by decide +kernel

-- Formats R, I, M and B of R304: opcode at bits 31:26, rd at 25:22, ra at 21:18, rb at 17:14 or the window at 17:15, the immediate from bit 0.
theorem test_words_cox : reads
    [(32, 0x00000000, .coxHalt),
     (32, 0x057FFFFF, .coxLi 5 0x3FFFFF),
     (32, 0x09408001, .coxLih 5 0x8001),
     (32, 0x0C48FFFE, .coxAdd 1 2 3 0x3FFE),
     (32, 0x1048C000, .coxSub 1 2 3),
     (32, 0x1448C000, .coxAnd 1 2 3),
     (32, 0x1848C000, .coxOr 1 2 3),
     (32, 0x1C48C000, .coxXor 1 2 3),
     (32, 0x20480028, .coxShl 1 2 40),
     (32, 0x24480028, .coxShr 1 2 40),
     (32, 0x2848C000, .coxMul 1 2 3),
     (32, 0x2C48C000, .coxMinu 1 2 3),
     (32, 0x30400009, .coxPkr 1 9),
     (32, 0x34080009, .coxPkw 2 9),
     (32, 0x3849FFFF, .coxLdw 1 2 3 0x7FFF),
     (32, 0x3C498005, .coxStw 1 2 3 5),
     (32, 0x40498005, .coxAtadd 1 2 3 5),
     (32, 0x4408C006, .coxBeq 2 3 6),
     (32, 0x4808C006, .coxBne 2 3 6),
     (32, 0x4C08C006, .coxBltu 2 3 6),
     (32, 0x50000007, .coxLoop 7),
     (32, 0x54000000, .coxEndl),
     (32, 0x58000000, .coxAct),
     (32, 0x5C080000, .coxNotify 2),
     (32, 0x60400000, .coxTime 1),
     (32, 0x64400000, .coxSeq 1)] = true := by decide +kernel

/-! ## Witnesses: states and operands that meet the hypotheses of the statements -/

/-- The pass issues without a fault, and `c` holds of what it finds. -/
def clean (s : State) (p : Pass) (code : Nat) (o : Ops) (extra : Env → Lane → List IssueFault) (c : Env → Bool) : Bool :=
  match s.env? p code o with
  | none => false
  | some e => decide (s.focus = .pass p) && decide p.lanes.Nodup && (e.lanes o).all (fun l => decide (e.standing o l (extra e) = none) && l.t.mayIssue) && c e

theorem of_clean {s : State} {p : Pass} {code : Nat} {o : Ops} {extra : Env → Lane → List IssueFault} {c : Env → Bool} (h : clean s p code o extra c = true) :
    ∃ e, Issues s p code o extra e ∧ c e = true := by
  unfold clean at h
  split at h
  · simp at h
  · rename_i e he
    simp only [Bool.and_eq_true, decide_eq_true_eq, List.all_eq_true] at h
    exact ⟨e, ⟨h.1.1.1, he, h.1.1.2, fun l hl => (h.1.2 l hl).1, fun l hl => (h.1.2 l hl).2⟩, h.2⟩

/-- A condition on every lane that executes. -/
def each (e : Env) (o : Ops) (P : Lane → Prop) [DecidablePred P] : Bool := (e.lanes o).all (fun l => !l.exec || decide (P l))

theorem of_each {e : Env} {o : Ops} {P : Lane → Prop} [DecidablePred P] (h : each e o P = true) : ∀ l, Executes e o l → P l := by
  intro l hl
  have := List.all_eq_true.mp h l hl.1
  simpa [hl.2] using this

theorem some_with {α : Type} {x : Option α} {P : α → Prop} [DecidablePred P] (h : (x.map (fun y => decide (P y))).getD false = true) : ∃ y, x = some y ∧ P y := by
  cases x with
  | none => simp at h
  | some y => exact ⟨y, rfl, by simpa using h⟩

theorem of_clean_each {s : State} {p : Pass} {code : Nat} {o : Ops} {extra : Env → Lane → List IssueFault} {P : Lane → Prop} [DecidablePred P]
    (h : clean s p code o extra (fun e => each e o P) = true) : ∃ e, Issues s p code o extra e ∧ ∀ l, Executes e o l → P l := by
  obtain ⟨e, h1, h2⟩ := of_clean h
  exact ⟨e, h1, of_each h2⟩

/-- Two threads of eight registers, the second of which does not meet the guard v0.1. -/
def two : State := state [thread [2, 0, 0, 0, 0, 0, 0, 0], thread [0, 0, 0, 0, 0, 0, 0, 0]]
def guarded : Ops := { ops with guard := ⟨0, 1, false⟩, vs3 := ⟨false, 0⟩ }
def unary : Ops := { guarded with vs2 := ⟨false, 0⟩ }
def even : Ops := { guarded with vd := ⟨false, 4⟩, vs2 := ⟨false, 2⟩ }

/-- One instruction of each family with a register result, with its operands; the last two write crew registers. -/
def resultCases : List (Nat × Ops × Instr) :=
  [(0x001, guarded, .iadd guarded), (0x009, even, .iadd64 even), (0x010, guarded, .and guarded), (0x018, guarded, .shl guarded),
   (0x01D, guarded, .bfe guarded), (0x024, guarded, .isetb guarded), (0x028, unary, .mov unary), (0x02A, { even with vs2 := ⟨false, 0⟩ }, .mov64 { even with vs2 := ⟨false, 0⟩ }),
   (0x040, guarded, .fadd guarded), (0x047, unary, .frnd unary), (0x058, guarded, .hadd2 guarded), (0x049, unary, .rcp unary),
   (0x068, even, .dadd even), (0x06D, { even with vd := ⟨false, 3⟩ }, .dsetb { even with vd := ⟨false, 3⟩ }), (0x080, unary, .cvt unary),
   (0x088, guarded, .shfl guarded), (0x142, unary, .match unary),
   (0x001, { guarded with vd := ⟨true, 1⟩ }, .iadd { guarded with vd := ⟨true, 1⟩ }), (0x049, { unary with vd := ⟨true, 1⟩ }, .rcp { unary with vd := ⟨true, 1⟩ })]

/-- IntegerResult to LaneResult and ResultFrame. -/
theorem witness_results : ∀ x ∈ resultCases, x.2.2.wellFormed = true ∧ opcodeOf x.2.2 = some (x.1, x.2.1)
    ∧ ∃ e, Issues two (pass 2) x.1 x.2.1 noFaults e ∧ ((e.lanes x.2.1).map Lane.exec) = [true, false] := by
  intro x hx
  have h : resultCases.all (fun y => y.2.2.wellFormed && decide (opcodeOf y.2.2 = some (y.1, y.2.1))
      && clean two (pass 2) y.1 y.2.1 noFaults (fun e => decide ((e.lanes y.2.1).map Lane.exec = [true, false]))) = true := by decide +kernel
  have := List.all_eq_true.mp h x hx
  simp only [Bool.and_eq_true, decide_eq_true_eq] at this
  obtain ⟨e, h1, h2⟩ := of_clean this.2
  exact ⟨this.1.1, this.1.2, e, h1, by simpa using h2⟩

/-- ConvertResult: `.rs` to `.bf16` with the seed in v1. -/
def stochastic : Ops := { ops with vs3 := ⟨false, 0⟩, mod := 0x1011 }
theorem witness_seed : (Instr.cvt stochastic).wellFormed = true ∧ opcodeOf (.cvt stochastic) = some (0x080, stochastic) ∧ modBits stochastic 12 10 = 4
    ∧ stochastic.vs2.num ∉ groupOf stochastic.vd.num 1 ∧ ∃ e, Issues two (pass 2) 0x080 stochastic noFaults e := by
  refine ⟨by decide +kernel, by decide +kernel, by decide +kernel, by decide +kernel, ?_⟩
  obtain ⟨e, h, -⟩ := of_clean (s := two) (p := pass 2) (code := 0x080) (o := stochastic) (extra := noFaults) (c := fun _ => true) (by decide +kernel)
  exact ⟨e, h⟩

/-- The pass issues without a fault, and `C` holds of what it finds. -/
theorem of_cleanD {s : State} {p : Pass} {code : Nat} {o : Ops} {extra : Env → Lane → List IssueFault} {C : Env → Prop} [DecidablePred C]
    (h : clean s p code o extra (fun e => decide (C e)) = true) : ∃ e, Issues s p code o extra e ∧ C e := by
  obtain ⟨e, h1, h2⟩ := of_clean h
  exact ⟨e, h1, by simpa using h2⟩

/-- LaneResult: SHFL from lane 0, which is active, and from lane 2, which the pass lacks. -/
def broadcast : Ops := { ops with vs3 := ⟨false, 0⟩, mod := 0x4000 }
theorem witness_shfl : (Instr.shfl broadcast).wellFormed = true
    ∧ (∃ e, Issues two (pass 2) 0x088 broadcast noFaults e ∧ ∃ l ∈ e.lanes broadcast, l.exec = true ∧ shflLane broadcast l = 0)
    ∧ ∃ e, Issues (state [thread [0, 2, 0, 0], thread [0, 0, 0, 0]]) (pass 2) 0x088 broadcast noFaults e
      ∧ ∃ l ∈ e.lanes broadcast, l.exec = true ∧ shflLane broadcast l = 2 :=
  ⟨by decide +kernel, of_cleanD (by decide +kernel), of_cleanD (by decide +kernel)⟩

def takes (x : Thread) : Bool := !x.handler && x.trapvec != 0 && x.settled && x.haltFault.isNone
theorem takesTrap_of {x : Thread} (h : takes x = true) : TakesTrap x := by
  simp only [takes, Bool.and_eq_true, Bool.not_eq_true', bne_iff_ne, Option.isNone_iff_eq_none] at h
  exact ⟨h.1.1.1, h.1.1.2, h.1.2, h.2⟩

/-- The control instructions and those whose effect lies in the thread (TransferResult, ThreadEffects, ExitEndsThreads, FenceEffect). -/
def link : Ops := { even with vs2 := ⟨false, 0⟩ }
def one96 : Ops := { unary with len := .w96, mod := 0x2000 }
def effectCases : List (Nat × Ops × Instr) :=
  [(0x0C0, guarded, .bra guarded), (0x0C1, unary, .brx unary), (0x0C2, link, .call link), (0x0C3, link, .callx link), (0x0C4, unary, .ret unary),
   (0x0C5, guarded, .exit guarded), (0x0C6, guarded, .meet guarded), (0x0C7, guarded, .region guarded), (0x0C8, guarded, .nop guarded),
   (0x0CB, guarded, .clrp guarded), (0x0CB, one96, .clrp one96), (0x103, unary, .pref unary), (0x143, guarded, .fence guarded), (0x145, guarded, .barWait guarded),
   (0x1CA, guarded, .yield guarded), (0x1CA, one96, .yield one96), (0x1CB, unary, .tmark unary), (0x1CD, unary, .bkpt unary), (0x1CE, unary, .cctl unary),
   (0x1CF, unary, .invi unary)]
theorem witness_effects : ∀ x ∈ effectCases, opcodeOf x.2.2 = some (x.1, x.2.1) ∧ ∃ e, Issues two (pass 2) x.1 x.2.1 noFaults e
    ∧ (e.lanes x.2.1).map Lane.exec = [true, false] := by
  intro x hx
  have h : effectCases.all (fun y => decide (opcodeOf y.2.2 = some (y.1, y.2.1))
      && clean two (pass 2) y.1 y.2.1 noFaults (fun e => decide ((e.lanes y.2.1).map Lane.exec = [true, false]))) = true := by decide +kernel
  have := List.all_eq_true.mp h x hx
  simp only [Bool.and_eq_true, decide_eq_true_eq] at this
  obtain ⟨e, h1, h2⟩ := of_clean this.2
  exact ⟨this.1, e, h1, by simpa using h2⟩

/-- TrapTaken, in both forms; SystemEffects: MOVSW of a register that is not writable. -/
def handled : State := state [{ thread [7, 0, 0, 0] with trapvec := 0x400 }, { thread [0, 0, 0, 0] with trapvec := 0x400 }]
theorem witness_trap : handled.replays crewRef.g = false ∧ (∃ e, Issues handled (pass 2) 0x0C9 noOps noFaults e ∧ ∀ l, Executes e noOps l → TakesTrap l.t ∧ l.t.faults = [])
    ∧ (∃ e, Issues handled (pass 2) 0x0C9 one96 noFaults e ∧ ∀ l, Executes e one96 l → TakesTrap l.t ∧ l.t.faults = [])
    ∧ ∃ e, Issues handled (pass 2) 0x1C9 noOps noFaults e ∧ (∀ l, Executes e noOps l → TakesTrap l.t ∧ l.t.faults = [])
      ∧ noOps.vd.num.toNat ∉ [0x18, 0x1E, 0x1F, 0x20, 0x21] := by
  have g (o : Ops) (code : Nat) (h : clean handled (pass 2) code o noFaults (fun e => each e o (fun l => takes l.t = true ∧ l.t.faults = [])) = true) :
      ∃ e, Issues handled (pass 2) code o noFaults e ∧ ∀ l, Executes e o l → TakesTrap l.t ∧ l.t.faults = [] := by
    obtain ⟨e, h1, h2⟩ := of_clean_each h
    exact ⟨e, h1, fun l hl => ⟨takesTrap_of (h2 l hl).1, (h2 l hl).2⟩⟩
  refine ⟨by decide +kernel, g _ _ (by decide +kernel), g _ _ (by decide +kernel), ?_⟩
  obtain ⟨e, h1, h2⟩ := g noOps 0x1C9 (by decide +kernel)
  exact ⟨e, h1, h2, by decide +kernel⟩

/-- TrapCourse: one fault to deliver, in a thread that takes it and in one whose trap halts the context. -/
def faultOf (how : Delivery) : PFault := { how := how, cause := 0x203, addr := 0x80, pc := 0x40, order := 1, rpc := 0x10, rcount := 1, queue := none }
def standing (how : Delivery) (handler : Bool) : State :=
  { state [{ thread [7, 0] with trapvec := 0x400, handler := handler, faults := [faultOf how] }] with focus := .none }
theorem witness_delivery : ∀ how ∈ [Delivery.region, .poison, .async, .issue], ∀ h ∈ [true, false],
    (standing how h).stands 1 = true ∧ (standing how h).replays 1 = false ∧ ((standing how h).launchOf 1).isSome = true
    ∧ ∃ x, (standing how h).thread? (ref 0) = some x ∧ firstFault x.faults = some (faultOf how) ∧ (h = false → takes x = true)
      ∧ x.settled = true ∧ x.haltFault = none ∧ (h = true → x.handler = true) ∧ (∀ g ∈ x.faults, g.race = none) ∧ x.wait = .none := by
  intro how hh h hb
  have : ∀ how ∈ [Delivery.region, .poison, .async, .issue], ∀ h ∈ [true, false], (standing how h).stands 1 = true ∧ (standing how h).replays 1 = false
      ∧ ((standing how h).launchOf 1).isSome = true ∧ (((standing how h).thread? (ref 0)).map (fun x => decide (firstFault x.faults = some (faultOf how)
        ∧ (h = false → takes x = true) ∧ x.settled = true ∧ x.haltFault = none ∧ (h = true → x.handler = true) ∧ (∀ g ∈ x.faults, g.race = none) ∧ x.wait = .none))).getD false = true := by decide +kernel
  obtain ⟨h1, h2, h3, h4⟩ := this how hh h hb
  exact ⟨h1, h2, h3, some_with h4⟩

/-! A context record at physical address 0x10000 for ASID 0, its page table at 0x20000, and the pages 0x100000 to 0x13FFFF mapped to themselves. -/

def keyOf (pa : Nat) : Nat := ((lineOf pa).map (fun x => x.1.key + x.2)).getD 0
/-- `n` bytes at a physical address, within a line. -/
def poke (s : State) (pa n v : Nat) : State := { s with mem := s.mem.writeN (keyOf pa) (leBytes n v) }
/-- The bytes of the record and of the table that are not zero: the root's table and size, and four entries of a group of their own each. -/
def pages : Memory :=
  ⟨[(22400, 15), (22402, 18), (22408, 18), (25856, 15), (25858, 19), (25864, 19), (274877931520, 15), (274877931522, 17), (274877931528, 17), (274877933568, 15),
    (274877933570, 16), (274877933576, 16), (824633731778, 2), (824633731792, 8)]⟩
def cx : CoxId := ⟨0, 3⟩
def paged (s : State) : State :=
  { s with mem := pages }.modCox cx (fun c =>
    { c with en := true, loaded := true, state := 2, code := List.replicate 8 0, pc := 2, ctxrec := 0x10000, bound := some 0x10000, qhandle := 0x100000,
             qread := 4, plen := 3, packet := [0x605, 7, 9], x := (List.range 16).map (BitVec.ofNat 64), packets := 1, openP := [0] })

/-- The same bytes, written at their physical addresses. -/
def mapPage (s : State) (va perm : Nat) : State := poke s (0x20000 + 128 * wayHash (BitVec.ofNat 64 (va / 2 ^ 16)) 0 8) 16 (1 + perm + va + va * 2 ^ 48)
theorem test_pages : ((List.range 4).foldl (fun u i => mapPage u (0x100000 + 0x10000 * i) 0xE) (poke (poke State.reset 0x10040 8 0x20000) 0x10050 1 8)).mem = pages := by
  decide +kernel
theorem test_paged : (match (paged State.reset).translate none 0 0x100024 1 with
    | .inr x => decide (x.1 = 0x100024)
    | .inl _ => false) = true := by decide +kernel

theorem inr_of {α β : Type} {x : α ⊕ β} {P : β → Prop} [DecidablePred P] (h : (match x with
    | .inl _ => false
    | .inr y => decide (P y)) = true) : ∃ y, x = .inr y ∧ P y := by
  cases x with
  | inl _ => simp at h
  | inr y => exact ⟨y, rfl, by simpa using h⟩

theorem noL1_of {s : State} (h : s.cores.all (fun c => c.l1.isEmpty) = true) (l : LineId) (n : Nat) : s.l1Line n l = none := by
  unfold State.l1Line State.core
  cases hc : s.cores.find? (fun x => x.num == n) with
  | none => rfl
  | some c =>
    have := List.all_eq_true.mp h c (List.mem_of_find?_eq_some hc)
    simp only [List.isEmpty_iff] at this
    simp [this]

/-- ResumeReturns: modes 0 and 2 in any state of the handler; mode 1 of one thread, with the word at `$trappc` fetched, whose bits 1:0 are not zero. -/
def inHandler : State := paged (state [{ thread [7, 0] with trapvec := 0x400, handler := true, trappc := 0x100026, regionPc := 0x100000 }])
def resumeOps (k : Nat) : Ops := { noOps with len := .w96, mod := BitVec.ofNat 20 (k * 2 ^ 13) }
theorem witness_resume : ∀ k ∈ [0, 1, 2], ∃ e, Issues inHandler (pass 1) 0x0CA (resumeOps k) noFaults e ∧ (resumeOps k).mod.toNat / 2 ^ 13 % 4 = k
    ∧ (∀ l, Executes e (resumeOps k) l → l.t.handler = true)
    ∧ ∃ l bs u, (e.lanes (resumeOps k)).filter (fun x => x.exec) = [l] ∧ inHandler.fetch e.core (inHandler.asidOf (pass 1).crew.g) (pairPc l.t.trappc.toNat) = .inr (bs, u) := by
  intro k hk
  have h : ∀ k ∈ [0, 1, 2], clean inHandler (pass 1) 0x0CA (resumeOps k) noFaults (fun e => each e (resumeOps k) (fun l => l.t.handler = true)
      && decide ((resumeOps k).mod.toNat / 2 ^ 13 % 4 = k) && match (e.lanes (resumeOps k)).filter (fun x => x.exec) with
        | [l] => (inHandler.fetch e.core (inHandler.asidOf (pass 1).crew.g) (pairPc l.t.trappc.toNat)).isRight
        | _ => false) = true := by decide +kernel
  obtain ⟨e, h1, h2⟩ := of_clean (h k hk)
  simp only [Bool.and_eq_true, decide_eq_true_eq] at h2
  refine ⟨e, h1, h2.1.2, of_each h2.1.1, ?_⟩
  have h3 := h2.2
  split at h3
  · rename_i l hl
    cases hf : inHandler.fetch e.core (inHandler.asidOf (pass 1).crew.g) (pairPc l.t.trappc.toNat) with
    | inl f => simp [hf] at h3
    | inr y => exact ⟨l, y.1, y.2, hl, hf⟩
  · simp at h3

/-- AccessIssued, one instruction of each kind, its accesses performed later. -/
def accessOps (mod : BitVec 20) : Ops := { guarded with vd := ⟨false, 4⟩, vs2 := ⟨false, 0⟩, mod := mod }
def redOps : Ops := { accessOps 0 with vd := ⟨false, 0⟩ }
def accessCases : List (Nat × Ops × Instr) :=
  [(0x100, accessOps 0x2000C, .ld (accessOps 0x2000C)), (0x101, accessOps 0x0C, .st (accessOps 0x0C)), (0x102, accessOps 0, .ldt (accessOps 0)),
   (0x140, accessOps 0, .atom (accessOps 0)), (0x141, redOps, .red redOps)]
def later : State := { two with focus := .pass { pass 2 with defer := true } }
theorem witness_accesses : ∀ x ∈ accessCases, x.2.2.wellFormed = true ∧ opcodeOf x.2.2 = some (x.1, x.2.1) ∧ recordMode (later.modesOf 1) = 0
    ∧ ∃ e, Issues later { pass 2 with defer := true } x.1 x.2.1 noFaults e ∧ (e.lanes x.2.1).map Lane.exec = [true, false]
      ∧ ((e.lanes x.2.1).filter (fun l => l.exec)).Pairwise (fun l k => baseRule x.2.1 l ≠ baseRule x.2.1 k) := by
  intro x hx
  have h : ∀ y ∈ accessCases, (y.2.2.wellFormed && decide (opcodeOf y.2.2 = some (y.1, y.2.1)) && decide (recordMode (later.modesOf 1) = 0)
      && clean later { pass 2 with defer := true } y.1 y.2.1 noFaults (fun e => decide ((e.lanes y.2.1).map Lane.exec = [true, false]
        ∧ ((e.lanes y.2.1).filter (fun l => l.exec)).Pairwise (fun l k => baseRule y.2.1 l ≠ baseRule y.2.1 k)))) = true := by decide +kernel
  have := h x hx
  simp only [Bool.and_eq_true, decide_eq_true_eq] at this
  obtain ⟨e, h1, h2⟩ := of_clean this.2
  exact ⟨this.1.1.1, this.1.1.2, this.1.2, e, h1, of_decide_eq_true h2⟩

/-- An access under way in a thread of a page-mapped launch. -/
def accessAt (kind : AccKind) (ea size scope : Nat) : Access :=
  { kind := kind, pc := 0x40, ea := BitVec.ofNat 64 ea, size := size, scope := scope, data := 0x11223344556677889900AABBCCDDEEFF,
    dest := if kind.reads then groupOf 4 ((size + 3) / 4) else [], ldt := none }
def pendOf (a : Access) : Pend := { Pend.plain 5 77 0 0 (some 3) with todo := some a, access := true }
def withAccess (s : State) (a : Access) : State := { s.modThread (ref 0) (fun t => { t with pend := [pendOf a], flags := List.replicate 12 1 }) with focus := .none }
def kinds : List AccKind := [.load false true, .store false, .atom 0 3 false false, .atom 8 7 false false, .atom 11 15 false false]
def lineId (pa : Nat) : LineId := ((lineOf pa).map Prod.fst).getD ⟨0, 0⟩
def open_ : State := paged (state [thread [0, 0, 0, 0, 0, 0, 0, 0]])

def performs (s : State) (a : Access) (pl : Place) : Bool :=
  a.ldt.isNone && s.stands 1 && decide (s.placeOf (ref 0) a = .inr pl) && decide (s.passActs crewRef 77 = [(ref 0, pendOf a)].map (fun x => (x.1, x.2, a)))
    && decide (s.holders a pl = []) && !s.orderBlocked (ref 0) (pendOf a) a pl && decide (raceMode (s.modesOf 1) = 0) && !ringMode0 a.ea
    && (a.kind.reads || a.dest.isEmpty) && (match a.kind with
      | .atom op _ _ _ => decide (op ≤ 11)
      | .red op _ => decide (op ≤ 6)
      | _ => true)
    && ((s.thread? (ref 0)).map (fun x => decide (x.pend.find? (fun q => q.id == 5) = some (pendOf a)) && !x.trapDue)).getD false

theorem performs_of {s : State} {a : Access} {pl : Place} (h : performs s a pl = true) : ∃ x, Performs s (ref 0) x (pendOf a) a pl := by
  simp only [performs, Bool.and_eq_true, decide_eq_true_eq, Bool.not_eq_true', Option.isNone_iff_eq_none] at h
  obtain ⟨⟨⟨⟨⟨⟨⟨⟨⟨⟨h1, h2⟩, h3⟩, h4⟩, h5⟩, h6⟩, h7⟩, h8⟩, h9⟩, h10⟩, h11⟩ := h
  cases hx : s.thread? (ref 0) with
  | none => simp [hx] at h11
  | some x =>
    simp only [hx, Option.map_some, Option.getD_some, Bool.and_eq_true, decide_eq_true_eq, Bool.not_eq_true'] at h11
    refine ⟨x, ⟨hx, h11.1, rfl, h1, rfl, h2, h3, h4, h5, h6, ⟨h7, h11.2⟩, h8, ?_, ?_⟩⟩
    · intro hr
      simpa [hr] using h9
    · cases hk : a.kind <;> simp_all

/-- ScratchpadPerformed: the last bytes of a line of the thread's scratchpad; a byte load at the first of them. -/
theorem witness_pad : ∀ k ∈ kinds, ∃ x, Performs (withAccess open_ (accessAt k 0xFF0000000000017C 4 0)) (ref 0) x (pendOf (accessAt k 0xFF0000000000017C 4 0))
    (accessAt k 0xFF0000000000017C 4 0) (.pad ⟨1, 0⟩ 0x17C) ∧ 0x17C % 128 + 4 = 128 := by
  intro k hk
  obtain ⟨x, h⟩ := performs_of ((by decide +kernel : ∀ k ∈ kinds, performs (withAccess open_ (accessAt k 0xFF0000000000017C 4 0)) (accessAt k 0xFF0000000000017C 4 0) (.pad ⟨1, 0⟩ 0x17C) = true) k hk)
  exact ⟨x, h, rfl⟩

def dirtyLine (pa : Nat) : L1Line :=
  { line := lineId pa, st := .dirty, data := (List.range 128).map (fun i => BitVec.ofNat 8 (255 - i)), mask := 0x0F00, stamp := settledStamp 0,
    readDirty := false, keptW := 0, keptWO := 0, part := none, filler := 0 }
def cachedLine (pa : Nat) (s : State) : State := s.modCore 0 (fun c => { c with l1 := [dirtyLine pa] })

/-- L1Performed, at the end of a line; HomePerformed, of scope `.sec` and `.dev`. -/
theorem witness_l1 : ∀ k ∈ kinds, ∀ sc ∈ [1], let a := accessAt k 0x10017C 4 sc
    let s := withAccess (cachedLine 0x100100 open_) a
    (∃ x, Performs s (ref 0) x (pendOf a) a (.phys 0x10017C true)) ∧ a.scope ≤ 1 ∧ lineOf 0x10017C = some (lineId 0x100100, 124)
    ∧ s.l1Line (s.coreOf (ref 0).block) (lineId 0x100100) = some (dirtyLine 0x100100) ∧ (dirtyLine 0x100100).data.length = 128
    ∧ (dirtyLine 0x100100).st ≠ .updateOnly ∧ (s.homeLine (lineId 0x100100)).uo = none ∧ (s.homeLine (lineId 0x100100)).holders = []
    ∧ (s.homeLine (lineId 0x100100)).bad = none ∧ s.marked (lineId 0x100100) = false ∧ recordMode (s.modesOf 1) = 0 := by
  intro k hk sc hs a s
  have := (by decide +kernel : ∀ k ∈ kinds, ∀ sc ∈ [1], let a := accessAt k 0x10017C 4 sc
    let s := withAccess (cachedLine 0x100100 open_) a
    performs s a (.phys 0x10017C true) = true ∧ a.scope ≤ 1 ∧ lineOf 0x10017C = some (lineId 0x100100, 124)
    ∧ s.l1Line (s.coreOf (ref 0).block) (lineId 0x100100) = some (dirtyLine 0x100100) ∧ (dirtyLine 0x100100).data.length = 128
    ∧ (dirtyLine 0x100100).st ≠ .updateOnly ∧ (s.homeLine (lineId 0x100100)).uo = none ∧ (s.homeLine (lineId 0x100100)).holders = []
    ∧ (s.homeLine (lineId 0x100100)).bad = none ∧ s.marked (lineId 0x100100) = false ∧ recordMode (s.modesOf 1) = 0) k hk sc hs
  exact ⟨performs_of this.1, this.2⟩

theorem witness_home : ∀ k ∈ kinds, ∀ sc ∈ [2], let a := accessAt k 0x10017C 4 sc
    let s := withAccess open_ a
    (∃ x, Performs s (ref 0) x (pendOf a) a (.phys 0x10017C true)) ∧ 2 ≤ a.scope ∧ a.kind.acquires = false ∧ a.kind.releases = false
    ∧ lineOf 0x10017C = some (lineId 0x100100, 124) ∧ s.l1Line (s.coreOf (ref 0).block) (lineId 0x100100) = none
    ∧ (s.homeLine (lineId 0x100100)).uo = none ∧ (s.homeLine (lineId 0x100100)).holders = [] ∧ (s.homeLine (lineId 0x100100)).bad = none
    ∧ s.marked (lineId 0x100100) = false ∧ recordMode (s.modesOf 1) = 0 := by
  intro k hk sc hs a s
  have := (by decide +kernel : ∀ k ∈ kinds, ∀ sc ∈ [2], let a := accessAt k 0x10017C 4 sc
    let s := withAccess open_ a
    performs s a (.phys 0x10017C true) = true ∧ 2 ≤ a.scope ∧ a.kind.acquires = false ∧ a.kind.releases = false
    ∧ lineOf 0x10017C = some (lineId 0x100100, 124) ∧ s.l1Line (s.coreOf (ref 0).block) (lineId 0x100100) = none
    ∧ (s.homeLine (lineId 0x100100)).uo = none ∧ (s.homeLine (lineId 0x100100)).holders = [] ∧ (s.homeLine (lineId 0x100100)).bad = none
    ∧ s.marked (lineId 0x100100) = false ∧ recordMode (s.modesOf 1) = 0) k hk sc hs
  exact ⟨performs_of this.1, this.2⟩

/-- SpillWait: the combine unit holds 8,192 buffers and its spill area is full. -/
def redAccess : Access := accessAt (.red 0 3) 0x100 4 2
def held : HomeLine := { HomeLine.fresh ⟨(lineId 0x100).hub, 99⟩ 0 with uo := some { op := 0, ty := 3, elems := [] } }
def cachedPage (s : State) : State :=
  s.modCore 0 (fun c => { c with tlb := [⟨0, 0, { size := 0, ppn := 0, homev := false, home := 0, cache := 0, x := true, w := true, r := true }⟩] })
def spillingWith (xs : List HomeLine) : State :=
  { withAccess (cachedPage (state [thread [0, 0]])) redAccess with l3 := xs, hubs := List.replicate 6 { Hub.reset with spill := 0 } }
def spilling : State := spillingWith (List.replicate 8192 held)
theorem spilling_rest (xs : List HomeLine) : (∃ x, (spillingWith xs).thread? (ref 0) = some x ∧ x.pend.find? (fun q => q.id == 5) = some (pendOf redAccess) ∧ x.flags.length = 12)
    ∧ (spillingWith xs).cmd? (ref 0).block 5 = none ∧ (spillingWith xs).placeOf (ref 0) redAccess = .inr (.phys 0x100 true) :=
  ⟨⟨{ thread [0, 0] with pend := [pendOf redAccess], flags := List.replicate 12 1 }, rfl, rfl, rfl⟩, rfl, rfl⟩
theorem count_replicate {α : Type} (p : α → Bool) (f : α → Nat) (n : Nat) (x : α) (hp : p x = true) (hf : f x = 1) :
    (((List.replicate n x).filter p).map f).sum = n := by
  induction n with
  | zero => rfl
  | succ n ih => rw [List.replicate_succ, List.filter_cons_of_pos hp, List.map_cons, List.sum_cons, ih, hf, Nat.add_comm]

theorem witness_spill : spilling.canBuffer (lineId 0x100) 3 = false
    ∧ (∃ x, spilling.thread? (ref 0) = some x ∧ x.pend.find? (fun q => q.id == 5) = some (pendOf redAccess) ∧ x.flags.length = 12)
    ∧ spilling.cmd? (ref 0).block 5 = none ∧ spilling.placeOf (ref 0) redAccess = .inr (.phys 0x100 true) ∧ lineOf 0x100 = some (lineId 0x100, 0) := by
  obtain ⟨r1, r2, r3⟩ := spilling_rest (List.replicate 8192 held)
  refine ⟨?_, r1, r2, r3, by decide +kernel⟩
  have h1 : spilling.l3 = List.replicate 8192 held := rfl
  have h2 : (spilling.hub (lineId 0x100).hub).spill = 0 := by decide +kernel
  have h3 : (held.line == lineId 0x100) = false := by decide +kernel
  have h4 : (held.line.hub == (lineId 0x100).hub && held.uo.isSome && !held.spilled) = true := by decide +kernel
  have h5 : held.bufferNeed 3 = 1 := by decide +kernel
  have h6 : spilling.homeLine (lineId 0x100) = HomeLine.fresh (lineId 0x100) (spilling.hub (lineId 0x100).hub).sc := by
    have : spilling.l3.find? (fun h => h.line == lineId 0x100) = none := by
      rw [h1, List.find?_eq_none]
      intro y hy
      rw [List.eq_of_mem_replicate hy, h3]
      exact Bool.false_ne_true
    rw [State.homeLine, this]
    rfl
  have h7 : spilling.buffers (lineId 0x100).hub = 8192 := by rw [State.buffers, h1, count_replicate _ _ 8192 held h4 h5]
  have h8 : (HomeLine.fresh (lineId 0x100) (spilling.hub (lineId 0x100).hub).sc).bufferNeed 3 = 1 := rfl
  simp only [State.canBuffer, State.spillFree, h2, State.spillNeed, h6, h7, h8]
  split
  · rename_i h
    simp [HomeLine.fresh] at h
  · split <;> rfl

/-- OperationCompletes: a result and an access that has been performed; the first in a thread that waits for it too; one of its registers has been written by
a later instruction, and so has one of its crew's. -/
def latePend : Pend := { Pend.plain 5 7 0 0 (some 2) with writes := [(2, 0x55), (3, 0x66)], kwrites := [(1, 0x77), (2, 0x88)], gone := [3], pass := 4 }
def lateThread (w : Wait) : Thread := { thread [1, 2, 3, 4] with wait := w, flags := List.replicate 12 1, pend := [latePend] }
def completing (w : Wait) : State :=
  { (state [lateThread w]).modCrew crewRef (fun c => { c with klate := [⟨2, 0x99, 0, 128 * 9⟩] }) with focus := .none }
def lateForm (x : Thread) (p : Pend) : Bool :=
  decide (x.flags.length = 12) && decide (p.writes.map Prod.fst).Nodup && p.writes.all (fun w => decide (w.1.toNat < x.regs.length)) && decide (p.kwrites.map Prod.fst).Nodup
theorem lateForm_of {x : Thread} {p : Pend} (h : lateForm x p = true) : Claims.LateForm x p := by
  simp only [lateForm, Bool.and_eq_true, decide_eq_true_eq, List.all_eq_true] at h
  exact ⟨h.1.1.1, ⟨h.1.1.2, h.1.2⟩, h.2⟩
theorem witness_completion (w : Wait) : (completing w).thread? (ref 0) = some (lateThread w) ∧ (lateThread w).pend.find? (fun q => q.id == 5) = some latePend
    ∧ latePend.sreg = none ∧ latePend.cctl = none ∧ latePend.todo = none ∧ Claims.LateForm (lateThread w) latePend ∧ latePend.gone = [3] :=
  ⟨rfl, rfl, rfl, rfl, rfl, ⟨List.length_replicate, ⟨by decide, fun u hu => of_decide_eq_true (List.all_eq_true.mp (by decide : latePend.writes.all (fun u => decide (u.1.toNat < 4)) = true) u hu)⟩, by decide⟩, rfl⟩
theorem witness_completion_crew : ((completing .none).crew? crewRef).map (fun c => latePend.kwrites.map (fun k => (decide (k.1.toNat < c.kregs.length), Claims.laterWrite c latePend k.1)))
    = some [(true, false), (true, true)] := by decide +kernel

/-! ## Barriers, counters, blocks -/

def barOps (scope id : Nat) : Ops := { noOps with len := .w96, flag := none, mod := BitVec.ofNat 20 (scope * 2 ^ 10 + id * 2 ^ 16) }
/-- `.cnt` with the count of the operand, in a phase that has it fixed. -/
def cntOps : Ops := { barOps 1 3 with mod := 0x38400, guard := ⟨0, 1, false⟩ }
def fixedAt (s : State) : State := s.modBar (.blk 1 0 3) (fun b => { b with fixed := some 2 })

def goodCount (s : State) (o : Ops) (e : Env) (n : Nat) : Bool :=
  each e o (fun l => countNamed s o e.pass.crew l = n) && decide (modBit o 15 = true → n ≤ (if modBits o 12 10 = 1 then 64 else if modBits o 12 10 = 2 then 6144 else 0))
    && decide ((s.bar (barNamed s o e.pass.crew)).fixed = none ∨ (s.bar (barNamed s o e.pass.crew)).fixed = some n)
theorem goodCount_of {s : State} {o : Ops} {e : Env} {n : Nat} (h : goodCount s o e n = true) : GoodCount s o e n := by
  simp only [goodCount, Bool.and_eq_true, decide_eq_true_eq] at h
  exact ⟨of_each h.1.1, h.1.2, h.2⟩

def hasBarB (s : State) : BarRef → Bool
  | .blk g k i => ((s.block? ⟨g, k⟩).map (fun b => decide (i < b.bars.length))).getD false
  | .sec g i => ((s.group? g).map (fun x => decide (i < x.bars.length))).getD false
  | .dev n i => ((s.launch? n).map (fun l => decide (i < l.bars.length))).getD false
theorem hasBar_of {s : State} {r : BarRef} (h : hasBarB s r = true) : hasBar s r := by cases r <;> exact some_with h

/-- BarrierInstructions: the last barrier of each scope, and a declared count; BAR.ARR (0x144) and BAR.SYNC (0x146). -/
def barCases : List (State × Ops × Nat) := [(two, barOps 1 15, 0), (two, barOps 2 7, 0), (two, barOps 3 0, 0), (two, cntOps, 2), (fixedAt two, cntOps, 2)]
theorem witness_barriers : ∀ x ∈ barCases, ∀ code ∈ [0x144, 0x146], (Instr.barArr x.2.1).wellFormed = true ∧ (Instr.barSync x.2.1).wellFormed = true
    ∧ hasBar x.1 (barNamed x.1 x.2.1 crewRef) ∧ (x.1.bar (barNamed x.1 x.2.1 crewRef)).done = []
    ∧ ∃ e, Issues x.1 (pass 2) code x.2.1 noFaults e ∧ GoodCount x.1 x.2.1 e x.2.2 ∧ (e.lanes x.2.1).any Lane.exec = true := by
  intro x hx code hc
  have h : ∀ x ∈ barCases, ∀ code ∈ [0x144, 0x146], ((Instr.barArr x.2.1).wellFormed = true ∧ (Instr.barSync x.2.1).wellFormed = true)
      ∧ hasBarB x.1 (barNamed x.1 x.2.1 crewRef) = true ∧ (x.1.bar (barNamed x.1 x.2.1 crewRef)).done = []
      ∧ clean x.1 (pass 2) code x.2.1 noFaults (fun e => goodCount x.1 x.2.1 e x.2.2 && (e.lanes x.2.1).any Lane.exec) = true := by decide +kernel
  obtain ⟨h1, h2, h3, h4⟩ := h x hx code hc
  obtain ⟨e, h5, h6⟩ := of_clean h4
  simp only [Bool.and_eq_true] at h6
  exact ⟨h1.1, h1.2, hasBar_of h2, h3, e, h5, goodCount_of h6.1, h6.2⟩

/-- BAR.WAIT on a phase that is complete and on one that is open. -/
def arrived (done : List (Word × Word)) : State :=
  (state [{ thread [0, 0] with arrivals := [⟨.blk 1 0 2, 0, false⟩] }]).modBar (.blk 1 0 2) (fun b => { b with done := done })
theorem witness_bar_wait : ∀ done ∈ [[], [((0 : Word), (9 : Word))]], ∃ e, Issues (arrived done) (pass 1) 0x145 (barOps 1 2) noFaults e
    ∧ ((e.lanes (barOps 1 2)).filter (fun l => l.exec)).map (fun l => l.t.arrivals.find? (fun a => a.bar == barNamed (arrived done) (barOps 1 2) crewRef && !a.waited))
        = [some ⟨.blk 1 0 2, 0, false⟩]
    ∧ ((arrived done).bar (barNamed (arrived done) (barOps 1 2) crewRef)).done.find? (fun d => d.1 == 0) = done.head? := by
  intro done hd
  have h : ∀ done ∈ [[], [((0 : Word), (9 : Word))]], clean (arrived done) (pass 1) 0x145 (barOps 1 2) noFaults (fun e =>
      decide (((e.lanes (barOps 1 2)).filter (fun l => l.exec)).map (fun l => l.t.arrivals.find? (fun a => a.bar == barNamed (arrived done) (barOps 1 2) crewRef && !a.waited))
        = [some ⟨.blk 1 0 2, 0, false⟩]
      ∧ ((arrived done).bar (barNamed (arrived done) (barOps 1 2) crewRef)).done.find? (fun d => d.1 == 0) = done.head?)) = true := by decide +kernel
  exact of_cleanD (h done hd)

/-- BarrierCompletes: a block barrier whose crew has arrived, one of its three threads having exited, and one that still lacks a thread. -/
def phase (exited : Bool) : State :=
  let r : BarRef := .blk 1 0 2
  let s := state [{ thread [0] with wait := .bar r 0 5 }, { thread [0] with wait := .bar r 0 5 }, { thread [0] with exited := exited }]
  { s.modBar r (fun b => { b with arr := [⟨ref 0, 3, 4, 0⟩, ⟨ref 1, 5, 1, 0⟩] }) with focus := .none }
theorem witness_phase : ∀ x ∈ [true, false], let s := phase x
    let r : BarRef := .blk 1 0 2
    hasBar s r ∧ (s.bar r).arr = [⟨ref 0, 3, 4, 0⟩, ⟨ref 1, 5, 1, 0⟩] ∧ (s.bar r).fixed.getD 0 = 0 ∧ s.rotated r = [] ∧ s.allStanding r = true
    ∧ (∀ x ∈ (s.bar r).arr, ∃ c ∈ s.barCrews r, x.who.crew = c.1) ∧ ((s.barCrews r).map Prod.fst).Nodup
    ∧ (x = true → (∀ c ∈ s.barCrews r, ∀ x ∈ c.2.allThreads c.1, x.2.exited = true ∨ ∃ y ∈ (s.bar r).arr, y.who = x.1)
        ∧ (∀ c ∈ s.barCrews r, c.2.gone = true ∨ ∃ y ∈ (s.bar r).arr, y.who.crew = c.1)
        ∧ ∃ c ∈ s.barCrews r, ∃ x ∈ c.2.allThreads c.1, s.thread? x.1 = some x.2 ∧ x.2.wait = .bar r (s.bar r).phase 5)
    ∧ (x = false → ∃ c ∈ s.barCrews r, c.2.gone = false ∧ ∃ x ∈ c.2.allThreads c.1, x.2.exited = false ∧ ∀ y ∈ (s.bar r).arr, y.who ≠ x.1) := by
  intro x hx
  refine ⟨hasBar_of ((by decide +kernel : ∀ x ∈ [true, false], hasBarB (phase x) (.blk 1 0 2) = true) x hx), ?_⟩
  revert x
  decide +kernel

/-- BarrierRotates: barrier 2 rotates region 0 of three stages from the last of them; region 2 has another barrier. -/
def rotating : State :=
  let s := phase true
  { (s.modBlock ⟨1, 0⟩ (fun b => { b with rings := List.replicate 8 { Ring.reset 0 with stroke := 2, rot := 7 } })) with
    launches := [{ loadLaunch 0 with p := { (loadLaunch 0).p with rings := [some ⟨0, 1024, 3, 2⟩, none, some ⟨4096, 1024, 2, 3⟩] ++ List.replicate 5 none } }] }
theorem witness_rotation : (∃ b, rotating.block? ⟨1, 0⟩ = some b ∧ 2 < b.bars.length ∧ b.rings.length = 8
      ∧ ∀ x ∈ (rotating.bar (.blk 1 0 2)).arr, x.who.g = 1 ∧ x.who.k = 0 ∧ x.who.c < b.crews.length)
    ∧ (∃ l, rotating.launchOf 1 = some l ∧ l.p.rings.length = 8) ∧ (rotating.bar (.blk 1 0 2)).arr ≠ [] ∧ (rotating.bar (.blk 1 0 2)).fixed.getD 0 = 0
    ∧ rotating.replays 1 = false ∧ recordMode (rotating.modesOf 1) = 0
    ∧ ∀ c ∈ rotating.barCrews (.blk 1 0 2), c.2.gone = true ∨ crewArrived (rotating.bar (.blk 1 0 2)) c.1 c.2 = true :=
  ⟨some_with (by decide +kernel), some_with (by decide +kernel), by decide +kernel, by decide +kernel, by decide +kernel, by decide +kernel, by decide +kernel⟩

/-- CounterWaits: a counter of the thread's own scratchpad at 0x80, met and not met; and rereads of a waiting CTRWAIT. -/
def counting (v target : Nat) : State :=
  (state [thread [0x80, 0xFF000000, w32 target, 0, 7, 7]]).modBlock ⟨1, 0⟩ (fun b => { b with scratch := b.scratch.writeN 0x80 (leBytes 8 v) })
def ctrOps : Ops := { ops with vd := ⟨false, 4⟩, vs2 := ⟨false, 2⟩, vs3 := ⟨false, 0⟩ }
def ctrPad (s : State) (ea : DWord) : Bool :=
  decide (s.locate (s.asker (ref 0)) ea 8 8 0 (fun ap => ap == .global || ap == .stack || ap == .peerGlobal || ap == .own) false = .inr (.pad ⟨1, 0⟩ 0x80))
theorem witness_counter : ∀ v ∈ [8, 7], ∃ e, Issues (counting v 8) (pass 1) 0x147 ctrOps noFaults e ∧ counterWord (counting v 8) ⟨1, 0⟩ 0x80 = v
    ∧ raceMode ((counting v 8).modesOf 1) = 0 ∧ (((e.lanes ctrOps).filter (fun x => x.exec)).map (fun l => (l.ref, l.t.pend, l.t.trapDue, l.src.b % 2 ^ 64))) = [(ref 0, [], false, 8)]
    ∧ ((e.lanes ctrOps).filter (fun x => x.exec)).all (fun l => ctrPad (counting v 8) (BitVec.ofNat 64 l.src.a)) = true := by
  intro v hv
  have h : ∀ v ∈ [8, 7], clean (counting v 8) (pass 1) 0x147 ctrOps noFaults (fun e => decide (counterWord (counting v 8) ⟨1, 0⟩ 0x80 = v
    ∧ raceMode ((counting v 8).modesOf 1) = 0 ∧ (((e.lanes ctrOps).filter (fun x => x.exec)).map (fun l => (l.ref, l.t.pend, l.t.trapDue, l.src.b % 2 ^ 64))) = [(ref 0, [], false, 8)]
    ∧ ((e.lanes ctrOps).filter (fun x => x.exec)).all (fun l => ctrPad (counting v 8) (BitVec.ofNat 64 l.src.a)) = true)) = true := by decide +kernel
  exact of_cleanD (h v hv)
def waiting (v : Nat) : State :=
  (counting v 8).modThread (ref 0) (fun t => { t with wait := .ctr 0xFF00000000000080 8 4 1 (some 7) 5, pend := [Pend.plain 5 7 0 0 (some 3)] })
theorem witness_reread : ∀ v ∈ [8, 7], ctrPad (waiting v) 0xFF00000000000080 = true ∧ raceMode ((waiting v).modesOf 1) = 0 ∧ counterWord (waiting v) ⟨1, 0⟩ 0x80 = v ∧ 7 ≤ v ∧ v < 2 ^ 64 - 1
    ∧ ∃ x, (waiting v).thread? (ref 0) = some x ∧ x.wait = .ctr 0xFF00000000000080 8 4 1 (some 7) 5 ∧ x.pend = [Pend.plain 5 7 0 0 (some 3)] ∧ x.trapDue = false := by
  have h : ∀ v ∈ [8, 7], ctrPad (waiting v) 0xFF00000000000080 = true ∧ raceMode ((waiting v).modesOf 1) = 0 ∧ counterWord (waiting v) ⟨1, 0⟩ 0x80 = v ∧ 7 ≤ v ∧ v < 2 ^ 64 - 1
    ∧ (((waiting v).thread? (ref 0)).map (fun x => decide (x.wait = .ctr 0xFF00000000000080 8 4 1 (some 7) 5 ∧ x.pend = [Pend.plain 5 7 0 0 (some 3)] ∧ x.trapDue = false))).getD false = true := by
    decide +kernel
  exact fun v hv => ⟨(h v hv).1, (h v hv).2.1, (h v hv).2.2.1, (h v hv).2.2.2.1, (h v hv).2.2.2.2.1, some_with (h v hv).2.2.2.2.2⟩

/-- BlockEnds: its crew has given up its slot; a slot of another crew stays. -/
def ending : State :=
  ((state [{ thread [0] with exited := true }]).modBlock ⟨1, 0⟩ (fun b => { b with crews := b.crews.map (fun c => { c with released := true }) })).modCore 0
    (fun c => { c with slots := [⟨1, ⟨1, 0, 0⟩, 0, Memory.empty⟩, ⟨2, ⟨2, 0, 0⟩, 0, Memory.empty⟩] })
theorem witness_block_end : (∃ x, ending.block? ⟨1, 0⟩ = some x ∧ x.ended = false ∧ x.crews.all (fun c => c.released) = true ∧ x.cmds = [] ∧ (ending.core x.core).ops = []
      ∧ ∀ c ∈ x.crews, ∀ th ∈ c.threads, th.pend = [])
    ∧ ∃ g, ending.group? 1 = some g ∧ g.placed = true ∧ (ending.launch? g.launch).isSome = true :=
  ⟨some_with (by decide +kernel), some_with (by decide +kernel)⟩

/-! ## Matrix operations -/

/-- The pass issues a collective instruction in every thread, and `C` holds of what it finds. -/
def cleanAll (s : State) (p : Pass) (code : Nat) (o : Ops) (c : Env → Bool) : Bool :=
  match s.env? p code o with
  | none => false
  | some e => decide (s.focus = .pass p) && decide p.lanes.Nodup && !(e.lanes o).isEmpty
      && (e.lanes o).all (fun l => !e.consumes o l && (e.faults o l (fun _ => [])).isEmpty && l.t.mayIssue && l.exec) && c e
theorem of_cleanAll {s : State} {p : Pass} {code : Nat} {o : Ops} {C : Env → Prop} [DecidablePred C] (h : cleanAll s p code o (fun e => decide (C e)) = true) :
    ∃ e, IssuesAll s p code o e ∧ C e := by
  unfold cleanAll at h
  split at h
  · simp at h
  · rename_i e he
    simp only [Bool.and_eq_true, decide_eq_true_eq, List.all_eq_true, Bool.not_eq_true', List.isEmpty_eq_false_iff, List.isEmpty_iff] at h
    obtain ⟨⟨⟨⟨h1, h2⟩, h3⟩, h4⟩, h5⟩ := h
    exact ⟨e, ⟨h1, he, h2, h3, fun l hl => ⟨(h4 l hl).1.1.1, (h4 l hl).1.1.2, (h4 l hl).1.2⟩, fun l hl => (h4 l hl).2⟩, h5⟩

def whole : Pass := { pass 128 with collective := true }
def matOps : Ops := { noOps with flag := some 3, vd := ⟨false, 3⟩ }
def wideOps : Ops := { matOps with len := .w96, vs1 := ⟨true, 0⟩ }
def ardOps : Ops := { matOps with vd := ⟨false, 0⟩ }
def matCases : List (Nat × Ops × Instr) :=
  [(0x180, matOps, .oclaim matOps), (0x181, matOps, .orelease matOps), (0x182, wideOps, .ohdr wideOps), (0x183, wideOps, .old wideOps), (0x184, matOps, .aclaim matOps),
   (0x185, matOps, .arelease matOps), (0x186, matOps, .azero matOps), (0x187, wideOps, .ald wideOps), (0x188, wideOps, .ast wideOps), (0x189, ardOps, .ard ardOps),
   (0x18A, matOps, .mma matOps), (0x18B, matOps, .mmas matOps), (0x18C, matOps, .mmag matOps), (0x18D, matOps, .mmags matOps)]

/-- MatrixIssued: the 128 threads agree on ARD's row group, 15; the products with a gang are of a launch that has gangs of two blocks. -/
def full : State :=
  { state (List.replicate 128 (thread [15, 0, 0, 0])) with focus := .pass whole, launches := [{ loadLaunch 0 with p := { (loadLaunch 0).p with grows := 1, gcols := 2 } }] }
theorem witness_matrix : full.gangSize 1 ≠ 0 ∧ (full.crew? crewRef).isSome = true ∧ (full.core 0).ops = [] ∧ full.cores = []
    ∧ ∀ x ∈ matCases, x.2.2.wellFormed = true ∧ opcodeOf x.2.2 = some (x.1, x.2.1) ∧ ∃ e, IssuesAll full whole x.1 x.2.1 e ∧ e.core = 0
      ∧ (e.lanes x.2.1).length = 128 ∧ (e.lanes x.2.1).all (fun l => x.1 != 0x189 || decide (l.src.b % 2 ^ 32 = 15)) = true := by
  refine ⟨by decide +kernel, by decide +kernel, by decide +kernel, by decide +kernel, fun x hx => ?_⟩
  have h : matCases.all (fun x => x.2.2.wellFormed && decide (opcodeOf x.2.2 = some (x.1, x.2.1)) && cleanAll full whole x.1 x.2.1 (fun e => decide (e.core = 0
      ∧ (e.lanes x.2.1).length = 128 ∧ (e.lanes x.2.1).all (fun l => x.1 != 0x189 || decide (l.src.b % 2 ^ 32 = 15)) = true))) = true := by decide +kernel
  have := List.all_eq_true.mp h x hx
  simp only [Bool.and_eq_true, decide_eq_true_eq] at this
  exact ⟨this.1.1, this.1.2, of_cleanAll this.2⟩

def matOp (k : MatKind) (id : Nat) : MatOp :=
  { id := id, crew := crewRef, kind := k, flag := some 3, pc := 0, ident := 0, oC := 0, sC := 0, accepted := false, range := none, eop := 0, held := [], pos := 0 }
/-- Operations under way on core 0, of a crew of two threads, with its slots and accumulators. -/
def engine (ops : List MatOp) (slots : List Slot) (accs : List Acc) : State :=
  let s := state (List.replicate 2 { thread [0, 0, 0, 0, 0, 0, 0, 0] with pend := [Pend.plain 5 7 3 0 (some 3)], flags := List.replicate 12 1 })
  { s.modCore 0 (fun c => { c with ops := ops, slots := slots, accs := accs }) with
    focus := .none, serial := 50, launches := [{ loadLaunch 0 with p := { (loadLaunch 0).p with gran := 64 } }] }
def slotOf (n : Nat) (header : DWord) : Slot := ⟨n, crewRef, header, Memory.empty⟩
def accOf (n : Nat) : Acc := ⟨n, crewRef, [(3, 5)]⟩

/-- ClaimGranted: of slots and of accumulators, granted and held by another crew's resource. -/
def claimOp (acc : Bool) : MatOp := matOp (.claim acc 3 2) 5
def claiming (acc free : Bool) : State :=
  engine [claimOp acc] (if acc || free then [] else [⟨4, ⟨1, 0, 1⟩, 0, Memory.empty⟩]) (if acc && !free then [⟨4, ⟨1, 0, 1⟩, []⟩] else [])
theorem witness_claim (acc free : Bool) : (claiming acc free).findOp 0 5 = some (claimOp acc) ∧ (claiming acc free).engineRuns crewRef.block = true
    ∧ ((claiming acc free).launchOf 1).isSome = true ∧ (claiming acc free).readsHeld (claimOp acc) = false ∧ (∀ y ∈ ((claiming acc free).core 0).ops, y.id < 5 → False)
    ∧ (free = true → ((claiming acc free).core 0).accs = [] ∧ ((claiming acc free).core 0).slots = [])
    ∧ (free = false → ∃ i < 2, if acc then ∃ y ∈ ((claiming acc free).core 0).accs, y.num = 3 + i ∧ y.owner ≠ crewRef
        else ∃ y ∈ ((claiming acc free).core 0).slots, y.num = 3 + i ∧ y.owner ≠ crewRef) := by
  have h : ∀ acc ∈ [true, false], ∀ free ∈ [true, false], (claiming acc free).findOp 0 5 = some (claimOp acc) ∧ (claiming acc free).engineRuns crewRef.block = true
    ∧ ((claiming acc free).launchOf 1).isSome = true ∧ (claiming acc free).readsHeld (claimOp acc) = false ∧ (∀ y ∈ ((claiming acc free).core 0).ops, y.id < 5 → False)
    ∧ (free = true → ((claiming acc free).core 0).accs = [] ∧ ((claiming acc free).core 0).slots = [])
    ∧ (free = false → (acc = true → ∃ y ∈ ((claiming acc free).core 0).accs, y.num = 3 + 1 ∧ y.owner ≠ crewRef)
        ∧ (acc = false → ∃ y ∈ ((claiming acc free).core 0).slots, y.num = 3 + 1 ∧ y.owner ≠ crewRef)) := by decide +kernel
  obtain ⟨h1, h2, h3, h0, h4, h5, h6⟩ := h acc (by cases acc <;> decide) free (by cases free <;> decide)
  refine ⟨h1, h2, h3, h0, h4, h5, fun hh => ⟨1, by decide, ?_⟩⟩
  cases acc with
  | true => exact (h6 hh).1 rfl
  | false => exact (h6 hh).2 rfl

def turn (s : State) (x : MatOp) : Bool :=
  decide (s.findOp 0 x.id = some x) && s.engineRuns x.crew.block && !s.orderAhead 0 x && (s.opHolders 0 x).isEmpty && (!x.engine || s.engineMay x.crew x.eop)
    && !s.readsHeld x && (s.launchOf x.crew.g).isSome
theorem turn_of {s : State} {x : MatOp} (h : turn s x = true) : Turn6 s 0 x := by
  simp only [turn, Bool.and_eq_true, decide_eq_true_eq, Bool.not_eq_true', List.isEmpty_iff, Bool.or_eq_true] at h
  obtain ⟨⟨⟨⟨⟨⟨h1, h2⟩, h3⟩, h4⟩, h5⟩, h6⟩, h7⟩ := h
  exact ⟨h1, h2, h3, h4, fun he => h5.resolve_left (by simp [he]), h6, h7⟩

/-- ResourcesOwned and DataMoves: operations whose turn has come, on a slot and an accumulator that the crew owns. -/
def headerA : DWord := BitVec.ofNat 64 (1 + 32 * 2 ^ 12 + 127 * 2 ^ 22)
def headerB : DWord := BitVec.ofNat 64 (5 + 2 ^ 11 + 32 * 2 ^ 12 + 127 * 2 ^ 22)
def turnOps : List MatKind :=
  [.release false 3 1, .release true 3 1, .ohdr 3 headerB, .azero 3, .ard 2 3 15, .old 3 0xFF00000000000100, .ald 3 16 0xFF00000000000100,
   .ald 3 11 0xFF00000000000100, .ast 3 11 0xFF00000000000100, .ast 3 17 0xFF00000000000100]
def turning (k : MatKind) (p : Nat) : State := engine [{ matOp k 5 with pos := p }] [slotOf 3 headerA] [accOf 3]
theorem witness_turn : ∀ k ∈ turnOps, ∀ p ∈ [0, 4096], Turn6 (turning k p) 0 { matOp k 5 with pos := p } ∧ OwnsSlot (turning k p) 0 crewRef 3 (slotOf 3 headerA) ∧ OwnsAcc (turning k p) 0 crewRef 3 (accOf 3)
    ∧ headerBad headerA = none ∧ ((turning k p).block? crewRef.block).isSome = true ∧ ((turning k p).thread? (crewRef.thread 1)).isSome = true
    ∧ (turning k p).moveSide { matOp k 5 with pos := p } 0xFF00000000000100 (tileBytes headerA) 0 = .inr 0x100
    ∧ (turning k p).moveSide { matOp k 5 with pos := p } 0xFF00000000000100 (8192 * 4) 0 = .inr 0x100 ∧ (turning k p).moveSide { matOp k 5 with pos := p } 0xFF00000000000100 (8192 * 4) 1 = .inr 0x100
    ∧ (turning k p).moveSide { matOp k 5 with pos := p } 0xFF00000000000100 (8192 * 2) 0 = .inr 0x100 ∧ (turning k p).moveSide { matOp k 5 with pos := p } 0xFF00000000000100 (8192 * 2) 1 = .inr 0x100 := by
  have h : ∀ k ∈ turnOps, ∀ p ∈ [0, 4096], turn (turning k p) { matOp k 5 with pos := p } = true ∧ (((turning k p).core 0).slots.find? (fun z => z.num == 3) = some (slotOf 3 headerA) ∧ (slotOf 3 headerA).owner = crewRef)
    ∧ (((turning k p).core 0).accs.find? (fun z => z.num == 3) = some (accOf 3) ∧ (accOf 3).owner = crewRef)
    ∧ headerBad headerA = none ∧ ((turning k p).block? crewRef.block).isSome = true ∧ ((turning k p).thread? (crewRef.thread 1)).isSome = true
    ∧ (turning k p).moveSide { matOp k 5 with pos := p } 0xFF00000000000100 (tileBytes headerA) 0 = .inr 0x100
    ∧ (turning k p).moveSide { matOp k 5 with pos := p } 0xFF00000000000100 (8192 * 4) 0 = .inr 0x100 ∧ (turning k p).moveSide { matOp k 5 with pos := p } 0xFF00000000000100 (8192 * 4) 1 = .inr 0x100
    ∧ (turning k p).moveSide { matOp k 5 with pos := p } 0xFF00000000000100 (8192 * 2) 0 = .inr 0x100 ∧ (turning k p).moveSide { matOp k 5 with pos := p } 0xFF00000000000100 (8192 * 2) 1 = .inr 0x100 := by
    decide +kernel
  exact fun k hk p hp => ⟨turn_of (h k hk p hp).1, (h k hk p hp).2⟩

/-- ProductCourse: a product of one crew, and a pair of a gang of two blocks on cores 0 and 1; `n` products stand accepted before it. -/
def product (k : Nat) (gang accepted : Bool) : MatOp := { matOp (.mma false gang 3 4 5 9) (5 + k) with crew := ⟨1, k, 0⟩, accepted := accepted }
def unit (k : Nat) (gang accepted : Bool) (n : Nat) (c : Core) : Core :=
  { c with
    ops := List.replicate n { matOp (.mma false false 0 1 2 0) 1 with crew := ⟨1, k, 1⟩, accepted := true } ++ [product k gang accepted]
    slots := [⟨4, ⟨1, k, 0⟩, headerA, Memory.empty⟩, ⟨5, ⟨1, k, 0⟩, headerB, Memory.empty⟩], accs := [⟨3, ⟨1, k, 0⟩, [(3, 5)]⟩] }
def products (gang accepted : Bool) (n : Nat) : State :=
  let s := { state [thread [0]] with
    focus := .none, serial := 50, groups := [group [block [crew [thread [0]]], { block [crew [thread [0]]] with core := 1 }]],
    launches := [{ loadLaunch 0 with p := { (loadLaunch 0).p with grows := 1, gcols := 2 } }] }
  (s.modCore 0 (unit 0 gang accepted n)).modCore 1 (unit 1 gang accepted 0)
def paired (gang : Bool) (accepted : Bool) : List (Nat × MatOp) := if gang then [(0, product 0 gang accepted), (1, product 1 gang accepted)] else [(0, product 0 gang accepted)]

theorem witness_accept : ∀ gang ∈ [true, false], ∀ n ∈ [0, 15, 16], (products gang false n).findOp 0 5 = some (product 0 gang false)
    ∧ (products gang false n).engineRuns ⟨1, 0⟩ = true ∧ paired gang false = (if gang then (products gang false n).gangOps (product 0 gang false) else [(0, product 0 gang false)])
    ∧ (gang = true → (paired gang false).length = (products gang false n).gangSize 1)
    ∧ (∀ m ∈ paired gang false, (products gang false n).orderAhead m.1 m.2 = false ∧ (products gang false n).opHolders m.1 m.2 = [])
    ∧ (n < 16 → ∀ m ∈ paired gang false, (((products gang false n).core m.1).ops.filter (fun y => y.accepted)).length < 16)
    ∧ (n = 16 → ∃ m ∈ paired gang false, 16 ≤ (((products gang false n).core m.1).ops.filter (fun y => y.accepted)).length) := by decide +kernel

theorem witness_done : ∀ gang ∈ [true, false], (products gang true 0).findOp 0 5 = some (product 0 gang true)
    ∧ paired gang true = (if gang then (products gang true 0).gangOps (product 0 gang true) else [(0, product 0 gang true)]) ∧ ((paired gang true).map Prod.fst).Nodup
    ∧ (∀ m ∈ paired gang true, (products gang true 0).sourceFault false ((products gang true 0).sources m.1 m.2 (paired gang true)).1
        ((products gang true 0).sources m.1 m.2 (paired gang true)).2 = none)
    ∧ ∀ m ∈ paired gang true, m.2.kind = .mma false gang 3 4 5 9
      ∧ ((products gang true 0).core m.1).accs.find? (fun z => z.num == 3) = some ⟨3, m.2.crew, [(3, 5)]⟩ := by decide +kernel

theorem witness_integer : hdrFmt headerA ∈ [1, 5] ∧ hdrFmt headerB ∈ [1, 5] ∧ hdrFmt headerA ≠ hdrFmt headerB ∧ hdrSparse headerA = 0 ∧ hdrTscale headerA = 127
    ∧ hdrTscale headerB = 127 ∧ hdrShape headerA = 0 ∧ hdrShape headerB = 1 ∧ hdrK headerA = hdrK headerB := by decide +kernel

/-! ## System instructions, debug, caches -/

/-- SpecialReads: MOVS of every register of Table 2, to a vector and to a crew register. -/
def movsOps (n : Nat) (k : Bool) : Ops := { noOps with flag := some 3, vd := ⟨k, 2⟩, vs1 := ⟨false, BitVec.ofNat 7 n⟩ }
theorem witness_movs : ((List.range 0x24).all (fun n => [true, false].all (fun k => clean two (pass 2) 0x1C8 (movsOps n k) noFaults
    (fun e => (e.lanes (movsOps n k)).all Lane.exec)))) = true ∧ (two.launchOf 1).isSome = true ∧ two.replays 1 = false ∧ recordMode (two.modesOf 1) = 0 := by decide +kernel

/-- A MOVS of `n` under way to v1 or k1, alone or behind an earlier acquire and an earlier claim. -/
def reading (n : Nat) (behind k : Bool) : State :=
  let q : Pend := { Pend.plain 5 7 3 0 (some 2) with sreg := some (n, ⟨k, 1⟩) }
  let a : Pend := { Pend.plain 4 7 2 0 (some 2) with access := true, acquire := true, todo := some (accessAt (.load true false) 0x100 4 2) }
  let s := state [{ thread [0, 0] with o := 77, s := 99, syncscope := 5, flags := List.replicate 12 1, pend := if behind then [a, q] else [q] }]
  { s.modCore 0 (fun c => { c with ops := if behind then [matOp (.claim false 3 1) 4] else [], slots := [slotOf 31 0], accs := [accOf 7] }) with focus := .none }
theorem witness_read_point : ∀ n ∈ [0x16, 0x17, 0x18, 0x1A, 0x1B], ∀ b ∈ [true, false], ∀ k ∈ [true, false], ((reading n b k).launchOf 1).isSome = true
    ∧ recordMode ((reading n b k).modesOf 1) = 0 ∧ (reading n b k).stands 1 = true
    ∧ ((reading n b k).thread? (ref 0)).map (fun x => x.pend.map (fun p => lateForm x p)) = some (if b then [true, true] else [true])
    ∧ ((((reading n b k).thread? (ref 0)).map (fun x => (x.pend.find? (fun q => q.id == 5)).map (fun p => p.sreg))) = some (some (some (n, ⟨k, 1⟩))))
    ∧ (((reading n b k).thread? (ref 0)).map (fun x => x.pend.all (fun q => !(decide (q.seq < 3) && q.access && q.acquire)))) = some (!b)
    ∧ (((reading n b k).core 0).ops.all (fun y => !(decide (y.crew = crewRef ∧ y.id < 5) && y.isClaim))) = !b := by decide +kernel

/-- SystemEffects: MOVSW of every writable register, YIELD.req with and without a request, TMARK with the trace on. -/
def movswOps (n : BitVec 7) : Ops := { noOps with vd := ⟨false, n⟩ }
theorem witness_movsw : ∀ n ∈ [0x18, 0x1E, 0x1F, 0x20, 0x21], ∃ e, Issues two (pass 2) 0x1C9 (movswOps n) (movswFaults (movswOps n)) e
    ∧ (e.lanes (movswOps n)).all Lane.exec = true := by
  intro n hn
  have h : ([0x18, 0x1E, 0x1F, 0x20, 0x21] : List (BitVec 7)).all (fun n => clean two (pass 2) 0x1C9 (movswOps n) (movswFaults (movswOps n))
    (fun e => (e.lanes (movswOps n)).all Lane.exec)) = true := by decide +kernel
  exact of_clean (List.all_eq_true.mp h n hn)
/-- MOVSW that clears STICKY, alone and behind an acquire under way. -/
def clearing (behind : Bool) : State :=
  let a : Pend := { Pend.plain 4 7 2 0 none with access := true, acquire := true, todo := some (accessAt (.load true false) 0x100 4 2) }
  state [{ thread [1, 0] with syncscope := 3, issued := 9, flags := List.replicate 12 0, pend := if behind then [a] else [] }]
theorem witness_sticky : ∀ b ∈ [true, false], ∃ e, Issues (clearing b) (pass 1) 0x1C9 (movswOps 0x18) (movswFaults (movswOps 0x18)) e
    ∧ (e.lanes (movswOps 0x18)).map (fun l => (l.exec, l.src.a % 2, l.t.pend.any (fun q => q.access && q.acquire))) = [(true, 1, b)] :=
  fun b hb => of_cleanD ((by decide +kernel : ∀ b ∈ [true, false], clean (clearing b) (pass 1) 0x1C9 (movswOps 0x18) (movswFaults (movswOps 0x18))
    (fun e => decide ((e.lanes (movswOps 0x18)).map (fun l => (l.exec, l.src.a % 2, l.t.pend.any (fun q => q.access && q.acquire))) = [(true, 1, b)])) = true) b hb)
def requested : State := two.modGroup 1 (fun g => { g with st := .requested, deadline := some 900 })
theorem witness_yield : (∃ g, requested.group? 1 = some g ∧ g.st = .requested ∧ g.deadline = some 900) ∧ modBit one96 13 = true
    ∧ ∃ e, Issues requested (pass 2) 0x1CA one96 noFaults e ∧ (e.lanes one96).any Lane.exec = true :=
  ⟨some_with (by decide +kernel), by decide +kernel, of_clean (by decide +kernel)⟩
def traced : State :=
  { two.modCrew crewRef (fun c => { c with trace := { c.trace with started := true, lastCycle := 20, lastPc := 0x40, packets := 255, syncTime := 90000 } }) with
    launches := [{ loadLaunch 0 with p := { (loadLaunch 0).p with modes := 0x10 } }], now := 100000 }
def traceReady (e : Env) : Bool :=
  traceOn e.modes && !sampleOn e.modes && (traced.core e.core).quarters.all (fun q => q.tagged.isEmpty) && e.crew.trace.started
    && decide (e.crew.trace.packets = 255) && decide (e.crew.trace.loss = 0) && decide (traced.now - e.crew.trace.syncTime < 72000)
    && decide (traced.cycle - e.crew.trace.lastCycle < 16777216) && decide ((traced.sect (coreSection e.core)).buffer.length < 8000)
theorem witness_trace : ∃ e, Issues traced (pass 2) 0x1CB unary noFaults e ∧ traceReady e = true := of_clean (by decide +kernel)

/-- DebugWorks: a breakpoint that stops, one passed over, and one of another context. -/
def breaking (asid : BitVec 16) (past : Bool) : State :=
  { state [{ thread [0] with passBkpt := if past then some 0 else none }] with dbg := { State.reset.dbg with bpen := true, asid := asid } }
theorem witness_bkpt : ∀ x ∈ [((0 : BitVec 16), false), (0, true), (1, false)], (breaking x.1 x.2).asidOf 1 = 0 ∧ ((breaking x.1 x.2).launchOf 1).isSome = true ∧ ((breaking x.1 x.2).groups.map (fun g => g.gid)).Nodup
    ∧ (∃ b, (breaking x.1 x.2).block? ⟨1, 0⟩ = some b ∧ b.ended = false ∧ b.stop = .run)
    ∧ ∃ e, Issues (breaking x.1 x.2) (pass 1) 0x1CD noOps noFaults e ∧ (e.lanes noOps).map (fun l => (l.exec, l.t.passBkpt, l.t.pc, l.t.wait)) = [(true, if x.2 then some 0 else none, 0, .none)] := by
  have h : ∀ x ∈ [((0 : BitVec 16), false), (0, true), (1, false)], (breaking x.1 x.2).asidOf 1 = 0 ∧ ((breaking x.1 x.2).launchOf 1).isSome = true ∧ ((breaking x.1 x.2).groups.map (fun g => g.gid)).Nodup
    ∧ (((breaking x.1 x.2).block? ⟨1, 0⟩).map (fun b => decide (b.ended = false ∧ b.stop = .run))).getD false = true
    ∧ clean (breaking x.1 x.2) (pass 1) 0x1CD noOps noFaults (fun e => decide ((e.lanes noOps).map (fun l => (l.exec, l.t.passBkpt, l.t.pc, l.t.wait))
        = [(true, if x.2 then some 0 else none, 0, .none)])) = true := by
    intro x hx
    fin_cases hx <;> decide +kernel
  exact fun x hx => ⟨(h x hx).1, (h x hx).2.1, (h x hx).2.2.1, some_with (h x hx).2.2.2.1, of_cleanD (h x hx).2.2.2.2⟩

theorem barOpen_of {s : State} (h : (s.linkUp && (decide (s.boot.rcvState = 0) || s.boot.firmware) && s.hostHeld.isEmpty) = true) : BarOpen s := by
  simpa [BarOpen, and_assoc] using h

/-- DebugStops and DebugWindow: the debugged context's block in each state of a stop. -/
def debugged (st : StopSt) (trigger : Option Nat) (halted : Bool) : State :=
  { state [thread [7, 8, 9, 10]] with
    focus := .none, linkUp := true, groups := [group [{ block [crew [thread [7, 8, 9, 10]]] with stop := st }]],
    dbg := { State.reset.dbg with bpen := true, trigger := trigger, halted := halted, stopbase := 0x4000, stopsize := 2, stopput := 3 } }
def theBlock (st : StopSt) : Block := { block [crew [thread [7, 8, 9, 10]]] with stop := st }

theorem witness_trigger : (debugged .run (some 5) false).dbg.trigger = some 5 ∧ ((⟨1, 0⟩, theBlock .run) ∈ (debugged .run (some 5) false).allBlocks)
    ∧ (debugged .run (some 5) false).block? ⟨1, 0⟩ = some (theBlock .run) ∧ (debugged .run (some 5) false).asidOf 1 = (debugged .run (some 5) false).dbg.asid
    ∧ (theBlock .run).core = 0 ∧ (theBlock .run).ended = false ∧ ((debugged .run (some 5) false).group? 1).map (fun g => g.st) = some .resident
    ∧ ((debugged .run (some 5) false).launchOf 1).isSome = true ∧ ((debugged .run (some 5) false).groups.map (fun g => g.gid)).Nodup := by decide +kernel

/-- STOPPUT 3 of a ring of two records: the record goes to the second. -/
def rec128 : List Byte := 5 :: List.replicate 127 0
theorem witness_record : ((debugged (.latched rec128) none false).block? ⟨1, 0⟩ = some (theBlock (.latched rec128))) ∧ (debugged (.latched rec128) none false).stands 1 = true
    ∧ (debugged (.latched rec128) none false).blockStill ⟨1, 0⟩ (theBlock (.latched rec128)) = true ∧ rec128.length = 128
    ∧ lineOf ((debugged (.latched rec128) none false).dbg.stopbase.toNat + 128 * ((debugged (.latched rec128) none false).dbg.stopput.toNat
        % (debugged (.latched rec128) none false).dbg.stopsize.toNat)) = some (lineId 0x4080, 0) := by decide +kernel
/-- A block with an access still to be performed is not still. -/
def unstill : Block := { block [crew [{ thread [7] with pend := [pendOf (accessAt (.load false false) 0x100 4 2)] }]] with stop := .latched rec128 }
theorem witness_not_still : ({ debugged .run none false with groups := [group [unstill]] } : State).block? ⟨1, 0⟩ = some unstill
    ∧ ({ debugged .run none false with groups := [group [unstill]] } : State).stands 1 = true
    ∧ ({ debugged .run none false with groups := [group [unstill]] } : State).blockStill ⟨1, 0⟩ unstill = false := by decide +kernel

/-- DBGCTL.STOP and RESUME, and STOPBASE. -/
theorem witness_dbgctl : BarOpen (debugged .run none false) ∧ (1 : DWord).getLsbD 2 = false ∧ (debugged .run none false).dbg.halted = false
    ∧ BarOpen (debugged .halted none true) ∧ (4 : DWord).getLsbD 1 = false ∧ (debugged .halted none true).dbg.halted = true
    ∧ ((debugged .halted none true).asid 0).halt = false ∧ ((⟨1, 0⟩, theBlock .halted) ∈ (debugged .halted none true).allBlocks)
    ∧ (debugged .halted none true).asidOf 1 = (debugged .halted none true).dbg.asid ∧ (debugged .halted none true).block? ⟨1, 0⟩ = some (theBlock .halted)
    ∧ (theBlock .halted).ended = false ∧ ((debugged .halted none true).groups.map (fun g => g.gid)).Nodup :=
  ⟨barOpen_of (by decide +kernel), by decide +kernel, by decide +kernel, barOpen_of (by decide +kernel), by decide +kernel, by decide +kernel, by decide +kernel,
    by decide +kernel, by decide +kernel, by decide +kernel, by decide +kernel, by decide +kernel⟩

theorem witness_swap : ∀ st ∈ [GState.resident, .requested], let s := (debugged .halted none true).modGroup 1 (fun g => { g with st := st })
    s.dbgBlock = some (⟨1, 0⟩, theBlock .halted) ∧ s.dbg.halted = true ∧ (s.group? 1).map (fun g => g.st) = some st ∧ (s.groups.map (fun y => y.gid)).Nodup := by
  decide +kernel
def swappedOut : State := (debugged .halted none true).modGroup 1 (fun g => { g with st := .saved, swapped := true })
theorem witness_release : swappedOut.dbgBlock = some (⟨1, 0⟩, theBlock .halted) ∧ (swappedOut.group? 1).map (fun g => (g.st, g.swapped)) = some (.saved, true)
    ∧ (swappedOut.launchOf 1).isSome = true ∧ (swappedOut.groups.map (fun y => y.gid)).Nodup := by decide +kernel

/-- The window on item `ix` of KINDs 0 to 4 and 6: v3, k3, the PC, the three clocks, the first word of scratchpad, the flags. -/
def windowed (kind ix : Nat) : State :=
  { debugged .halted none true with dbg := { (debugged .halted none true).dbg with sel := BitVec.ofNat 64 (kind + ix * 2 ^ 20) } }
theorem witness_window : ∀ x ∈ [(0, 3), (1, 3), (2, 0), (3, 0), (3, 1), (3, 2), (4, 0), (6, 0)], Window (windowed x.1 x.2) ⟨1, 0⟩ (theBlock .halted) x.1 0 0 x.2
    ∧ (windowItem (windowed x.1 x.2) ⟨1, 0⟩ x.1 0 0 x.2).isSome = true ∧ recordMode ((windowed x.1 x.2).modesOf 1) = 0 ∧ BarOpen (windowed x.1 x.2) := by
  have h : ∀ x ∈ [(0, 3), (1, 3), (2, 0), (3, 0), (3, 1), (3, 2), (4, 0), (6, 0)], (((windowed x.1 x.2).windowBlock = some (⟨1, 0⟩, theBlock .halted)
      ∧ (windowed x.1 x.2).block? ⟨1, 0⟩ = some (theBlock .halted)) ∧ (x.1 = bitsOf (windowed x.1 x.2).dbg.sel.toNat 3 0 ∧ 0 = bitsOf (windowed x.1 x.2).dbg.sel.toNat 9 4
      ∧ 0 = bitsOf (windowed x.1 x.2).dbg.sel.toNat 16 10 ∧ x.2 = bitsOf (windowed x.1 x.2).dbg.sel.toNat 47 20))
    ∧ (windowItem (windowed x.1 x.2) ⟨1, 0⟩ x.1 0 0 x.2).isSome = true ∧ recordMode ((windowed x.1 x.2).modesOf 1) = 0
    ∧ ((windowed x.1 x.2).linkUp && (decide ((windowed x.1 x.2).boot.rcvState = 0) || (windowed x.1 x.2).boot.firmware)
      && (windowed x.1 x.2).hostHeld.isEmpty) = true := by decide +kernel
  exact fun x hx => ⟨⟨(h x hx).1.1, (h x hx).1.2⟩, (h x hx).2.1, (h x hx).2.2.1, barOpen_of (h x hx).2.2.2⟩

/-- CacheControl: CCTL of one dirty line by its address (`.wb`, `.inv`) and of a whole L1 (`.wbinv`... of its entry, 2 and 3). -/
def cctlOps (n : Nat) : Ops := { noOps with len := .w96, mod := BitVec.ofNat 20 (n * 2 ^ 14) }
def cached : State :=
  (paged (state [thread [0x100080, 0, 0, 0]])).modCore 0 (fun c => { c with l1 := [dirtyLine 0x100080, { dirtyLine 0x100100 with st := .shared }] })
theorem witness_cctl : cached.stands 1 = true ∧ ((cached.core 0).l1.map (fun x => x.line)).Nodup ∧ cached.resolve (cached.asker (ref 0)) 0x100080 = .inr (.global, .va none 0x100080)
    ∧ (∃ y, cached.translate (some 0) (cached.asidOf 1) 0x100080 0 = .inr y ∧ y.1 = 0x100080) ∧ lineOf 0x100080 = some (lineId 0x100080, 0)
    ∧ cached.l1Line 0 (lineId 0x100080) = some (dirtyLine 0x100080) ∧ (dirtyLine 0x100080).data.length = 128 ∧ cached.marked (lineId 0x100080) = false
    ∧ (cached.homeLine (lineId 0x100080)).uo = none ∧ (cached.homeLine (lineId 0x100080)).holders = [] ∧ cached.racingAsids = []
    ∧ ∀ n ∈ [0, 1, 2, 3], ∃ e, Issues cached (pass 1) 0x1CE (cctlOps n) noFaults e ∧ modBits (cctlOps n) 16 14 = n ∧ e.core = 0
      ∧ ((e.lanes (cctlOps n)).filter (fun k => k.exec)).map (fun l => (l.src.a, l.t.pend)) = [(0x100080, [])] := by
  refine ⟨by decide +kernel, by decide +kernel, by decide +kernel, inr_of (by decide +kernel), by decide +kernel, by decide +kernel, by decide +kernel, by decide +kernel,
    by decide +kernel, by decide +kernel, by decide +kernel, fun n hn => ?_⟩
  exact of_cleanD ((by decide +kernel : ∀ n ∈ [0, 1, 2, 3], clean cached (pass 1) 0x1CE (cctlOps n) noFaults (fun e => decide (modBits (cctlOps n) 16 14 = n ∧ e.core = 0
      ∧ ((e.lanes (cctlOps n)).filter (fun k => k.exec)).map (fun l => (l.src.a, l.t.pend)) = [(0x100080, [])])) = true) n hn)

/-- IssueEvents: a meet target and a yield that are 2,048 cycles old, and one that is not; a fetch; a score. -/
def aged (meetAt yielded : Nat) : State :=
  { paged (state [{ thread [0, 0] with pc := 0x100024, meet := some 0x100024, meetAt := some meetAt, yielded := some yielded }]) with focus := .none, now := 1000000 }
theorem witness_expiry : (∃ x, (aged ((aged 0 0).cycle - 2048) ((aged 0 0).cycle - 2048)).thread? (ref 0) = some x ∧ x.meet = some x.pc
      ∧ x.meetAt = some ((aged 0 0).cycle - 2048) ∧ x.yielded = some ((aged 0 0).cycle - 2048) ∧ 2048 ≤ (aged 0 0).cycle ∧ x.exited = false)
    ∧ (∃ x, (aged ((aged 0 0).cycle - 2047) ((aged 0 0).cycle - 2047)).thread? (ref 0) = some x ∧ x.meetAt = some ((aged 0 0).cycle - 2047)
      ∧ x.yielded = some ((aged 0 0).cycle - 2047)) ∧ (aged 0 0).engineRuns ⟨1, 0⟩ = true
    ∧ (∃ y, (aged 0 0).fetch ((aged 0 0).coreOf ⟨1, 0⟩) ((aged 0 0).asidOf 1) 0x100024 = .inr y ∧ y.1.length = 28) ∧ ((aged 0 0).core 0).quarters[3]?.isSome = true :=
  ⟨some_with (by decide +kernel), some_with (by decide +kernel), by decide +kernel, inr_of (by decide +kernel), by decide +kernel⟩

/-- PassFormed: a whole crew before a collective instruction, and two threads before an IADD. -/
def choosing (n : Nat) (word : Nat) : State :=
  { (state (List.replicate n (thread [0, 0, 0, 0]))).modCore 0 (fun c => { c with icache := [⟨0, 0, leBytes 32 word⟩] }) with focus := .none, now := 1000000 }
theorem witness_choice : ∀ x ∈ [(128, 0x78000000600), (2, 0x78000000004)], (choosing x.1 x.2).focus = .none ∧ ((choosing x.1 x.2).groups.map (fun g => g.gid)).Nodup
    ∧ (chooseCrew ((choosing x.1 x.2).turners 0 0 ((choosing x.1 x.2).quarterCrews 0 0))).map (fun y => (y.f.lanes.length, y.f.pc)) = some (x.1, 0)
    ∧ ((((choosing x.1 x.2).core 0).quarters[0]?).getD (Quarter.reset 0 0)).freeAt ≤ (choosing x.1 x.2).cycle
    ∧ (choosing x.1 x.2).dbg.wpen = 0
    ∧ ((choosing x.1 x.2).quarterCrews 0 0).all (fun y => !(choosing x.1 x.2).replays y.2.2.1.g && y.2.2.2.threads.all (fun th => th.meet.isNone && th.meetAt.isNone)
        && ((choosing x.1 x.2).seenPcs y.2.2.1 y.2.2.2).all (fun w => decide (w.2 ≠ AtPc.missing)) && decide (converge (choosing x.1 x.2).cycle (choosing x.1 x.2).fresh ((choosing x.1 x.2).seen y.2.2.1 y.2.2.2) = none)) = true
    ∧ (((choosing x.1 x.2).quarterCrews 0 0).all (fun y => ((choosing x.1 x.2).candidates ((choosing x.1 x.2).seen y.2.2.1 y.2.2.2)).all (fun c => c.form.isNone && !c.seen.t.handler
        && decide (c.seen.t.skip < 1024)) && (x.1 == 128 || (chooseGroup ((choosing x.1 x.2).candidates ((choosing x.1 x.2).seen y.2.2.1 y.2.2.2))).isSome))) = true := by decide +kernel

/-- QueuePosts: a queue of 512 words at 0x110000 with its handle at 0x100080, a packet of six words at byte 64 of the thread's scratchpad. -/
def posting (resv wr rd : Nat) : State :=
  let s := paged (state [thread [0x100080, 0, 64, 0xFF000000, 0, 0]])
  let u := poke (poke (poke (poke (poke s 0x100080 8 0x110000) 0x100088 8 resv) 0x100090 8 wr) 0x100098 8 rd) 0x1000A0 3 0x30009
  u.modBlock ⟨1, 0⟩ (fun b => { b with scratch := b.scratch.writeN 64 (leBytes 8 0x605) })
def enqOps (nb : Bool) : Ops := { noOps with len := .w96, flag := some 3, vd := ⟨false, 4⟩, vs2 := ⟨false, 2⟩, mod := if nb then 0x2000 else 0 }
def theHandle (resv wr rd : Nat) : Handle := handleOf ((posting resv wr rd).mem.readN ((lineId 0x100080).key) 64)

def plainLine (s : State) (l : LineId) : Bool :=
  s.cores.all (fun c => c.l1.isEmpty) && (s.homeLine l).holders.isEmpty && (s.homeLine l).uo.isNone && (s.homeLine l).bad.isNone && !s.marked l
theorem plainLine_of {s : State} {l : LineId} (h : plainLine s l = true) : PlainLine s l := by
  simp only [plainLine, Bool.and_eq_true, List.isEmpty_iff, Option.isNone_iff_eq_none, Bool.not_eq_true'] at h
  exact ⟨⟨noL1_of h.1.1.1.1 l, h.1.1.1.2⟩, ⟨h.1.1.2, h.1.2, h.2⟩⟩

def globalBytes (s : State) (t : TRef) (ea : DWord) (n align need key pa : Nat) : Bool :=
  decide (s.locate (s.asker t) ea n align need onGlobal false = .inr (.phys pa true))
    && ((lineOf pa).map (fun x => decide (x.2 + n ≤ 128) && decide (key = x.1.key + x.2) && plainLine s x.1)).getD false
theorem globalBytes_of {s : State} {t : TRef} {ea : DWord} {n align need key pa : Nat} (h : globalBytes s t ea n align need key pa = true) : GlobalBytes s t ea n align need key := by
  simp only [globalBytes, Bool.and_eq_true, decide_eq_true_eq] at h
  cases hl : lineOf pa with
  | none => simp [hl] at h
  | some x =>
    simp only [hl, Option.map_some, Option.getD_some, Bool.and_eq_true, decide_eq_true_eq] at h
    exact ⟨pa, x.1, x.2, h.1, hl, h.2.1.1, h.2.1.2, plainLine_of h.2.2⟩

def isPosting (s : State) (off n : Nat) (h : Handle) : Bool :=
  decide (raceMode (s.modesOf 1) = 0 ∧ recordMode (s.modesOf 1) = 0) && globalBytes s (ref 0) 0x100080 64 64 2 (keyOf 0x100080) 0x100080
    && decide (h = handleOf (s.mem.readN (keyOf 0x100080) 64)) && decide (h.base.toNat % 4096 = 0 ∧ (9 ≤ h.log ∧ h.log ≤ 21) ∧ h.hub < 6 ∧ h.ctx < 16)
    && decide (s.locate (s.asker (ref 0)) 0xFF00000000000040 8 8 0 (fun ap => ap == .global || ap == .own) false = .inr (.pad ⟨1, 0⟩ off))
    && decide (n = seenNat s ⟨1, 0⟩ off 8 / 2 ^ 8 % 2 ^ 10 ∧ 0 < n ∧ n ≤ 512 ∧ off % 128 + 8 * n ≤ 128)
theorem posting_of {s : State} {off n : Nat} {h : Handle} (hp : isPosting s off n h = true) : Posting s (ref 0) 0x100080 0xFF00000000000040 (keyOf 0x100080) off n h := by
  simp only [isPosting, Bool.and_eq_true, decide_eq_true_eq] at hp
  obtain ⟨⟨⟨⟨⟨h1, h2⟩, h3⟩, h4⟩, h5⟩, h6⟩ := hp
  exact ⟨h1, globalBytes_of h2, ⟨h3, h4.1, h4.2.1, h4.2.2⟩, h5, h6⟩

/-- Room, with a PAD of four words (508) and without (500); no room; each for both forms. -/
theorem witness_enq : ∀ x ∈ [(508, 508, 500), (500, 500, 500), (1008, 508, 500)], ∀ nb ∈ [true, false],
    Posting (posting x.1 x.2.1 x.2.2) (ref 0) 0x100080 0xFF00000000000040 (keyOf 0x100080) 64 6 (theHandle x.1 x.2.1 x.2.2)
    ∧ ∃ e, Issues (posting x.1 x.2.1 x.2.2) (pass 1) 0x1CC (enqOps nb) noFaults e
      ∧ ((e.lanes (enqOps nb)).filter (fun l => l.exec)).map (fun l => (l.ref, BitVec.ofNat 64 l.src.a, BitVec.ofNat 64 l.src.b, l.t.pend.length, l.t.trapDue))
        = [(ref 0, (0x100080 : DWord), (0xFF00000000000040 : DWord), 0, false)] := by
  intro x hx nb hn
  have h : ∀ x ∈ [(508, 508, 500), (500, 500, 500), (1008, 508, 500)], ∀ nb ∈ [true, false],
    isPosting (posting x.1 x.2.1 x.2.2) 64 6 (theHandle x.1 x.2.1 x.2.2) = true
    ∧ clean (posting x.1 x.2.1 x.2.2) (pass 1) 0x1CC (enqOps nb) noFaults (fun e => decide
      (((e.lanes (enqOps nb)).filter (fun l => l.exec)).map (fun l => (l.ref, BitVec.ofNat 64 l.src.a, BitVec.ofNat 64 l.src.b, l.t.pend.length, l.t.trapDue))
        = [(ref 0, (0x100080 : DWord), (0xFF00000000000040 : DWord), 0, false)])) = true := by decide +kernel
  exact ⟨posting_of (h x hx nb hn).1, of_cleanD (h x hx nb hn).2⟩

def postRoom (s : State) (ik pk n ipa ppa : Nat) (h : Handle) : Bool :=
  let hk := keyOf 0x100080
  let r := resvOf s hk
  let p := padOf h r n
  decide (r + p + n - h.read.toNat ≤ h.size ∧ r + p + n < 2 ^ 64) && globalBytes s (ref 0) (h.wordVa (r + p)) (8 * n) 8 1 ik ipa
    && (p == 0 || globalBytes s (ref 0) (h.wordVa r) 8 8 1 pk ppa)
    && decide ((ik + 8 * n ≤ hk ∨ hk + 64 ≤ ik) ∧ (pk + 8 ≤ hk ∨ hk + 64 ≤ pk) ∧ (pk + 8 ≤ ik ∨ ik + 8 * n ≤ pk))
theorem postRoom_of {s : State} {ik pk n ipa ppa : Nat} {h : Handle} (hp : postRoom s ik pk n ipa ppa h = true) : PostRoom s (ref 0) (keyOf 0x100080) ik pk n h := by
  simp only [postRoom, Bool.and_eq_true, decide_eq_true_eq, Bool.or_eq_true, beq_iff_eq] at hp
  obtain ⟨⟨⟨h1, h2⟩, h3⟩, h4⟩ := hp
  exact ⟨h1, globalBytes_of h2, fun hpos => globalBytes_of (h3.resolve_left (by omega)), h4⟩

/-- A packet of six words behind a PAD of four at the ring's end, and one before its end; the last of the ring has no room left. -/
theorem witness_room : PostRoom (posting 508 508 500) (ref 0) (keyOf 0x100080) (keyOf 0x110000) (keyOf 0x110FE0) 6 (theHandle 508 508 500)
    ∧ PostRoom (posting 506 506 500) (ref 0) (keyOf 0x100080) (keyOf 0x110FD0) (keyOf 0x110000) 6 (theHandle 506 506 500)
    ∧ (theHandle 1008 508 500).size < resvOf (posting 1008 508 500) (keyOf 0x100080) + padOf (theHandle 1008 508 500) 1008 6 + 6 - (theHandle 1008 508 500).read.toNat :=
  ⟨postRoom_of (ipa := 0x110000) (ppa := 0x110FE0) (by decide +kernel), postRoom_of (ipa := 0x110FD0) (ppa := 0x110000) (by decide +kernel), by decide +kernel⟩

/-- A thread that waits to publish, its turn come or not, and one that waits for room. -/
def enqPend : Pend := { Pend.plain 7 7 3 0 (some 2) with access := true }
def publishing (wr : Nat) : State :=
  (posting 514 wr 500).modThread (ref 0) (fun t => { t with wait := .enqPub 0 0x100080 508 514 508 4 7, pend := [enqPend] })
theorem witness_publish : ∀ wr ∈ [508, 500], (∃ x, (publishing wr).thread? (ref 0) = some x ∧ x.pend = [enqPend] ∧ x.trapDue = false ∧ x.wait = .enqPub 0 0x100080 508 514 508 4 7)
    ∧ ((publishing wr).peekHandle 0 0x100080).map (fun h => h.write) = some (BitVec.ofNat 64 wr) ∧ ((publishing wr).core 0).l1 = []
    ∧ raceMode ((publishing wr).modesOf 1) = 0 ∧ recordMode ((publishing wr).modesOf 1) = 0 ∧ GlobalBytes (publishing wr) (ref 0) 0x100090 8 8 1 (keyOf 0x100090) := by
  have h : ∀ wr ∈ [508, 500], (((publishing wr).thread? (ref 0)).map (fun x => decide (x.pend = [enqPend] ∧ x.trapDue = false ∧ x.wait = .enqPub 0 0x100080 508 514 508 4 7))).getD false = true
    ∧ ((publishing wr).peekHandle 0 0x100080).map (fun h => h.write) = some (BitVec.ofNat 64 wr) ∧ ((publishing wr).core 0).l1 = []
    ∧ raceMode ((publishing wr).modesOf 1) = 0 ∧ recordMode ((publishing wr).modesOf 1) = 0 ∧ globalBytes (publishing wr) (ref 0) 0x100090 8 8 1 (keyOf 0x100090) 0x100090 = true := by
    decide +kernel
  exact fun wr hw => ⟨some_with (h wr hw).1, (h wr hw).2.1, (h wr hw).2.2.1, (h wr hw).2.2.2.1, (h wr hw).2.2.2.2.1, globalBytes_of (h wr hw).2.2.2.2.2⟩
def retrying (rd : Nat) : State :=
  (posting 508 508 rd).modThread (ref 0) (fun t => { t with wait := .enqRoom 0 0x100080 0xFF00000000000040 4 400 7 (0, 1, false), pend := [enqPend] })
theorem witness_retry : (∀ rd ∈ [400, 500], (∃ x, (retrying rd).thread? (ref 0) = some x ∧ x.pend = [enqPend] ∧ x.trapDue = false ∧ x.wait = .enqRoom 0 0x100080 0xFF00000000000040 4 400 7 (0, 1, false))
      ∧ ((retrying rd).peekHandle 0 0x100080).map (fun h => h.read) = some (BitVec.ofNat 64 rd))
    ∧ Posting (retrying 500) (ref 0) 0x100080 0xFF00000000000040 (keyOf 0x100080) 64 6 (theHandle 508 508 500)
    ∧ PostRoom (retrying 500) (ref 0) (keyOf 0x100080) (keyOf 0x110000) (keyOf 0x110FE0) 6 (theHandle 508 508 500) := by
  have h : ∀ rd ∈ [400, 500], (((retrying rd).thread? (ref 0)).map (fun x => decide (x.pend = [enqPend] ∧ x.trapDue = false ∧ x.wait = .enqRoom 0 0x100080 0xFF00000000000040 4 400 7 (0, 1, false)))).getD false = true
      ∧ ((retrying rd).peekHandle 0 0x100080).map (fun h => h.read) = some (BitVec.ofNat 64 rd) := by decide +kernel
  exact ⟨fun rd hr => ⟨some_with (h rd hr).1, (h rd hr).2⟩, posting_of (by decide +kernel), postRoom_of (ipa := 0x110000) (ppa := 0x110FE0) (by decide +kernel)⟩

/-! ## Transfer commands -/

/-- A next state, or the same. -/
def next (i : Instr) (s : State) : State :=
  match exec i s with
  | .next t => { t with agenda := [] }
  | _ => s

/-- Crew registers: a 5 x 3 x 2 tensor of words from 0x40 on, a box of 4 x 3 x 2 that begins one element in (edgeBox: and one before the first in dimension 2), a
local address in k16:k17. -/
def regsOf (xs : List (Nat × Nat)) : List Word := (List.range 32).map (fun i => w32 (((xs.find? (fun x => x.1 == i)).map Prod.snd).getD 0))
def tensor : List (Nat × Nat) := [(0, 0x40), (2, 7 + 2 * 2 ^ 13), (3, 5), (4, 3), (5, 2), (8, 4), (9, 16), (12, 3 + 2 * 2 ^ 16), (13, 1)]
def edgeBox : List (Nat × Nat) := [(24, 1), (26, 0xFFFFFFFF), (29, 3), (30, 1), (16, 0x100), (17, 0xFF000000)]
def innerBox : List (Nat × Nat) := [(24, 1), (29, 3), (16, 0x100), (17, 0xFF000000)]
/-- Three iterations, each one element further along dimension 1 than the last; ring 0, stage 0, offset 0x40. -/
def loopBox : List (Nat × Nat) := [(24, 1), (29, 3), (30, 1 + 256), (16, 0x40), (17, 0xFF200000)]
def counterAt : List (Nat × Nat) := [(14, 0x800), (15, 0xFF000000)]

def xOps (m : Nat) : Ops :=
  { noOps with len := .w96, flag := some 4, vs1 := ⟨true, 0⟩, vs2 := ⟨true, 16⟩, vs3 := ⟨true, 24⟩, mod := BitVec.ofNat 20 m }
def fenceOps : Ops := { noOps with len := .w96, flag := some 4, mod := 0x1E000 }
def onePass : Pass := { pass 1 with collective := true }
def moving (xs : List (Nat × Nat)) : State :=
  let s := (cachedPage (state [thread [0, 0, 0, 0]])).modCrew crewRef (fun c => { c with kregs := regsOf xs })
  let t := s.modBlock ⟨1, 0⟩ (fun b => { b with rings := { Ring.reset 0 with stroke := 1, rot := 5 } :: b.rings.drop 1 })
  { t with
    focus := .pass onePass,
    launches := [{ loadLaunch 0 with p := { (loadLaunch 0).p with gran := 4, rings := some ⟨0x80, 1024, 3, 0⟩ :: List.replicate 7 none } }] }

def xCases : List (Nat × Ops × Instr) :=
  [(0x1C0, xOps 0xC00, .xcopy (xOps 0xC00)), (0x1C1, xOps 0xC00, .xloop (xOps 0xC00)), (0x1C2, xOps 0, .xgather (xOps 0)), (0x1C3, xOps 0, .xscatter (xOps 0)),
   (0x1C4, xOps 0xC00, .xred (xOps 0xC00)), (0x1C5, fenceOps, .xfence fenceOps)]

/-- The second crew of a block issues, after `before` has been issued by the first. -/
def secondCrew (before : Instr) : State :=
  let s := moving (tensor ++ innerBox)
  let t := next before (s.modBlock ⟨1, 0⟩ (fun b => { b with crews := b.crews ++ b.crews }))
  { t with focus := .pass { onePass with crew := ⟨1, 0, 1⟩ } }

/-- TransferIssued: every command in a block that has none; an XCOPY that joins the block's first, and one that waits behind another. -/
theorem witness_transfer : ∀ x ∈ xCases, x.2.2.wellFormed = true ∧ opcodeOf x.2.2 = some (x.1, x.2.1)
    ∧ (∃ b, (moving (tensor ++ innerBox)).block? ⟨1, 0⟩ = some b ∧ b.broken = [] ∧ b.cmds = []) ∧ ((moving (tensor ++ innerBox)).crew? crewRef).isSome = true
    ∧ recordMode ((moving (tensor ++ innerBox)).modesOf 1) = 0 ∧ ∃ e, IssuesAll (moving (tensor ++ innerBox)) onePass x.1 x.2.1 e ∧ (e.lanes x.2.1).head?.isSome = true := by
  intro x hx
  have h : xCases.all (fun x => x.2.2.wellFormed && decide (opcodeOf x.2.2 = some (x.1, x.2.1))
      && cleanAll (moving (tensor ++ innerBox)) onePass x.1 x.2.1 (fun e => decide ((e.lanes x.2.1).head?.isSome = true))) = true := by decide +kernel
  have := List.all_eq_true.mp h x hx
  simp only [Bool.and_eq_true, decide_eq_true_eq] at this
  exact ⟨this.1.1, this.1.2, some_with (by decide +kernel), by decide +kernel, by decide +kernel, of_cleanAll this.2⟩
theorem witness_join : (∃ b, (secondCrew (.xcopy (xOps 0xC00))).block? ⟨1, 0⟩ = some b ∧ b.broken = []
      ∧ b.cmds.map (fun c => (c.op, c.count, c.begun, decide (c.id = (secondCrew (.xcopy (xOps 0xC00))).serial))) = [(0, 0, false, false)])
    ∧ ((secondCrew (.xcopy (xOps 0xC00))).crew? ⟨1, 0, 1⟩).map (fun k => k.xcopies) = some 0
    ∧ ((secondCrew (.xcopy (xOps 0xC00))).block? ⟨1, 0⟩).map (fun b => b.cmds.map (fun d => (d.flushed, d.slices.all (fun y => y.mod == (xOps 0xC00).mod)))) = some [(false, true)]
    ∧ ∃ e, IssuesAll (secondCrew (.xcopy (xOps 0xC00))) { onePass with crew := ⟨1, 0, 1⟩ } 0x1C0 (xOps 0xC00) e ∧ (e.lanes (xOps 0xC00)).head?.isSome = true :=
  ⟨some_with (by decide +kernel), by decide +kernel, by decide +kernel, of_cleanAll (by decide +kernel)⟩

/-- What TransferBegins supposes of a command, and which of its clauses meets its premises. -/
def begins (s : State) (k : Nat) (clause : Block → Cmd → LaunchP → Bool) : Bool :=
  match s.block? ⟨1, 0⟩, s.launchOf 1 with
  | some x, some l => (match x.cmds[k]? with
      | some c => !c.begun && s.engineRuns ⟨1, 0⟩ && decide (x.cmds.map (fun d => d.id)).Nodup && c.queues.contains 0 && clause x c l.p
      | none => false)
  | _, _ => false
def headOf (x : Block) (c : Cmd) : Bool := c.queues.all (fun q => x.cmds.all (fun d => !d.queues.contains q || !d.live || d.id == c.id || decide (c.order < d.order)) && c.live)
def good (s : State) (x : Block) (c : Cmd) (p : LaunchP) : Bool := !c.slices.isEmpty && !loopBusy x.cmds c && c.slices.all (fun y => (s.sliceBad ⟨1, 0⟩ p c.op y).isNone && !s.claimAhead ⟨1, 0⟩ y)
def twoCopies (m : Nat) : State := next (.xcopy (xOps m)) (secondCrew (.xcopy (xOps 0xC00)))
/-- An XCOPY whose two slices came to disagree after issue; one that its second crew is about to complete with another modifier. -/
def disagreeing : State :=
  (twoCopies 0xC00).modBlock ⟨1, 0⟩ (fun b => { b with cmds := b.cmds.map (fun c => { c with slices := c.slices.modify 0 (fun y => { y with mod := 0x800 }) }) })
theorem witness_disagree : (∃ b, (secondCrew (.xcopy (xOps 0xC00))).block? ⟨1, 0⟩ = some b ∧ b.broken = []
      ∧ (b.cmds.find? (fun d => d.op == 0 && d.count == 0 && !d.begun)).map (fun c => (c.flushed, c.queues, decide ((secondCrew (.xcopy (xOps 0xC00))).missing ⟨1, 0⟩ c = [⟨1, 0, 1⟩]),
          c.slices.all (fun y => y.mod != (xOps 0x800).mod))) = some (false, [0], true, true))
    ∧ ((secondCrew (.xcopy (xOps 0xC00))).crew? ⟨1, 0, 1⟩).map (fun k => k.xcopies) = some 0
    ∧ ∃ e, IssuesAll (secondCrew (.xcopy (xOps 0xC00))) { onePass with crew := ⟨1, 0, 1⟩ } 0x1C0 (xOps 0x800) e ∧ (e.lanes (xOps 0x800)).head?.isSome = true :=
  ⟨some_with (by decide +kernel), by decide +kernel, of_cleanAll (by decide +kernel)⟩
theorem witness_begin :
    begins (next (.xfence fenceOps) (moving [])) 0 (fun x c _ => headOf x c && c.op == 5) = true
    ∧ begins (next (.xcopy (xOps 0xC00)) (moving (tensor ++ innerBox))) 0 (fun x c p => headOf x c && c.op == 0 && good (next (.xcopy (xOps 0xC00)) (moving (tensor ++ innerBox))) x c p
        && ((next (.xcopy (xOps 0xC00)) (moving (tensor ++ innerBox))).missing ⟨1, 0⟩ c).isEmpty) = true
    ∧ begins (next (.xred (xOps 0xC00)) (moving (tensor ++ innerBox))) 0 (fun x c p => headOf x c && c.op == 4 && good (next (.xred (xOps 0xC00)) (moving (tensor ++ innerBox))) x c p) = true
    ∧ ([(1, Instr.xloop (xOps 0xC00), loopBox), (2, .xgather (xOps 0), innerBox), (3, .xscatter (xOps 0), innerBox)].all (fun y =>
        let s := next y.2.1 (moving (tensor ++ y.2.2))
        begins s 0 (fun x c p => headOf x c && c.op == y.1 && good s x c p))) = true
    ∧ begins (twoCopies 0xC00) 0 (fun x c p => headOf x c && good (twoCopies 0xC00) x c p && ((twoCopies 0xC00).missing ⟨1, 0⟩ c).isEmpty && decide (c.slices.length = 2)) = true
    ∧ begins (next (.xfence fenceOps) (secondCrew (.xcopy (xOps 0xC00)))) 1 (fun x c _ => x.cmds.any (fun d => d.live && decide (d.order < c.order) && d.queues.contains 0)) = true
    ∧ begins (secondCrew (.xcopy (xOps 0xC00))) 0 (fun x c _ => headOf x c && c.op == 0 && !((secondCrew (.xcopy (xOps 0xC00))).missing ⟨1, 0⟩ c).isEmpty) = true
    ∧ begins disagreeing 0 (fun x c _ => headOf x c && c.op == 0 && (disagreeing.missing ⟨1, 0⟩ c).isEmpty && decide (c.queues = [0])
        && c.slices.all (fun y => !disagreeing.claimAhead ⟨1, 0⟩ y) && decide ((c.slices.map (fun y => y.mod)).dedup.length = 2)) = true := by decide +kernel

/-! A command that has begun, on its first slice. -/

def plainAt (s : State) (x : Slice) (write : Bool) (ea : DWord) : Bool :=
  match s.locate (s.asker (s.lowThread (BRef.crew ⟨1, 0⟩ x.crew))) ea x.msize x.msize (if write then 1 else 0) (fun ap => ap == .global || ap == .peerGlobal || ap == .peerPad) false with
  | .inr (.phys pa _) => (match lineOf pa with
      | some (l, off) => decide (off + x.msize ≤ 128) && (s.homeLine l).uo.isNone && (s.homeLine l).holders.isEmpty && (s.homeLine l).bad.isNone && !s.marked l
          && s.cores.all (fun c => c.l1.isEmpty)
      | none => false)
  | _ => false
theorem plainAt_of {s : State} {x : Slice} {write : Bool} {ea : DWord} (h : plainAt s x write ea = true) : ∃ pa, PlainAt s ⟨1, 0⟩ x write ea pa := by
  unfold plainAt at h
  split at h
  · rename_i pa near hl
    split at h
    · rename_i l off ho
      simp only [Bool.and_eq_true, decide_eq_true_eq, Option.isNone_iff_eq_none, List.isEmpty_iff, Bool.not_eq_true'] at h
      obtain ⟨⟨⟨⟨⟨h1, h2⟩, h3⟩, h4⟩, h5⟩, h6⟩ := h
      exact ⟨pa, ⟨near, hl⟩, l, off, ho, h1, h2, h3, h4, h5, noL1_of h6 l⟩
    · simp at h
  · simp at h

/-- Every element of the box lies beyond the edge or in a plain line. -/
def allPlain (s : State) (op j : Nat) (x : Slice) (write : Bool) : Bool :=
  (List.range (x.count op)).all (fun i => match boxAddress op j x i with
    | some ea => plainAt s x write ea
    | none => true)
theorem allPlain_of {s : State} {op j : Nat} {x : Slice} {write : Bool} (h : allPlain s op j x write = true) :
    ∀ i ea, i < x.count op → boxAddress op j x i = some ea → ∃ pa, PlainAt s ⟨1, 0⟩ x write ea pa := by
  intro i ea hi he
  have := List.all_eq_true.mp h i (List.mem_range.mpr hi)
  rw [he] at this
  exact plainAt_of this

def chunkReady (s : State) (c : Cmd) (x : Slice) : Bool :=
  decide (s.cmd? ⟨1, 0⟩ c.id = some c) && decide (c.slices[0]? = some x) && c.begun && !x.done && s.engineRuns ⟨1, 0⟩ && s.engineMay (c.owner ⟨1, 0⟩ x) c.eop
    && decide (s.awaitsPeer ⟨1, 0⟩ c x = false ∧ s.isPeer ⟨1, 0⟩ c x = false)
    && decide (x.mod.getLsbD 16 = false ∧ x.mod.getLsbD 17 = false ∧ x.slot = none ∧ x.mtype = x.ltype ∧ x.msize ∈ [1, 2, 4, 8])
    && decide (raceMode (s.modesOf 1) = 0 ∧ recordMode (s.modesOf 1) = 0)
theorem chunkReady_of {s : State} {c : Cmd} {x : Slice} (h : chunkReady s c x = true) : ChunkReady s ⟨1, 0⟩ c 0 x := by
  simp only [chunkReady, Bool.and_eq_true, decide_eq_true_eq, Bool.not_eq_true'] at h
  obtain ⟨⟨⟨⟨⟨⟨⟨⟨h1, h2⟩, h3⟩, h4⟩, h5⟩, h6⟩, h7⟩, h8⟩, h9⟩ := h
  exact ⟨h1, h2, h3, h4, h5, h6, h7, h8, h9⟩

def begun (i : Instr) (xs : List (Nat × Nat)) : State := next (.transferCommandBegin ⟨1, 0⟩ 0) (next i (moving xs))
def cmdOf (s : State) : Cmd :=
  (((s.block? ⟨1, 0⟩).bind (fun b => b.cmds[0]?))).getD
    { id := 0, op := 0, queues := [], scope := 0, slices := [], order := 0, begun := false, complete := false, flushed := false, failed := false, oC := 0, sC := 0, iter := 0,
      p0 := 0, q0 := 0, count := 0, eop := 0, held := [] }
def sliceOf (s : State) : Slice :=
  ((cmdOf s).slices[0]?).getD
    { crew := 0, desc := [], box := [], localAddr := 0, off := none, slot := none, mod := 0, flag := none, pc := 0, ident := 0, pos := 0, got := [], done := false, order := 0 }

def loading : State := begun (.xcopy (xOps 0xC00)) (tensor ++ edgeBox)
def storing : State := begun (.xcopy (xOps 0x40C00)) (tensor ++ edgeBox)
def looping (behind : Word) : State :=
  (begun (.xloop (xOps 0xC00)) (tensor ++ loopBox)).modBlock ⟨1, 0⟩ (fun b => { b with rings := b.rings.map (fun r => { r with rot := r.rot - behind }) })

/-- TransferMoves: a load with elements beyond the edge, a store, an iteration of an XLOOP that moves, and one whose stage has not been released. -/
theorem witness_load : ChunkReady loading ⟨1, 0⟩ (cmdOf loading) 0 (sliceOf loading) ∧ (cmdOf loading).op = 0 ∧ (sliceOf loading).mod.getLsbD 18 = false
    ∧ (sliceOf loading).off = some 0x100 ∧ loading.engineHolders (loading.coreOf ⟨1, 0⟩) ⟨1, 0⟩ none 0x100 (0x100 + (sliceOf loading).localBytes 0) true (sliceOf loading).order (cmdOf loading).id = []
    ∧ (∀ i ea, i < (sliceOf loading).count 0 → boxAddress 0 (cmdOf loading).iter (sliceOf loading) i = some ea → ∃ pa, PlainAt loading ⟨1, 0⟩ (sliceOf loading) false ea pa)
    ∧ boxAddress 0 0 (sliceOf loading) 0 = none ∧ (boxAddress 0 0 (sliceOf loading) 12).isSome = true :=
  ⟨chunkReady_of (by decide +kernel), by decide +kernel, by decide +kernel, by decide +kernel, by decide +kernel, allPlain_of (by decide +kernel), by decide +kernel, by decide +kernel⟩

theorem witness_store : ChunkReady storing ⟨1, 0⟩ (cmdOf storing) 0 (sliceOf storing) ∧ (cmdOf storing).op = 0 ∧ (sliceOf storing).mod.getLsbD 18 = true
    ∧ (sliceOf storing).off = some 0x100 ∧ storing.engineHolders (storing.coreOf ⟨1, 0⟩) ⟨1, 0⟩ none 0x100 (0x100 + (sliceOf storing).localBytes 0) false (sliceOf storing).order (cmdOf storing).id = []
    ∧ (∀ i ea, i < (sliceOf storing).count 0 → boxAddress 0 (cmdOf storing).iter (sliceOf storing) i = some ea → ∃ pa, PlainAt storing ⟨1, 0⟩ (sliceOf storing) true ea pa)
    ∧ ∀ i j ea, i < (sliceOf storing).count 0 → j < (sliceOf storing).count 0 → boxAddress 0 (cmdOf storing).iter (sliceOf storing) i = some ea →
        boxAddress 0 (cmdOf storing).iter (sliceOf storing) j = some ea → i = j := by
  refine ⟨chunkReady_of (by decide +kernel), by decide +kernel, by decide +kernel, by decide +kernel, by decide +kernel, allPlain_of (by decide +kernel), ?_⟩
  have h : ∀ i < (sliceOf storing).count 0, ∀ j < (sliceOf storing).count 0, (boxAddress 0 (cmdOf storing).iter (sliceOf storing) i).isSome = true →
      boxAddress 0 (cmdOf storing).iter (sliceOf storing) i = boxAddress 0 (cmdOf storing).iter (sliceOf storing) j → i = j := by decide +kernel
  exact fun i j ea hi hj h1 h2 => h i hi j hj (by rw [h1]; rfl) (h1.trans h2.symm)

/-- The ring that XLOOP's local address names, as the launch and the block have it; its first stage is 1, where the pointer stands. -/
theorem witness_loop : ∀ n ∈ [(0 : Word), 3], ChunkReady (looping n) ⟨1, 0⟩ (cmdOf (looping n)) 0 (sliceOf (looping n)) ∧ (cmdOf (looping n)).op = 1
    ∧ ((looping n).launchOf 1).map (fun l => (l.p.rings[(sliceOf (looping n)).localAddr.toNat / 2 ^ 24 % 8]?).getD none) = some (some ⟨0x80, 1024, 3, 0⟩)
    ∧ ((looping n).block? ⟨1, 0⟩).map (fun z => (z.rings[(sliceOf (looping n)).localAddr.toNat / 2 ^ 24 % 8]?).map (fun r => r.rot)) = some (some (5 - n))
    ∧ (sliceOf (looping n)).localAddr.toNat / 2 ^ 19 % 16 + (cmdOf (looping n)).iter = 0 ∧ (cmdOf (looping n)).p0 = 1
    ∧ (n = 0 → ((cmdOf (looping n)).q0 - (5 - n)).toNat < 3 ∧ (looping n).stageHolders ((looping n).coreOf ⟨1, 0⟩) ⟨1, 0⟩ (0x80 + 1024) (0x80 + 2 * 1024)
        ((((looping n).block? ⟨1, 0⟩).bind (fun z => z.rings[0]?)).elim 0 (fun r => r.rel (cmdOf (looping n)).q0)) (cmdOf (looping n)).id (cmdOf (looping n)).id = []
      ∧ ∀ i ea, i < (sliceOf (looping n)).count 1 → boxAddress 1 (cmdOf (looping n)).iter (sliceOf (looping n)) i = some ea → ∃ pa, PlainAt (looping n) ⟨1, 0⟩ (sliceOf (looping n)) false ea pa)
    ∧ (n = 3 → 3 ≤ ((cmdOf (looping n)).q0 - (5 - n)).toNat ∧ ((cmdOf (looping n)).q0 - (5 - n)).toNat < 2 ^ 31) := by
  have h : ∀ n ∈ [(0 : Word), 3], chunkReady (looping n) (cmdOf (looping n)) (sliceOf (looping n)) = true ∧ (cmdOf (looping n)).op = 1
    ∧ ((looping n).launchOf 1).map (fun l => (l.p.rings[(sliceOf (looping n)).localAddr.toNat / 2 ^ 24 % 8]?).getD none) = some (some ⟨0x80, 1024, 3, 0⟩)
    ∧ ((looping n).block? ⟨1, 0⟩).map (fun z => (z.rings[(sliceOf (looping n)).localAddr.toNat / 2 ^ 24 % 8]?).map (fun r => r.rot)) = some (some (5 - n))
    ∧ (sliceOf (looping n)).localAddr.toNat / 2 ^ 19 % 16 + (cmdOf (looping n)).iter = 0 ∧ (cmdOf (looping n)).p0 = 1
    ∧ (n = 0 → ((cmdOf (looping n)).q0 - (5 - n)).toNat < 3 ∧ (looping n).stageHolders ((looping n).coreOf ⟨1, 0⟩) ⟨1, 0⟩ (0x80 + 1024) (0x80 + 2 * 1024)
        ((((looping n).block? ⟨1, 0⟩).bind (fun z => z.rings[0]?)).elim 0 (fun r => r.rel (cmdOf (looping n)).q0)) (cmdOf (looping n)).id (cmdOf (looping n)).id = []
      ∧ allPlain (looping n) 1 (cmdOf (looping n)).iter (sliceOf (looping n)) false = true)
    ∧ (n = 3 → 3 ≤ ((cmdOf (looping n)).q0 - (5 - n)).toNat ∧ ((cmdOf (looping n)).q0 - (5 - n)).toNat < 2 ^ 31) := by
    intro n hn
    fin_cases hn <;> decide +kernel
  intro n hn
  obtain ⟨h1, h2, h3, h4, h5, h6, h7, h8⟩ := h n hn
  exact ⟨chunkReady_of h1, h2, h3, h4, h5, h6, fun hz => ⟨(h7 hz).1, (h7 hz).2.1, allPlain_of (h7 hz).2.2⟩, h8⟩

/-- TransferCompletes: an XCOPY whose slice is done, without a counter and with one in its block's scratchpad; a fence. -/
def copied (xs : List (Nat × Nat)) : State :=
  let s := begun (.xcopy (xOps 0xC00)) (tensor ++ innerBox ++ xs)
  next (.transferChunk ⟨1, 0⟩ (cmdOf s).id 0) s
def fenced : State := next (.transferCommandBegin ⟨1, 0⟩ 0) (next (.xfence fenceOps) (moving []))
def completes (s : State) : Bool :=
  let c := cmdOf s
  decide (s.cmd? ⟨1, 0⟩ c.id = some c) && c.begun && c.op != 1 && c.slices.all (fun x => x.done && !s.awaitsPeer ⟨1, 0⟩ c x) && s.engineRuns ⟨1, 0⟩ && s.cmdMay ⟨1, 0⟩ c
    && decide (recordMode (s.modesOf 1) = 0 ∧ raceMode (s.modesOf 1) = 0)
theorem witness_complete : completes (copied []) = true ∧ ((cmdOf (copied [])).counterSlice.map (fun x => x.ctr)) = some 0 ∧ completes fenced = true ∧ (cmdOf fenced).op = 5
    ∧ completes (copied counterAt) = true ∧ (cmdOf (copied counterAt)).op ≠ 5 ∧ ((cmdOf (copied counterAt)).counterSlice.map (fun x => (x.ctr, x.crew))) = some (0xFF00000000000800, 0)
    ∧ (copied counterAt).locate ((copied counterAt).asker ((copied counterAt).lowThread (BRef.crew ⟨1, 0⟩ 0))) 0xFF00000000000800 8 8 2
        (fun ap => ap == .global || ap == .peerGlobal || ap == .own) false = .inr (.pad ⟨1, 0⟩ 0x800)
    ∧ padNat (copied counterAt) ⟨1, 0⟩ 0x800 8 + 1 < 2 ^ 64 - 1 := by decide +kernel

/-- An XLOOP whose iteration 0, or 2, the last, has been moved. -/
def looped (j : Nat) : State :=
  (next (.xloopIteration ⟨1, 0⟩ (cmdOf (looping 0)).id) (looping 0)).modBlock ⟨1, 0⟩ (fun b => { b with cmds := b.cmds.map (fun c => { c with iter := j }) })
theorem witness_iteration : ∀ j ∈ [0, 2], (looped j).cmd? ⟨1, 0⟩ (cmdOf (looped j)).id = some (cmdOf (looped j)) ∧ (cmdOf (looped j)).slices = [sliceOf (looped j)]
    ∧ (cmdOf (looped j)).op = 1 ∧ (cmdOf (looped j)).begun = true ∧ (sliceOf (looped j)).done = true ∧ (looped j).engineRuns ⟨1, 0⟩ = true
    ∧ (looped j).awaitsPeer ⟨1, 0⟩ (cmdOf (looped j)) (sliceOf (looped j)) = false ∧ (sliceOf (looped j)).ctr = 0 ∧ (looped j).cmdMay ⟨1, 0⟩ (cmdOf (looped j)) = true ∧ recordMode ((looped j).modesOf 1) = 0
    ∧ (((cmdOf (looped j)).iter : Int) + 1 < boxW (sliceOf (looped j)) 5 % 2 ^ 32 ↔ j = 0)
    ∧ ((looped j).launchOf 1).map (fun l => (l.p.rings[(sliceOf (looped j)).localAddr.toNat / 2 ^ 24 % 8]?).getD none) = some (some ⟨0x80, 1024, 3, 0⟩)
    ∧ (((looped j).block? ⟨1, 0⟩).bind (fun z => z.rings[(sliceOf (looped j)).localAddr.toNat / 2 ^ 24 % 8]?)).isSome = true := by decide +kernel

/-- ReductionCommits: the first chunk of an XRED, staged in the lines of HBM that it adds to. -/
def staged : State :=
  let s := begun (.xred (xOps 0xC00)) (tensor ++ innerBox)
  next (.transferChunk ⟨1, 0⟩ (cmdOf s).id 0) s
def stagedKey (s : State) : ChunkKey := ⟨s.chip, (sliceOf s).at_.1, (sliceOf s).at_.2, (cmdOf s).count, (sliceOf s).pos / (sliceOf s).chunkElems, (cmdOf s).id⟩
def lineReady (s : State) (h : HomeLine) : Bool :=
  decide (h.line.hub < 6) && (!h.staged.any (fun t => t.1 == stagedKey s) || (h.bad.isNone && h.holders.isEmpty && !s.marked h.line && !h.spilled
    && (h.uo.isSome || decide (s.buffers h.line.hub + 2 * s.l3.length < 8192)) && s.cores.all (fun c => c.l1.isEmpty)
    && h.staged.all (fun t => t.1 != stagedKey s || (h.uo.map (fun p => p.op == t.2.1.op && p.ty == t.2.1.ty)).getD true)))
theorem witness_commit : staged.cmd? ⟨1, 0⟩ (cmdOf staged).id = some (cmdOf staged) ∧ (cmdOf staged).slices = [sliceOf staged] ∧ (cmdOf staged).op = 4 ∧ (sliceOf staged).done = false
    ∧ staged.engineRuns ⟨1, 0⟩ = true ∧ staged.isPeer ⟨1, 0⟩ (cmdOf staged) (sliceOf staged) = false ∧ staged.peerChunks = [] ∧ recordMode (staged.modesOf 1) = 0 ∧ raceMode (staged.modesOf 1) = 0
    ∧ (staged.l3.map (fun h => h.line)).Nodup ∧ staged.l3.all (lineReady staged) = true ∧ staged.l3.any (fun h => h.staged.any (fun t => t.1 == stagedKey staged)) = true := by decide +kernel
def unanswered (again : Bool) : State := { staged with peerChunks := [⟨0, [], ⟨1, 0⟩, (cmdOf staged).id, 0, 0, again, 5⟩], now := 20000 * usTicks }
theorem witness_chunk_timeout (again : Bool) : (unanswered again).cmd? ⟨1, 0⟩ (cmdOf staged).id = some (cmdOf staged) ∧ (cmdOf staged).slices = [sliceOf staged]
    ∧ ((unanswered again).block? ⟨1, 0⟩).isSome = true
    ∧ (unanswered again).peerChunks.find? (fun q => q.b == ⟨1, 0⟩ && q.cmd == (cmdOf staged).id && q.chunk == 0
        && decide (q.sent + 20000 * usTicks ≤ (unanswered again).now)) = some ⟨0, [], ⟨1, 0⟩, (cmdOf staged).id, 0, 0, again, 5⟩
    ∧ ∀ q ∈ (unanswered again).peerChunks, ({ unanswered again with now := 20000 * usTicks - 1 } : State).now < q.sent + 20000 * usTicks := by
  revert again
  decide +kernel

/-! ## Cox contexts, packets -/

def coxed (s : State) (f : Cox → Cox) : State := { (paged { s with agenda := [] }).modCox cx f with focus := .cox cx }
def runsB (s : State) : Bool := decide (s.focus = .cox cx) && decide ((s.cox cx).state = 2) && decide ((s.cox cx).budget < 2048) && decide ((s.cox cx).x.length = 16)
  && !s.coxReplays cx
theorem runs_of {s : State} (h : runsB s = true) : CoxRuns s cx (s.cox cx) := by
  simp only [runsB, Bool.and_eq_true, decide_eq_true_eq, Bool.not_eq_true'] at h
  exact ⟨h.1.1.1.1, rfl, h.1.1.1.2, h.1.1.2, h.1.2, h.2⟩

/-- CoxValues and CoxControl: a context in the middle of its program, in a loop of two levels, with the last instruction of its budget to run. -/
def midway : State := coxed State.reset (fun c => { c with budget := 2047, loops := [(1, 0), (0, 3)] })
theorem witness_cox : CoxRuns midway cx (midway.cox cx) ∧ cx.hub < 6 ∧ cx.ctx < 16 ∧ midway.recordsCox cx = [] ∧ midway.coxTimeRecord cx = none
    ∧ (midway.cox cx).packet.length = (midway.cox cx).plen ∧ (midway.cox cx).pc + 1 < (midway.cox cx).code.length ∧ (midway.cox cx).loops = [(1, 0), (0, 3)]
    ∧ (midway.cox cx).fromRec = false ∧ (midway.cox cx).acted = false :=
  ⟨runs_of (by decide +kernel), by decide +kernel⟩
/-- NOTIFY of a masked vector and of one that may leave. -/
theorem witness_notify : (3 : Nat) ∈ ({ midway with msixMask := [3] } : State).msixMask ∧ ((midway.cox cx).reg 3).toNat % 64 = 3
    ∧ (3 : Nat) ∉ ({ midway with linkUp := true } : State).msixMask ∧ ({ midway with linkUp := true } : State).linkUp = true := by decide +kernel
/-- Branches taken and not taken: x3 = 3, x4 = 4. -/
theorem witness_branch : [(coxInt (midway.cox cx) 3, coxInt (midway.cox cx) 4), (coxInt (midway.cox cx) 3, coxInt (midway.cox cx) 3)].map (fun p =>
    coxBranches.map (fun b => b.2 p.1 p.2)) = [[false, true, true], [true, false, false]] ∧ (5 : BitVec 14).toInt = 5 ∧ (midway.cox cx).pc + 1 + 4 < (midway.cox cx).code.length := by decide +kernel
def spent (acted : Bool) : State := coxed State.reset (fun c => { c with budget := if acted then 0 else 2048, acted := acted })
theorem witness_spent : (spent false).focus = .cox cx ∧ ((spent false).cox cx).state = 2 ∧ 2048 ≤ ((spent false).cox cx).budget ∧ ((spent false).cox cx).acted = false
    ∧ (spent false).coxReplays cx = false ∧ CoxRuns (spent true) cx ((spent true).cox cx) ∧ ((spent true).cox cx).acted = true :=
  ⟨by decide +kernel, by decide +kernel, by decide +kernel, by decide +kernel, by decide +kernel, runs_of (by decide +kernel), by decide +kernel⟩

def coxWord (s : State) (va : DWord) (need key pa : Nat) : Bool :=
  decide (s.unitPa (s.ctxAsid cx) va 8 need = .inr pa)
    && ((lineOf pa).map (fun x => decide (x.2 + 8 ≤ 128) && decide (key = x.1.key + x.2) && plainLine s x.1)).getD false
    && decide (s.recordsCox cx = [] ∧ s.racingAsids = [])
theorem coxWord_of {s : State} {va : DWord} {need key pa : Nat} (h : coxWord s va need key pa = true) : CoxWord s cx va need key := by
  simp only [coxWord, Bool.and_eq_true, decide_eq_true_eq] at h
  cases hl : lineOf pa with
  | none => simp [hl] at h
  | some x =>
    simp only [hl, Option.map_some, Option.getD_some, Bool.and_eq_true, decide_eq_true_eq] at h
    have hp := plainLine_of h.1.2.2
    exact ⟨⟨pa, x.1, x.2, h.1.1, hl, h.1.2.1.1, h.1.2.1.2, hp.home.1, hp.home.2.1, hp.home.2.2, hp.copies.2, hp.copies.1⟩, h.2⟩

/-- CoxWindows: the last word of a window of 256 bytes, which −1 from its base wraps to; HALT's word. -/
def windowed8 : State := coxed State.reset (fun c => { c with windows := [⟨0x110000, 8, true, true⟩] })
/-- HALT of a context that has been disabled. -/
def disabled : State := coxed State.reset (fun c => { c with en := false })
theorem witness_cox_halt : CoxRuns disabled cx (disabled.cox cx) ∧ CoxWord disabled cx ((disabled.cox cx).qhandle + 24) 1 (keyOf 0x100018) ∧ (disabled.cox cx).fromRec = false
    ∧ (disabled.cox cx).acted = false ∧ (disabled.cox cx).en = false ∧ disabled.asids = [] ∧ (windowed8.cox cx).en = true :=
  ⟨runs_of (by decide +kernel), coxWord_of (pa := 0x100018) (by decide +kernel), by decide +kernel⟩
theorem witness_cox_window : CoxRuns windowed8 cx (windowed8.cox cx) ∧ (windowed8.cox cx).windows[(0 : BitVec 3).toNat]? = some ⟨0x110000, 8, true, true⟩
    ∧ coxAddr ⟨0x110000, 8, true, true⟩ (windowed8.cox cx) 0 0x7FFF = 0x1100F8
    ∧ (∀ need ∈ [0, 1, 2], CoxWord windowed8 cx 0x1100F8 need (keyOf 0x1100F8)) ∧ CoxWord windowed8 cx ((windowed8.cox cx).qhandle + 24) 1 (keyOf 0x100018) := by
  refine ⟨runs_of (by decide +kernel), by decide +kernel, by decide +kernel, ?_, coxWord_of (pa := 0x100018) (by decide +kernel)⟩
  have h : ∀ need ∈ [0, 1, 2], coxWord windowed8 0x1100F8 need (keyOf 0x1100F8) 0x1100F8 = true := by decide +kernel
  exact fun n hn => coxWord_of (h n hn)

def plainB (s : State) : Bool :=
  s.l3.all (fun h => h.uo.isNone && h.bad.isNone && h.holders.isEmpty) && s.cores.all (fun c => c.l1.isEmpty) && s.coxes.all (fun c => c.ckpts.all (fun k => k.marks.isEmpty))
    && decide (s.recordsCox cx = [] ∧ s.pktRec cx = none ∧ s.racingAsids = [])
theorem plain_of {s : State} (h : plainB s = true) : Plain s cx := by
  simp only [plainB, Bool.and_eq_true, decide_eq_true_eq] at h
  obtain ⟨⟨⟨h1, h2⟩, h3⟩, h4⟩ := h
  refine ⟨fun l => ?_, h4⟩
  have hh : (s.homeLine l).uo = none ∧ (s.homeLine l).bad = none ∧ (s.homeLine l).holders = [] := by
    unfold State.homeLine
    cases hf : s.l3.find? (fun h => h.line == l) with
    | none => exact ⟨rfl, rfl, rfl⟩
    | some y =>
      have := List.all_eq_true.mp h1 y (List.mem_of_find?_eq_some hf)
      simp only [Bool.and_eq_true, Option.isNone_iff_eq_none, List.isEmpty_iff] at this
      exact ⟨this.1.1, this.1.2, this.2⟩
  have hm : s.marked l = false := by
    rw [State.marked, List.any_eq_false]
    intro c hc
    rw [Bool.not_eq_true, List.any_eq_false]
    intro k hk
    have := List.all_eq_true.mp (List.all_eq_true.mp h3 c hc) k hk
    rw [List.isEmpty_iff] at this
    simp [this]
  exact ⟨hh.1, hh.2.1, hh.2.2, hm, fun n => noL1_of h2 l n⟩

/-- PacketTaken: a packet of two words at the end of a ring of 512, wholly below WRITE or not, with and without ORD (bit 18). -/
def queued (hdr wr : Nat) : State :=
  poke (poke (poke (poke (poke (poke (coxed State.reset (fun c => { c with state := 1, packet := [] })) 0x100000 8 0x120000) 0x100010 8 wr) 0x100018 8 0x1FE) 0x100020 2 9)
    0x120FF0 8 hdr) 0x120FF8 8 7
def handleAt (wr : Nat) : Handle := { base := 0x120000, write := BitVec.ofNat 64 wr, read := 0x1FE, log := 9, hub := 0, ctx := 0 }
def packetAt (s : State) (h : Handle) (w : Nat) : Bool :=
  decide ((s.cox cx).en = true ∧ (s.cox cx).state = 1 ∧ (s.asid (s.ctxAsid cx)).halt = false) && plainB s
    && decide (s.unitPa (s.ctxAsid cx) (s.cox cx).qhandle 64 0 = .inr 0x100000 ∧ (lineOf 0x100000).isSome = true ∧ h = handleOf (s.physRead 0x100000 64))
    && decide (h.bad = none ∧ h.read ≠ h.write)
    && decide (s.unitPa (s.ctxAsid cx) (h.wordVa h.read.toNat) 8 0 = .inr 0x120FF0 ∧ (lineOf 0x120FF0).isSome = true ∧ w = s.physNat 0x120FF0 8)
    && decide (1 ≤ bitsOf w 17 8 ∧ bitsOf w 17 8 ≤ 512 ∧ h.read.toNat % 2 ^ h.log + bitsOf w 17 8 ≤ 2 ^ h.log)
theorem packetAt_of {s : State} {h : Handle} {w : Nat} (hp : packetAt s h w = true) : PacketAt s cx h w := by
  simp only [packetAt, Bool.and_eq_true, decide_eq_true_eq] at hp
  obtain ⟨⟨⟨⟨⟨h1, h2⟩, h3⟩, h4⟩, h5⟩, h6⟩ := hp
  exact ⟨h1, plain_of h2, ⟨_, h3⟩, h4, ⟨_, h5⟩, h6⟩

theorem witness_type : ∀ ty < 256, packetRules.any (fun r => r.2 ty) = true := by decide +kernel
theorem witness_packet : ∀ x ∈ [(0x200, 0x200), (0x205, 0x1FF), (0x40203, 0x200)], PacketAt (queued x.1 x.2) cx (handleAt x.2) x.1 ∧ bitsOf x.1 17 8 = 2
    ∧ ((handleAt x.2).write - (handleAt x.2).read).toNat = x.2 - 0x1FE
    ∧ ∀ i < 2, ∃ pa, (queued x.1 x.2).unitPa ((queued x.1 x.2).ctxAsid cx) ((handleAt x.2).wordVa (handleAt x.2).read.toNat + BitVec.ofNat 64 (8 * i)) 8 0 = .inr pa ∧ (lineOf pa).isSome = true
        ∧ [x.1, 7][i]? = some ((queued x.1 x.2).physNat pa 8) := by
  have h : ∀ x ∈ [(0x200, 0x200), (0x205, 0x1FF), (0x40203, 0x200)], packetAt (queued x.1 x.2) (handleAt x.2) x.1 = true ∧ bitsOf x.1 17 8 = 2
    ∧ ((handleAt x.2).write - (handleAt x.2).read).toNat = x.2 - 0x1FE
    ∧ ∀ i < 2, (queued x.1 x.2).unitPa ((queued x.1 x.2).ctxAsid cx) ((handleAt x.2).wordVa (handleAt x.2).read.toNat + BitVec.ofNat 64 (8 * i)) 8 0 = .inr (0x120FF0 + 8 * i)
        ∧ (lineOf (0x120FF0 + 8 * i)).isSome = true ∧ [x.1, 7][i]? = some ((queued x.1 x.2).physNat (0x120FF0 + 8 * i) 8) := by
    intro x hx
    fin_cases hx <;> decide +kernel
  exact fun x hx => ⟨packetAt_of (h x hx).1, (h x hx).2.1, (h x hx).2.2.1, fun i hi => ⟨_, (h x hx).2.2.2 i hi⟩⟩
theorem witness_read_word : (queued 0x200 0x200).unitPa ((queued 0x200 0x200).ctxAsid cx) (((queued 0x200 0x200).cox cx).qhandle + 24) 8 1 = .inr 0x100018 ∧ (lineOf 0x100018).isSome = true := by
  decide +kernel
/-- A packet under ORD, with an earlier one open and without. -/
def ordered (open1 : List Nat) : State := coxed State.reset (fun c => { c with state := 3, wait := .ord, packets := 5, openP := open1 })
theorem witness_ord : ((ordered [2, 4]).cox cx).wait = .ord ∧ (∃ k ∈ ((ordered [2, 4]).cox cx).openP, k + 1 < ((ordered [2, 4]).cox cx).packets)
    ∧ ∀ k ∈ ((ordered [4]).cox cx).openP, ((ordered [4]).cox cx).packets ≤ k + 1 := by decide +kernel

/-- PacketActs: the first ACT of a packet of each TYPE, at counters of HBM. -/
def acting (ws : List Nat) (s : State) : State := coxed s (fun c => { c with packet := ws.map (BitVec.ofNat 64), plen := ws.length })
def actsB (s : State) (ty len : Nat) (ws : List DWord) : Bool :=
  runsB s && decide ((s.cox cx).pc + 1 < (s.cox cx).code.length) && decide ((s.cox cx).acted = false ∧ (s.cox cx).actDone = false)
    && decide ((s.cox cx).packet = BitVec.ofNat 64 (ty + 2 ^ 8 * len) :: ws ∧ ty < 2 ^ 8 ∧ len < 2 ^ 10)
theorem acts_of {s : State} {ty len : Nat} {ws : List DWord} (h : actsB s ty len ws = true) : Acts s cx (s.cox cx) ty len ws := by
  simp only [actsB, Bool.and_eq_true, decide_eq_true_eq] at h
  exact ⟨runs_of h.1.1.1, h.1.1.2, h.1.2, h.2⟩
def launchWords : List Nat := [0x40000, 0, 0x400000000 + 2 ^ 40, 100 * 2 ^ 32, 0, 0, 16, 0, 0, 0, 0] ++ List.replicate 13 0
def badLaunch : List Nat := launchWords.set 0 3
theorem witness_acts : Acts (acting [0x502, 0x110000, 0x110040, 100, 0] State.reset) cx ((acting [0x502, 0x110000, 0x110040, 100, 0] State.reset).cox cx) 2 5 [0x110000, 0x110040, 100, 0]
    ∧ Acts (acting [0x303, 0x110028, 9] State.reset) cx ((acting [0x303, 0x110028, 9] State.reset).cox cx) 3 3 [0x110028, 9]
    ∧ CoxWord (acting [0x303, 0x110028, 9] State.reset) cx 0x110028 2 (keyOf 0x110028) ∧ (acting [0x303, 0x110028, 9] State.reset).isPeerVa 0x110028 = false
    ∧ coxRead (acting [0x303, 0x110028, 9] State.reset) (keyOf 0x110028) + 9 < 2 ^ 64 - 1
    ∧ Acts (acting [0x304, 0x110028, 9] State.reset) cx ((acting [0x304, 0x110028, 9] State.reset).cox cx) 4 3 [0x110028, 9]
    ∧ Acts (acting [0x205, 77] State.reset) cx ((acting [0x205, 77] State.reset).cox cx) 5 2 [77]
    ∧ (acting [0x205, 77] State.reset).autoCut cx = none ∧ (acting [0x205, 77] State.reset).recordsCox cx = []
    ∧ Acts (acting [0x306, 0x120000, 9] State.reset) cx ((acting [0x306, 0x120000, 9] State.reset).cox cx) 6 3 [0x120000, 9]
    ∧ Acts (acting (0x1901 :: launchWords) State.reset) cx ((acting (0x1901 :: launchWords) State.reset).cox cx) 1 25 (launchWords.map (BitVec.ofNat 64))
    ∧ launchGood ((acting (0x1901 :: launchWords) State.reset).cox cx).packet = true
    ∧ Acts (acting (0x1901 :: badLaunch) State.reset) cx ((acting (0x1901 :: badLaunch) State.reset).cox cx) 1 25 (badLaunch.map (BitVec.ofNat 64))
    ∧ launchGood ((acting (0x1901 :: badLaunch) State.reset).cox cx).packet = false :=
  ⟨acts_of (by decide +kernel), acts_of (by decide +kernel), coxWord_of (pa := 0x110028) (by decide +kernel), by decide +kernel, by decide +kernel, acts_of (by decide +kernel),
    acts_of (by decide +kernel), by decide +kernel, by decide +kernel, acts_of (by decide +kernel), acts_of (by decide +kernel), by decide +kernel, acts_of (by decide +kernel), by decide +kernel⟩

/-- A context that waits for a counter at its target or below it, and one whose launch waits for one of the 64 sets. -/
def counterWaits (v : Nat) : State := poke (coxed State.reset (fun c => { c with state := 3, wait := .counter 0x110028 5 })) 0x110028 8 v
theorem witness_counter_wait : ∀ v ∈ [5, 4], CoxWord (counterWaits v) cx 0x110028 0 (keyOf 0x110028) ∧ coxRead (counterWaits v) (keyOf 0x110028) = v
    ∧ ((counterWaits v).cox cx).wait = .counter 0x110028 5 ∧ ((counterWaits v).cox cx).state = 3 ∧ ((counterWaits v).cox cx).pc < ((counterWaits v).cox cx).code.length
    ∧ (counterWaits v).coxReplays cx = false ∧ (counterWaits v).isPeerVa 0x110028 = false := by
  have h : ∀ v ∈ [5, 4], coxWord (counterWaits v) 0x110028 0 (keyOf 0x110028) 0x110028 = true ∧ coxRead (counterWaits v) (keyOf 0x110028) = v
    ∧ ((counterWaits v).cox cx).wait = .counter 0x110028 5 ∧ ((counterWaits v).cox cx).state = 3 ∧ ((counterWaits v).cox cx).pc < ((counterWaits v).cox cx).code.length
    ∧ (counterWaits v).coxReplays cx = false ∧ (counterWaits v).isPeerVa 0x110028 = false := by decide +kernel
  exact fun v hv => ⟨coxWord_of (h v hv).1, (h v hv).2⟩
def offered : State := coxed State.reset (fun c => { c with state := 3, wait := .launch (parseLaunch ((0x1901 :: launchWords).map (BitVec.ofNat 64))) })
def crowded : State := { offered with launches := (List.range 64).map (fun i => { loadLaunch 0 with idx := i, cox := cx }) }
theorem witness_offer : (offered.cox cx).state = 3 ∧ (offered.cox cx).pc < (offered.cox cx).code.length ∧ (offered.cox cx).wait = .launch (parseLaunch ((0x1901 :: launchWords).map (BitVec.ofNat 64)))
    ∧ recordMode (parseLaunch ((0x1901 :: launchWords).map (BitVec.ofNat 64))).modes = 0
    ∧ (parseLaunch ((0x1901 :: launchWords).map (BitVec.ofNat 64))).prio < offered.waiting.length ∧ (offered.launches.filter (fun l => l.isOpen && l.cox.hub == 0)).length < 64
    ∧ offered.coxReplays cx = false ∧ offered.agenda = [] ∧ 64 ≤ (crowded.launches.filter (fun l => l.isOpen && l.cox.hub == 0)).length
    ∧ (crowded.cox cx).wait = (offered.cox cx).wait ∧ crowded.coxReplays cx = false := by decide +kernel
/-- Context 1 of the hub has offered a launch in the same hub cycle. -/
theorem witness_lower : LowerDue { offered with agenda := [⟨0, .event (.launchAccept ⟨0, 1⟩)⟩] } cx := ⟨1, by decide, _, List.mem_singleton.mpr rfl, rfl⟩

/-- PacketMoves: a copy of the 30 bytes that end one line to the start of another; a checkpoint of one range of two lines. -/
def copying : State := coxed State.reset (fun c => { c with copies := [⟨0x110062, 0x110080, 30, 0, 4, 0⟩] })
theorem witness_copy : (copying.cox cx).copies = [⟨0x110062, 0x110080, 30, 0, 4, 0⟩] ∧ Plain copying cx ∧ copying.unitPa (copying.ctxAsid cx) 0x110062 1 0 = .inr 0x110062
    ∧ copying.unitPa (copying.ctxAsid cx) 0x110080 1 1 = .inr 0x110080 ∧ lineOf 0x110062 = some (lineId 0x110000, 98) ∧ lineOf 0x110080 = some (lineId 0x110080, 0) ∧ 98 + 30 = 128
    ∧ copying.coxReplays cx = false ∧ copying.peerOut = [] :=
  ⟨by decide +kernel, plain_of (by decide +kernel), by decide +kernel⟩

def ckpt (marks : List (LineId × DWord)) (cut : Bool) : Ckpt := { area := 0x120000, number := 0x99, packet := 4, cut := cut, stop := false, auto := false, marks := marks }
/-- The area's header has one range, of 256 bytes at 0x110000. -/
def checkpoint (open1 : List Nat) : State :=
  poke (poke (poke (coxed State.reset (fun c => { c with state := 3, wait := .checkpoint, openP := open1, ckpts := [ckpt [] false] })) 0x120000 4 1) 0x120080 8 0x110000) 0x120088 8 256
def ckptOk (s : State) : Bool :=
  match s.ckptRanges cx 0x120000 with
  | (u, .inr ranges) => (match u.ckptLines (s.ctxAsid cx) 0x120000 ranges (ckptData ranges.length) with
      | some lines => decide (lines.length = 2) && plainB u && (List.range 6).all (fun h => (u.hub h).recd.cyc.isEmpty) && decide (u.unitPa (s.ctxAsid cx) 0x120004 1 1 = .inr 0x120004)
      | none => false)
  | _ => false
theorem witness_checkpoint : ((checkpoint [4]).cox cx).ckpts.find? (fun k => !k.cut) = some (ckpt [] false) ∧ (∀ n ∈ ((checkpoint [4]).cox cx).openP, 4 ≤ n)
    ∧ (∃ n ∈ ((checkpoint [2, 4]).cox cx).openP, n < 4) ∧ Plain (checkpoint [4]) cx ∧ (checkpoint [4]).unitPa ((checkpoint [4]).ctxAsid cx) 0x120000 1 1 = .inr 0x120000
    ∧ lineOf 0x120000 = some (lineId 0x120000, 0) ∧ ckptOk (checkpoint [4]) = true ∧ ((checkpoint [4]).cox cx).pc < ((checkpoint [4]).cox cx).code.length
    ∧ ((checkpoint [4]).cox cx).wait = .checkpoint ∧ (checkpoint [4]).coxReplays cx = false ∧ (ckpt [] false).auto = false :=
  ⟨by decide +kernel, by decide +kernel, by decide +kernel, plain_of (by decide +kernel), by decide +kernel, by decide +kernel, by decide +kernel, by decide +kernel, by decide +kernel⟩

/-- A cut checkpoint with two marks, and with its last. -/
def mark (pa : Nat) : LineId × DWord := (lineId pa, BitVec.ofNat 64 (pa + 0x11000))
def marked (xs : List (LineId × DWord)) : State := coxed State.reset (fun c => { c with state := 3, ckpts := [ckpt xs true] })
theorem witness_marks : ∀ xs ∈ [[mark 0x110000, mark 0x110080], [mark 0x110080]], (marked xs).coxes = [(marked xs).cox cx] ∧ ((marked xs).cox cx).ckpts = [ckpt xs true]
    ∧ xs.Pairwise (fun m n => n.1 ≠ m.1) ∧ (∀ m ∈ xs, (marked xs).uoKind m.1 = none ∧ (∃ l, lineOf m.2.toNat = some (l, 0))) ∧ (marked xs).l3 = [] ∧ (marked xs).cores = []
    ∧ (marked xs).racingAsids = [] ∧ (marked xs).recordsCox cx = [] ∧ (marked xs).coxReplays cx = false
    ∧ (marked xs).unitPa ((marked xs).ctxAsid cx) 0x120004 1 1 = .inr 0x120004 ∧ ((marked xs).cox cx).pc < ((marked xs).cox cx).code.length
    ∧ lineOf 0x120004 = some (lineId 0x120000, 4) ∧ lineId 0x120000 ≠ lineId 0x121080 := by
  have h : ∀ xs ∈ [[mark 0x110000, mark 0x110080], [mark 0x110080]], (marked xs).coxes = [(marked xs).cox cx] ∧ ((marked xs).cox cx).ckpts = [ckpt xs true]
    ∧ xs.Pairwise (fun m n => n.1 ≠ m.1) ∧ (∀ m ∈ xs, (marked xs).uoKind m.1 = none ∧ ((lineOf m.2.toNat).map Prod.snd) = some 0) ∧ (marked xs).l3 = [] ∧ (marked xs).cores = []
    ∧ (marked xs).racingAsids = [] ∧ (marked xs).recordsCox cx = [] ∧ (marked xs).coxReplays cx = false
    ∧ (marked xs).unitPa ((marked xs).ctxAsid cx) 0x120004 1 1 = .inr 0x120004 ∧ ((marked xs).cox cx).pc < ((marked xs).cox cx).code.length
    ∧ lineOf 0x120004 = some (lineId 0x120000, 4) ∧ lineId 0x120000 ≠ lineId 0x121080 := by decide +kernel
  intro xs hx
  obtain ⟨h1, h2, h3, h4, h5⟩ := h xs hx
  refine ⟨h1, h2, h3, fun m hm => ⟨(h4 m hm).1, ?_⟩, h5⟩
  have := (h4 m hm).2
  cases hl : lineOf m.2.toNat with
  | none => simp [hl] at this
  | some y =>
    simp only [hl, Option.map_some, Option.some.injEq] at this
    exact ⟨y.1, by rw [← this]⟩
theorem witness_last_mark : ((marked [mark 0x110080]).saveMark (lineId 0x110080)).unitPa (((marked [mark 0x110080]).saveMark (lineId 0x110080)).ctxAsid cx) 0x120004 1 1 = .inr 0x120004 := by
  decide +kernel

/-! ## Placing, pre-emption -/

def small (f : LaunchP → LaunchP) : Launch := { loadLaunch 0 with p := f (loadLaunch 0).p }
def queuedWork (ws : List (List WEntry)) : State := { State.reset with agenda := [], launches := [small id], waiting := ws }
def lists (e : List WEntry) : List (List WEntry) := [e, [], [], [], [], [], [], []]
def restful (st : GState) : State :=
  { queuedWork (lists [.saved 1]) with groups := [{ group [block [crew [thread [7, 8]]], { block [crew [thread [9]]] with ended := true }] with st := st }] }
def headOf0 (s : State) : Head := (s.head 0).getD ⟨.saved 0, loadLaunch 0, none, 0⟩
def walkHead (s : State) (r : Nat × List (Nat × Spot)) : Bool :=
  decide (0 < s.waiting.length ∧ s.head 0 = some (headOf0 s)) && decide ((headOf0 s).launch.cox.hub = 0 ∧ s.barred (headOf0 s) = false) && decide (s.fit (headOf0 s) = some r)
    && [1, 2, 3, 4, 5, 6, 7].all (fun q => (s.head q).isNone) && s.agenda.isEmpty && s.walks.isEmpty && decide (recordMode (headOf0 s).launch.p.modes = 0 ∧ s.dbg.trigger = none)
theorem walkHead_of {s : State} {r : Nat × List (Nat × Spot)} (h : walkHead s r = true) : WalkHead s 0 0 (headOf0 s) r.1 r.2 := by
  simp only [walkHead, Bool.and_eq_true, decide_eq_true_eq] at h
  obtain ⟨⟨⟨⟨⟨⟨h1, h2⟩, h3⟩, h4⟩, h5⟩, h7⟩, h6⟩ := h
  refine ⟨by decide, ⟨by decide, h1⟩, h2, h3, fun q hq hq8 d hd => ?_, ⟨fun u hu => ?_, fun w hw => ?_⟩, h6⟩
  · have := List.all_eq_true.mp h4 q (by simp only [List.mem_cons, List.not_mem_nil, or_false]; omega)
    simp [hd] at this
  · rw [List.isEmpty_iff] at h5
    simp [h5] at hu
  · rw [List.isEmpty_iff] at h7
    simp [h7] at hw
theorem witness_walk : ∃ h spots, WalkHead (queuedWork (lists [.launch 0])) 0 0 (headOf0 (queuedWork (lists [.launch 0]))) h spots ∧ spots.length = 1
    ∧ (headOf0 (queuedWork (lists [.launch 0]))).entry = .launch 0 ∧ (queuedWork (lists [.launch 0])).launch? 0 = some (small id) :=
  ⟨0, [(0, ⟨0, 0, [0]⟩)], walkHead_of (r := (0, [(0, ⟨0, 0, [0]⟩)])) (by decide +kernel), by decide +kernel⟩
theorem witness_walk_saved : ∃ h spots, WalkHead (restful .saved) 0 0 (headOf0 (restful .saved)) h spots ∧ (spots.map Prod.fst) = [0] ∧ (headOf0 (restful .saved)).entry = .saved 1
    ∧ ((restful .saved).group? 1).map (fun x => ((restful .saved).launch? x.launch).isSome) = some true :=
  ⟨0, [(0, ⟨0, 0, [0]⟩)], walkHead_of (r := (0, [(0, ⟨0, 0, [0]⟩)])) (by decide +kernel), by decide +kernel⟩
/-- What another head has had reserved on core 0: granules 0 to 9 and crew slot 0. -/
def heldSpot : HeldCore := ⟨0, 0, 10, [(0, 16)], [], []⟩
def setAside : State := { queuedWork (lists [.launch 0]) with reserved := [⟨.launch 7, 0, [5], [heldSpot]⟩] }
theorem witness_walk_reserved : ∃ spots, WalkHead setAside 0 0 (headOf0 setAside) 0 spots ∧ (spots.map (fun q => (q.2.core, q.2.base))) = [(0, 10)]
    ∧ heldSpot.core = 0 ∧ (∃ r ∈ setAside.reserved, r.head ≠ (headOf0 setAside).entry ∧ heldSpot ∈ r.held) :=
  ⟨[(0, ⟨0, 10, [16]⟩)], walkHead_of (r := (0, [(0, ⟨0, 10, [16]⟩)])) (by decide +kernel), by decide +kernel, by decide +kernel,
    ⟨_, List.mem_singleton.mpr rfl, by decide +kernel, List.mem_singleton.mpr rfl⟩⟩
/-- Nothing to place: no head of hub 1; one that fits nowhere; one whose context is halted. -/
def nowhere : State := { queuedWork (lists [.launch 0]) with sections := List.replicate 6 { Section.reset with gated := true } }
def haltedHead : State := (queuedWork (lists [.launch 0])).modAsid 0 (fun a => { a with halt := true })
theorem witness_walk_nothing : ∀ x ∈ [(queuedWork (lists [.launch 0]), 1), (nowhere, 0), (haltedHead, 0)],
    (∀ q < 8, ∀ d, x.1.head q = some d → d.launch.cox.hub ≠ x.2 ∨ x.1.barred d = true ∨ x.1.fit d = none) ∧ ∀ w ∈ x.1.walks, w.now ≠ x.1.now := by
  have h : ∀ x ∈ [(queuedWork (lists [.launch 0]), 1), (nowhere, 0), (haltedHead, 0)], ∀ q ∈ List.range 8, ((x.1.head q).map (fun d =>
      decide (d.launch.cox.hub ≠ x.2) || x.1.barred d || (x.1.fit d).isNone)).getD true = true := by decide +kernel
  have hw : ∀ x ∈ [(queuedWork (lists [.launch 0]), 1), (nowhere, 0), (haltedHead, 0)], ∀ w ∈ x.1.walks, w.now ≠ x.1.now := by decide +kernel
  refine fun x hx => ⟨fun q hq d hd => ?_, hw x hx⟩
  have := h x hx q (List.mem_range.mpr hq)
  rw [hd] at this
  simpa [or_assoc] using this
/-- Two sequencers have chosen section 2, or 3: that of its own hub, or of the lower hub, goes first. -/
def chosen (ws : List Walk) : State := { State.reset with walks := ws }
theorem witness_walk_order : ∀ x ∈ [(0, Walk.mk 0 (some (4, 2)) 0, Walk.mk 2 (some (1, 2)) 0), (1, Walk.mk 1 (some (4, 3)) 0, Walk.mk 0 (some (1, 3)) 0)],
    (chosen [x.2.1, x.2.2]).walks.find? (fun y => y.hub == x.1 && y.now == (chosen [x.2.1, x.2.2]).now) = some x.2.1 ∧ x.2.2.now = (chosen [x.2.1, x.2.2]).now
    ∧ x.2.1.pick.map Prod.snd = some (x.2.2.pick.elim 0 Prod.snd) ∧ x.2.2.pick.isSome = true ∧ x.2.2.hub ≠ x.1
    ∧ (x.2.2.hub = x.2.2.pick.elim 9 Prod.snd ∨ (x.1 ≠ x.2.2.pick.elim 0 Prod.snd ∧ x.2.2.hub < x.1)) := by decide +kernel
/-- A sequencer that has chosen its head's section, with none before it: the room still there, and taken meanwhile. -/
def alone (s : State) : State := { s with walks := [Walk.mk 0 (some (0, 0)) 0] }
theorem witness_walk_chosen : ∀ x ∈ [(alone (queuedWork (lists [.launch 0])), true), (alone nowhere, false)],
    x.1.walks.find? (fun y => y.hub == 0 && y.now == x.1.now) = some (Walk.mk 0 (some (0, 0)) 0) ∧ (x.1.walks.map (fun v => v.hub)) = [0]
    ∧ x.1.head 0 = some (headOf0 x.1) ∧ (headOf0 x.1).entry = .launch 0 ∧ (x.1.launch? 0).map (fun l => recordMode l.p.modes) = some 0 ∧ x.1.dbg.trigger = none
    ∧ (x.1.fitIn (headOf0 x.1).launch (headOf0 x.1).group (headOf0 x.1).entry.key 0).isSome = x.2 := by decide +kernel

/-- ArbiterPreempts: a launch of priority 3 and 96 blocks; one core of the one section that is not gated has a block of priority 0 on all its scratchpad. -/
def high : Launch := { small (fun p => { p with prio := 3, gx := 96, gran := 256, grows := 1, gcols := 96 }) with idx := 1 }
def contested (coop : Bool) : State :=
  { State.reset with
    agenda := [],
    now := 10000000,
    launches := [small (fun p => { p with gran := 256, coop := coop, grace := 50 }), high],
    groups := [group [{ block [crew [thread [7]]] with core := 95 }]],
    waiting := [[], [], [], [.launch 1], [], [], [], []],
    sections := Section.reset :: List.replicate 5 { Section.reset with gated := true } }
def highHead : Head := ⟨.launch 1, high, none, 0⟩
theorem witness_arbiter : ∀ b ∈ [true, false], (contested b).head 3 = some highHead ∧ (contested b).barred highHead = false ∧ (∀ q ∈ [4, 5, 6, 7], (contested b).head q = none)
    ∧ (contested b).fit highHead = none ∧ (contested b).reserved = [] ∧ (∀ g ∈ (contested b).groups, g.victimOf = none) ∧ (contested b).sectionOrder highHead = 0 :: [1, 2, 3, 4, 5]
    ∧ (contested b).victims highHead 0 [] ((contested b).victimOrder 3 0) = some [1] ∧ ((contested b).launchOf 1).map (fun l => l.p.coop) = some b := by decide +kernel
/-- A head that fits: the victim has gone; one whose victim is on its way out; a victim of another head in Saving. -/
def leaving (k : Nat) : State := { contested true with groups := (contested true).groups.map (fun g => { g with st := .saving, victimOf := some k }) }
theorem witness_arbiter_rest : ({ contested true with groups := [] } : State).head 3 = some highHead ∧ (({ contested true with groups := [] } : State).fit highHead).isSome = true
    ∧ (∃ g ∈ (leaving highHead.entry.key).groups, g.victimOf = some highHead.entry.key ∧ g.st ≠ .saved ∧ g.st ≠ .restoring)
    ∧ (∃ g ∈ (leaving (highHead.entry.key + 2)).groups, g.st = .saving ∧ ∃ k, g.victimOf = some k ∧ k ≠ highHead.entry.key)
    ∧ ((contested true).group? 1).map (fun x => x.blocks.map (fun b => (b.ended, b.crews.map (fun c => c.released)))) = some [(false, [false])] := by
  refine ⟨by decide +kernel, by decide +kernel, ⟨_, List.mem_singleton.mpr rfl, rfl, by decide, by decide⟩, ⟨_, List.mem_singleton.mpr rfl, rfl, _, rfl, by decide⟩, by decide +kernel⟩

/-- PreemptionCourse: a group at each stage; at the deadline and before it; standing still or with an access under way. -/
def stage (st : GState) : State := { restful st with groups := (restful st).groups.map (fun g => { g with deadline := some 5 }) }
def stillB (s : State) : Bool := ((s.group? 1).map (fun x => (List.range x.blocks.length).all (fun k => ((x.blocks[k]?).map (fun b => b.ended || s.blockStill ⟨1, k⟩ b)).getD true))).getD false
theorem still_of {s : State} {x : Group} (hx : s.group? 1 = some x) : stillB s = true ↔ GroupStill s 1 x := by
  simp only [stillB, hx, Option.map_some, Option.getD_some, List.all_eq_true, List.mem_range, GroupStill]
  constructor
  · intro h k b hk
    have := h k (by
      obtain ⟨h1, _⟩ := List.getElem?_eq_some_iff.mp hk
      exact h1)
    rw [hk] at this
    simpa using this
  · intro h k hk
    have := h k _ (List.getElem?_eq_getElem hk)
    simpa [List.getElem?_eq_getElem hk] using this
def moveless (b : Bool) : State :=
  let s := (stage .stopping).modCore 0 (fun c => { c with slots := [slotOf 3 headerA], accs := [accOf 3] })
  if b then s else s.modThread (ref 0) (fun t => { t with pend := [pendOf (accessAt (.load false false) 0x100 4 2)] })
theorem witness_stage : ∀ st ∈ [GState.requested, .stopping, .saving, .restoring], ∃ x l, (stage st).group? 1 = some x ∧ (stage st).launchOf 1 = some l ∧ x.gid = 1 ∧ x.st = st
    ∧ x.deadline = some 5 ∧ x.offers = false ∧ ((stage st).groups.map (fun y => y.gid)).Nodup ∧ recordMode ((stage st).modesOf 1) = 0 ∧ l.p.prio < (stage st).waiting.length
    ∧ (stage st).dbg.trigger = none ∧ (stage st).now < 5 ∧ 5 ≤ ({ stage st with now := 5 } : State).now := by
  have h : ∀ st ∈ [GState.requested, .stopping, .saving, .restoring], ((stage st).group? 1).isSome ∧ ((stage st).launchOf 1).isSome
    ∧ (((stage st).group? 1).map (fun x => decide (x.gid = 1 ∧ x.st = st ∧ x.deadline = some 5 ∧ x.offers = false))).getD false
    ∧ (((stage st).launchOf 1).map (fun l => decide (l.p.prio < (stage st).waiting.length))).getD false
    ∧ ((stage st).groups.map (fun y => y.gid)).Nodup ∧ recordMode ((stage st).modesOf 1) = 0 ∧ (stage st).dbg.trigger = none ∧ (stage st).now < 5
    ∧ 5 ≤ ({ stage st with now := 5 } : State).now := by decide +kernel
  intro st hst
  obtain ⟨-, -, h3, h4, h5, h6, h7⟩ := h st hst
  obtain ⟨x, hx, h31, h32, h33, h34⟩ := some_with h3
  obtain ⟨l, hl, h4⟩ := some_with h4
  exact ⟨x, l, hx, hl, h31, h32, h33, h34, h5, h6, h4, h7⟩
theorem witness_still : (∃ x, (moveless true).group? 1 = some x ∧ x.st = .stopping ∧ GroupStill (moveless true) 1 x)
    ∧ (∃ x, (moveless false).group? 1 = some x ∧ x.st = .stopping ∧ ¬GroupStill (moveless false) 1 x) ∧ ((moveless true).core 0).slots.length = 1 := by
  have h : ∀ b ∈ [true, false], (((moveless b).group? 1).map (fun x => decide (x.st = .stopping))).getD false ∧ stillB (moveless b) = b ∧ ((moveless true).core 0).slots.length = 1 := by decide +kernel
  obtain ⟨x, hx, ht⟩ := some_with (h true (by decide)).1
  obtain ⟨y, hy, hf⟩ := some_with (h false (by decide)).1
  exact ⟨⟨x, hx, ht, (still_of hx).mp (h true (by decide)).2.1⟩, ⟨y, hy, hf, fun hn => by simpa [(h false (by decide)).2.1] using (still_of hy).mpr hn⟩, (h true (by decide)).2.2⟩
/-- The packet that the queue's context runs is over, or not; the state is being stored, or not yet. -/
theorem witness_packet_over : ∀ b ∈ [true, false], let s := ((stage .stopping).modGroup 1 (fun g => { g with stopPkt := some 1 })).modCox (small id).cox (fun c => { c with state := if b then 1 else 2, packets := 1 })
    (s.group? 1).map (fun x => s.packetOver 1 x) = some b := by decide +kernel
theorem witness_saving : ∀ b ∈ [true, false], (((stage .saving).modGroup 1 (fun g => { g with storing := b })).group? 1).map (fun x => (x.st, x.storing)) = some (.saving, b) := by decide +kernel
/-- The debugger holds a block of the group, at the deadline and in the stop; it has swapped the group out, or not. -/
theorem witness_held_up : ∀ st ∈ [GState.requested, .stopping, .restoring], ∀ w ∈ [true, false],
    (((stage st).modGroup 1 (fun g => { g with swapped := w, blocks := g.blocks.map (fun b => { b with stop := .halted }) })).group? 1).map (fun x => (x.st, x.heldUp, x.swapped)) = some (st, true, w)
    ∧ ((stage st).group? 1).map (fun x => (x.heldUp, x.swapped)) = some (false, false) := by decide +kernel
/-- At its deadline the group offers. -/
def offering : State :=
  { queuedWork (lists [.launch 1]) with
    launches := [small id, { small id with idx := 1 }],
    groups := [{ group [block [crew [{ thread [7] with yielded := some 0 }]]] with st := .requested, deadline := some 0 }] }
theorem witness_offers : (offering.group? 1).map (fun x => (x.st, x.deadline, x.offers, x.heldUp)) = some (.requested, some 0, true, false) ∧ 0 ≤ offering.now := by decide +kernel
/-- HWX of the section has run 2^28 ahead of the clock at the save, or one less. -/
theorem witness_ahead : ∀ v ∈ [2 ^ 28, 2 ^ 28 - 1], (((({ stage .restoring with hubs := [{ Hub.reset with hwx := BitVec.ofNat 64 v }] } : State).group? 1).map (fun x =>
    decide (x.savedHwx.toNat + 2 ^ 28 ≤ (({ stage .restoring with hubs := [{ Hub.reset with hwx := BitVec.ofNat 64 v }] } : State).hub x.sect).hwx.toNat))) = some (decide (v = 2 ^ 28))) := by decide +kernel

/-! ## Clocks, evictions, peers, Sweep ports -/

def aged2 : Stamp := { settledStamp 7 with wo := 100, ro := 200 }
def aboveB (f : Word) (x : Stamp) : Bool := above f x.wo || above f x.ro || above f x.ws || above f x.rs
theorem below_iff {f : Word} {x : Stamp} : below f x ↔ aboveB f x = true := by simp [below, aboveB, or_assoc]
def resting (hw : Word) : State :=
  ({ State.reset with
    agenda := [],
    hubs := List.replicate 6 { Hub.reset with hw := hw, sc := 50 },
    l3 := [{ HomeLine.fresh (lineId 0x100100) 0 with stamp := aged2 }] } : State).modCore 5 (fun c => { c with l1 := [{ dirtyLine 0x100100 with stamp := aged2 }] })
/-- ClocksKept: a stamp below the floor, and one that is not. -/
theorem witness_sweep : ((resting 0x40000000).l3.find? (fun x => x.line == lineId 0x100100)).map (fun h => h.stamp) = some aged2 ∧ (lineId 0x100100).hub < (resting 0x40000000).hubs.length
    ∧ below (floorRule (resting 0x40000000) (lineId 0x100100).hub) aged2 ∧ ¬below (floorRule (resting 100) (lineId 0x100100).hub) aged2
    ∧ below (floorRule (resting 0x40000000) (5 / 96)) aged2 ∧ ¬below (floorRule (resting 100) (5 / 96)) aged2
    ∧ (((resting 100).core 5).l1).map (fun x => x.stamp) = [aged2] ∧ 5 / 96 < (resting 100).hubs.length ∧ (resting 100).allBlocks = [] := by
  simp only [below_iff]
  decide +kernel
theorem witness_raise : (two.thread? (ref 0)).map (fun x => x.exited) = some false ∧ (two.block? (ref 0).block).map (fun b => (b.core, b.ended)) = some (0, false)
    ∧ two.stands (ref 0).g = true ∧ two.replays (ref 0).g = false ∧ recordMode (two.modesOf (ref 0).g) = 0 ∧ (two.crew? (ref 0).crew).map (fun c => c.threads.length) = some 2
    ∧ (two.groups.map (fun g => g.gid)).Nodup := by decide +kernel

/-- EvictionsKeep: an L1 line with four dirty bytes; L3 lines that may leave, and that may not. -/
def evicting : State := cachedLine 0x100100 open_
theorem witness_evict : evicting.l1Line 0 (lineId 0x100100) = some (dirtyLine 0x100100) ∧ (dirtyLine 0x100100).st ≠ .updateOnly ∧ (evicting.homeLine (lineId 0x100100)).uo = none
    ∧ (evicting.homeLine (lineId 0x100100)).holders = [] ∧ (evicting.homeLine (lineId 0x100100)).bad = none ∧ evicting.marked (lineId 0x100100) = false ∧ evicting.racingAsids = []
    ∧ (dirtyLine 0x100100).data.length = 128 ∧ (dirtyLine 0x100100).mask.getLsbD 8 = true ∧ (dirtyLine 0x100100).mask.getLsbD 7 = false := by decide +kernel
theorem witness_evict3 : ∀ h ∈ [{ HomeLine.fresh (lineId 0x100100) 0 with stamp := aged2 }, { HomeLine.fresh (lineId 0x100100) 0 with holders := [3] }],
    ({ resting 100 with l3 := [h] } : State).l3.find? (fun x => x.line == lineId 0x100100) = some h
    ∧ ((h.uo.isSome ∨ h.holders ≠ [] ∨ h.spilled = true ∨ h.staged ≠ [] ∨ h.bad.isSome) ↔ h.holders = [3]) := by decide +kernel

/-- PeerAccess: the last bytes of a line. -/
def asked (kind : PeerKind) (va size : Nat) : PeerReq :=
  { id := 9, src := 4, asid := 0, va := BitVec.ofNat 48 va, size := size, kind := kind, scope := 2, ident := 77, pc := 0, o := 5, s := 6, pa := 0, fs := none, engine := false,
    group := (9, 1), precise := false }
def home1 : State := { paged State.reset with agenda := [] }
def peerLine (s : State) (r : PeerReq) (pa : Nat) (l : LineId) (off : Nat) : Bool :=
  (match s.translate none r.asid r.va.toNat (needOf (peerAcc r.kind).need) with
   | .inr x => decide (x.1 = pa)
   | _ => false)
  && decide (lineOf pa = some (l, off) ∧ off + r.size ≤ 128) && decide ((s.homeLine l).uo = none ∧ (s.homeLine l).bad = none ∧ (s.homeLine l).holders = [] ∧ s.marked l = false)
    && s.cores.all (fun c => c.l1.isEmpty)
theorem peerLine_of {s : State} {r : PeerReq} {pa : Nat} {l : LineId} {off : Nat} (h : peerLine s r pa l off = true) : PeerLine s r l off := by
  simp only [peerLine, Bool.and_eq_true, decide_eq_true_eq] at h
  obtain ⟨⟨⟨h1, h2⟩, h3⟩, h4⟩ := h
  cases hp : s.translate none r.asid r.va.toNat (needOf (peerAcc r.kind).need) with
  | inl f => simp [hp] at h1
  | inr x =>
    simp only [hp, decide_eq_true_eq] at h1
    exact ⟨⟨pa, x.2, by rw [hp, ← h1], h2⟩, h3.1, h3.2.1, h3.2.2.1, h3.2.2.2, fun n => noL1_of h4 l n⟩
def peerKinds : List (PeerKind × Nat) :=
  [(.read true, 8), (.write true (List.replicate 8 0x5A), 8), (.counterAdd 3, 8), (.atomic 0 8 0x10 0 true true, 8), (.atomic 11 16 0x3C00 5 true true, 2), (.counter 5, 8)]
theorem witness_alone (k : PeerKind) (va n : Nat) : ServedAlone home1 (asked k va n) := ⟨by simp [asked], by simp [home1, paged, State.modCox, State.reset]⟩
/-- The second request of a group of three. -/
theorem witness_held : let r := { asked (.read true) 0x100100 4 with group := (7, 3) }
    (({ home1 with peerHeld := [{ r with id := 8 }] } : State).peerHeld.filter (fun q => q.src == r.src && q.group == r.group)).length + 1 < r.group.2 := by decide +kernel
theorem witness_peer : ∀ k ∈ peerKinds, PeerLine home1 (asked k.1 (0x100180 - k.2) k.2) (lineId 0x100100) (128 - k.2) ∧ (∀ op ty v, k.1 ≠ .reduce op ty v)
    ∧ (∀ b d, k.1 = .write b d → d.length = k.2) ∧ (∀ op ty v w a b, k.1 = .atomic op ty v w a b → op ≤ 11 ∧ k.2 = tyBytes ty ∧ k.2 ≤ 8 ∧ v.toNat < 2 ^ (8 * k.2) ∧ w.toNat < 2 ^ (8 * k.2))
    ∧ (∀ n, k.1 = .counter n → k.2 = 8 ∧ leNat (home1.mem.readN ((lineId 0x100100).key + (128 - k.2)) 8) < 2 ^ 64 - 1) := by
  have h : ∀ k ∈ peerKinds, peerLine home1 (asked k.1 (0x100180 - k.2) k.2) (0x100180 - k.2) (lineId 0x100100) (128 - k.2) = true ∧ (match k.1 with
    | .reduce _ _ _ => false
    | .write _ d => decide (d.length = k.2)
    | .atomic op ty v w _ _ => decide (op ≤ 11 ∧ k.2 = tyBytes ty ∧ k.2 ≤ 8 ∧ v.toNat < 2 ^ (8 * k.2) ∧ w.toNat < 2 ^ (8 * k.2))
    | .counter _ => decide (k.2 = 8 ∧ leNat (home1.mem.readN ((lineId 0x100100).key + (128 - k.2)) 8) < 2 ^ 64 - 1)
    | _ => true) = true := by decide +kernel
  intro k hk
  obtain ⟨h1, h2⟩ := h k hk
  refine ⟨peerLine_of h1, ?_, ?_, ?_, ?_⟩
  · intro op ty v e
    simp [e] at h2
  · intro b d e
    simpa [e] using h2
  · intro op ty v w a b e
    simpa [e] using h2
  · intro n e
    simpa [e] using h2
/-- A store that races with a later write of its line, from a party whose races are traps, or not: the answer says so, and the bytes stand in the first. -/
def racing1 : State := { home1 with l3 := [{ HomeLine.fresh (lineId 0x100100) 0 with stamp := { (HomeLine.fresh (lineId 0x100100) 0).stamp with w := 0x80000040, wo := 1000, ws := 1000 } }] }
theorem test_peer_race : ∀ b ∈ [true, false], (match exec (.peerRequest { asked (.write false (List.replicate 8 0x5A)) 0x100178 8 with precise := b }) racing1 with
    | .next t => (t.peerSent.map (fun a => a.race.isSome), t.physNat 0x100178 8)
    | _ => ([], 0)) = ([true], if b then 0 else 0x5A5A5A5A5A5A5A5A) := by decide +kernel
/-- No page for the address. -/
theorem witness_peer_fault : (home1.translate none 0 0x900000000 (needOf (peerAcc (.read true)).need)).isLeft = true := by decide +kernel
/-- The response to a thread's store, load and atomic; 20 ms after the request, or a tick before. -/
def out1 (kind : PeerKind) : PeerOut := { req := { asked kind 0x110028 4 with src := 0 }, who := ref 0, pend := 5, sent := 1000, cox := none, chip := 4 }
def outgoing (kind : AccKind) (pk : PeerKind) : State := { withAccess (state [thread [0, 0, 0, 0, 0, 0, 0, 0]]) (accessAt kind 0x110028 4 3) with peerOut := [out1 pk] }
def outKinds : List (AccKind × PeerKind) := [(.load false true, .read true), (.store false, .write true [1, 2, 3, 4]), (.atom 0 3 false false, .atomic 0 3 1 0 false false)]
theorem witness_peer_out : ∀ k ∈ outKinds, (outgoing k.1 k.2).peerOut.find? (fun q => q.req.id == 9) = some (out1 k.2) ∧ (out1 k.2).cox = none
    ∧ (outgoing k.1 k.2).cmd? (out1 k.2).who.block (out1 k.2).pend = none
    ∧ ((outgoing k.1 k.2).thread? (out1 k.2).who).map (fun x => x.pend.find? (fun q => q.id == 5)) = some (some (pendOf (accessAt k.1 0x110028 4 3)))
    ∧ k.2 ≠ .counter 5 ∧ (outgoing k.1 k.2).replays 1 = false ∧ recordMode ((outgoing k.1 k.2).modesOf 1) = 0
    ∧ (k.1.reads = false → (accessAt k.1 0x110028 4 3).dest = []) := by decide +kernel
theorem witness_peer_late : ∀ t ∈ [1000 + 20000 * usTicks, 999 + 20000 * usTicks], ({ outgoing (.store false) (.write true [1]) with now := t } : State).peerOut.find? (fun q => q.req.id == 9)
    = some (out1 (.write true [1])) ∧ ((out1 (.write true [1])).sent + 20000 * usTicks ≤ t ↔ t = 1000 + 20000 * usTicks) := by decide +kernel

/-- SweepPorts: a port in each state. -/
def flit : Flit := { dst := 0, src := 3, kind := Config.flitKind 3, cls := 3, seq := 7, ack := 0, param := 0x12345, payload := [], crc := 0 }
def good_ (f : Flit) : Flit := { f with crc := Config.flitCrc f.bytes }
def portIn (st run now : Nat) : State :=
  ({ State.reset with agenda := [], now := now } : State).modPort 9 (fun x => { x with st := st, en := true, rxNext := 7, run := run, unacked := [flit], ackAt := 0, downAt := some 0 })
theorem witness_port : (∀ r ∈ [14, 15], ((portIn 2 r 0).port 9).st = 2 ∧ ((portIn 2 r 0).port 9).run = r) ∧ (∀ st ∈ [1, 3], ((portIn st 0 0).port 9).st = st ∧ ((portIn st 0 0).port 9).en = true)
    ∧ ((portIn 2 0 (100 * usTicks)).port 9).unacked ≠ [] ∧ ((portIn 2 0 (100 * usTicks)).port 9).ackAt + 100 * usTicks ≤ (portIn 2 0 (100 * usTicks)).now
    ∧ ((portIn 3 0 (10000 * usTicks)).port 9).downAt = some 0 ∧ 10000 * usTicks ≤ (portIn 3 0 (10000 * usTicks)).now := by decide +kernel
def bad_ (f : Flit) : Flit := { f with crc := Config.flitCrc f.bytes + 1 }
theorem bad_crc (f : Flit) : (bad_ f).crc ≠ Config.flitCrc (bad_ f).bytes := by
  have : (bad_ f).bytes = f.bytes := rfl
  rw [this]
  simp [bad_]
/-- The kind of a control flit is one number, and the sequence number of a data flit the next or another. -/
theorem witness_flit : ∃ k, k ≠ Config.flitKind 5 ∧ (∀ f, (bad_ f).crc ≠ Config.flitCrc (bad_ f).bytes)
    ∧ (∀ f, (good_ f).crc = Config.flitCrc (good_ f).bytes ∧ (good_ f).seq = f.seq ∧ (good_ f).kind = f.kind) ∧ ({ flit with kind := k } : Flit).seq = ((portIn 2 0 0).port 9).rxNext
    ∧ ({ flit with kind := k, seq := 8 } : Flit).seq ≠ ((portIn 2 0 0).port 9).rxNext ∧ (({ flit with kind := k, seq := 8 } : Flit).seq - ((portIn 2 0 0).port 9).rxNext).toNat < 2048
    ∧ ({ flit with kind := k, seq := 6 } : Flit).seq ≠ ((portIn 2 0 0).port 9).rxNext ∧ 2048 ≤ (({ flit with kind := k, seq := 6 } : Flit).seq - ((portIn 2 0 0).port 9).rxNext).toNat :=
  ⟨Config.flitKind 5 + 1, by simp, bad_crc, fun f => ⟨rfl, rfl, rfl⟩, by decide +kernel⟩
/-- The flit's class has room, or none. -/
theorem witness_room_flit : ((portIn 2 0 0).port 9).free flit.cls.toNat ≠ 0
    ∧ ({ (portIn 2 0 0).port 9 with rx := List.replicate (65 + Config.rxRoom 3) flit } : Port).free flit.cls.toNat = 0 := by
  have h : ((portIn 2 0 0).port 9).rx = [] := rfl
  have hc : flit.cls.toNat = 3 := rfl
  constructor
  · simp only [Port.free, h, hc, List.filter_nil, List.length_nil]
    omega
  · simp [Port.free, hc]

/-! ## Recorder, trace, errors -/

def record (index clock block : Nat) : RRec :=
  { index := BitVec.ofNat 64 index, kind := 1, launch := 0, ident := BitVec.ofNat 32 block, clock := BitVec.ofNat 32 clock, count := 0, pch := 0, trap := false, mask := 1,
    sreg := 0, value := 0, block := block, crew := 0, words := [], released := false, complete := false }
def recordings : List RRec := [record 0 3 0, record 1 3 0, record 2 3 1, record 3 9 2]
def replaying : State := { State.reset with agenda := [] }.modHub 2 (fun h => { h with recd := { h.recd with state := 2, replay := recordings } })
/-- FrontierReleases: at the frontier, with an earlier open record of its block and without; behind it. -/
theorem witness_frontier : 2 < replaying.hubs.length ∧ (replaying.hub 2).recd.state = 2 ∧ replaying.frontierStands = false ∧ (replaying.hub 2).recd.rrget = (replaying.hub 2).recd.rrput
    ∧ (replaying.hub 2).recd.rbchk.getLsbD 32 = false ∧ replaying.frontier = some 3 ∧ (replaying.hub 2).recd.replay = recordings ∧ (recordings.map (fun x => x.index)).Nodup
    ∧ recordings.map (fun r => decide (r.fronts = true ∧ r.clock = 3)) = [true, true, true, false] ∧ (record 0 3 0).sameParty (record 1 3 0) = true
    ∧ (record 0 3 0).sameParty (record 2 3 1) = false := by decide +kernel
def lostChip (now : Nat) : State :=
  { replaying with remoteLu := [⟨5, 1, some 3, 1000⟩], now := now, launches := [small (fun p => { p with modes := 2 })] }
theorem witness_lost : ∀ t ∈ [1000 + 20000 * usTicks, 999 + 20000 * usTicks], (lostChip t).remoteLu.find? (fun x => x.chip == 5 && x.hub == 1) = some ⟨5, 1, some 3, 1000⟩
    ∧ (lostChip t).divsNow = [] ∧ (lostChip t).chipLost 5 = true ∧ ((lostChip t).hubs.any (fun h => h.recd.state == 2)) = true
    ∧ (((lostChip t).launches.find? (fun l => l.isOpen && recordMode l.p.modes == 2)).isSome = true) ∧ (∀ h < 6, ((lostChip t).hub h).recd.diverged = false)
    ∧ (1000 + 20000 * usTicks ≤ (lostChip t).now ↔ t = 1000 + 20000 * usTicks) := by decide +kernel

/-- TraceKept: three frames in a ring with room for two, for all and for none; the gate's 50 µs; the gate frame. -/
def framesIn (put now : Nat) (gating : Option Nat) : State :=
  { State.reset with
    agenda := [],
    now := now,
    sections := (List.range 6).map (fun i => if i = 2 then
      { Section.reset with buffer := List.replicate 3 (List.replicate 64 7), trput := BitVec.ofNat 64 put, gating := gating, gateFrames := [List.replicate 64 9] } else Section.reset) }
theorem witness_frames : 2 < (framesIn 0 0 none).sections.length ∧ (∀ x ∈ [(0, 2 ^ 24), (2 ^ 24 - 2, 2), (2 ^ 24, 0)],
    ((framesIn x.1 0 none).sect 2).trsize.toNat * 2 ^ 24 - (((framesIn x.1 0 none).sect 2).trput - ((framesIn x.1 0 none).sect 2).trget).toNat = x.2)
    ∧ ((framesIn 0 0 none).sect 2).gated = false ∧ ((framesIn 0 0 none).sect 2).gating = none ∧ ((framesIn 0 (50 * usTicks) (some 0)).sect 2).gating = some 0
    ∧ ((framesIn 0 0 none).sect 2).gateFrames = [List.replicate 64 9]
    ∧ (∃ l, lineOf (((framesIn 0 0 none).sect 2).trbase.toNat + 64 * (((framesIn 0 0 none).sect 2).trput.toNat % 2 ^ 24)) = some (l, 0)) := by
  have h : lineOf (((framesIn 0 0 none).sect 2).trbase.toNat + 64 * (((framesIn 0 0 none).sect 2).trput.toNat % 2 ^ 24)) = some (lineId 0, 0) := by decide +kernel
  refine ⟨?_, ?_, ?_, ?_, ?_, ?_, _, h⟩ <;> decide +kernel

/-- ErrorsHandled: the second granule of a line; a window over its threshold and at it; an automatic cut pending in another section. -/
def counted (w : Nat) : State :=
  { resting 0 with sections := (List.range 6).map (fun i => if i = 2 then { Section.reset with cethr := 5, window := w, warn := 0x1402 } else Section.reset), linkUp := true }
theorem witness_errors : 2 < (counted 5).sections.length ∧ lineOf 0x100120 = some (lineId 0x100100, 32) ∧ (lineId 0x100100).hub < (counted 5).hubs.length
    ∧ ((counted 5).l3.map (fun h => h.line)).Nodup ∧ ((counted 5).sect 2).window = ((counted 5).sect 2).cethr.toNat ∧ ((counted 6).sect 2).cethr.toNat < ((counted 6).sect 2).window
    ∧ ((counted 6).sect 2).cethr ≠ 0 ∧ (∀ y ∈ (counted 6).sections, y.autoPending = false) ∧ (∃ y ∈ ((counted 6).modSect 4 (fun y => { y with autoPending := true })).sections, y.autoPending = true) ∧ (∃ h ∈ (counted 5).l3, h.line = lineId 0x100100) ∧ bitsOf ((counted 6).sect 2).warn.toNat 14 9 = 10 ∧ 10 ∉ (counted 6).msixMask := by decide +kernel

/-! ## Registers, the host link, boot -/

theorem samePage {a b : Nat} (h : a / 2 ^ 16 = b / 2 ^ 16) (z : Nat) : a / 2 ^ pageBits z = b / 2 ^ pageBits z := by
  unfold pageBits
  split
  · exact h
  · split <;> omega
theorem walk_page (s : State) (r : Nat) (asid : BitVec 16) {a b : Nat} (h : a / 2 ^ 16 = b / 2 ^ 16) : s.walk r asid a = s.walk r asid b := by
  have hp (root z : Nat) : s.probes root z asid a = s.probes root z asid b := by unfold State.probes; rw [samePage h z]
  have hb (pa z : Nat) : s.bucketHits pa z asid a = s.bucketHits pa z asid b := by unfold State.bucketHits pteHits; rw [samePage h z]
  unfold State.walk
  simp only [hp, hb]
/-- One page's entry, for every address of it. -/
theorem unitPa_page {s : State} {asid : BitVec 16} {r : Nat} {e : Pte} {v : Nat} {va : DWord} (hr : s.recordOf asid = some r) (hw : s.walk r asid v = .inr [e])
    (he : e.missing (needOf 0) = 0 ∧ e.homeGood = true) (hv : va.toNat / 2 ^ 16 = v / 2 ^ 16) (hi : va.toNat < 2 ^ 56) (hl : (lineOf (e.pa va.toNat)).isSome = true) :
    s.unitPa asid va 1 0 = .inr (e.pa va.toNat) := by
  have hw2 : s.walk r asid va.toNat = .inr [e] := by rw [walk_page s r asid hv, hw]
  have h1 : field va 63 56 = 0 := by simp only [field, BitVec.extractLsb'_toNat, Nat.shiftRight_eq_div_pow]; omega
  have h2 : field va 55 0 = va.toNat := by simp only [field, BitVec.extractLsb'_toNat, Nat.shiftRight_eq_div_pow]; omega
  have hn : (lineOf (e.pa va.toNat)).isNone = false := by rw [Option.isNone_eq_false_iff]; exact hl
  simp [State.unitPa, h1, h2, State.translate, hr, hw2, Pte.use, he, hn, Nat.mod_one]

/-- QueueRegisters: an image of one instruction, an ACT, and one whose word is no instruction. -/
def image (w : Nat) : List Byte := leBytes 2 1 ++ List.replicate 142 0 ++ leBytes 4 w
def checking (w : Nat) : State :=
  poke (poke (coxed State.reset (fun c => { c with en := false, loaded := false, checking := some (0x120000, 0x10000) })) 0x120000 2 1) 0x120090 4 w
def entry2 : Pte := { size := 0, ppn := 0x12, homev := false, home := 0, cache := 0, x := true, w := true, r := true }
theorem witness_image : ∀ w ∈ [0x58000000, 0xFFFFFFFF], ((checking w).cox cx).checking = some (0x120000, 0x10000) ∧ Plain (checking w) cx
    ∧ (image w).length = 144 + 4 * min 1024 (leNat ((image w).take 2)) ∧ (∀ i < 148, ∃ p, (checking w).unitPa (BitVec.ofNat 16 ((checking w).physNat 0x10000 2)) (0x120000 + BitVec.ofNat 64 i) 1 0 = .inr p
      ∧ (lineOf p).isSome = true ∧ (image w)[i]? = some ((checking w).physByte p)) ∧ ((checkImage (image w)).isRight = decide (w = 0x58000000)) := by
  have h : ∀ w ∈ [0x58000000, 0xFFFFFFFF], ((checking w).cox cx).checking = some (0x120000, 0x10000) ∧ plainB (checking w) = true
      ∧ (image w).length = 144 + 4 * min 1024 (leNat ((image w).take 2)) ∧ (checking w).recordOf 0 = some 0x10000 ∧ (checking w).walk 0x10000 0 0x120000 = .inr [entry2]
      ∧ (checking w).physNat 0x10000 2 = 0 ∧ ((checkImage (image w)).isRight = decide (w = 0x58000000)) := by decide +kernel
  have hb : ∀ w ∈ [0x58000000, 0xFFFFFFFF], (List.range 148).all (fun i => (lineOf (0x120000 + i)).isSome && decide ((image w)[i]? = some ((checking w).physByte (0x120000 + i)))) = true := by
    decide +kernel
  intro w hw
  obtain ⟨h1, h2, h3, h4, h5, h6, h7⟩ := h w hw
  refine ⟨h1, plain_of h2, h3, fun i hi => ?_, h7⟩
  have hbi := List.all_eq_true.mp (hb w hw) i (List.mem_range.mpr hi)
  simp only [Bool.and_eq_true, decide_eq_true_eq] at hbi
  have hn : ((0x120000 : DWord) + BitVec.ofNat 64 i).toNat = 0x120000 + i := by
    rw [BitVec.toNat_add, BitVec.toNat_ofNat]
    have : (0x120000 : DWord).toNat = 0x120000 := rfl
    omega
  have hp : entry2.pa (0x120000 + i) = 0x120000 + i := by
    have : entry2.pa (0x120000 + i) = 0x12 * 65536 + (0x120000 + i) % 65536 := rfl
    omega
  have hl : (lineOf (entry2.pa ((0x120000 : DWord) + BitVec.ofNat 64 i).toNat)).isSome = true := by rw [hn, hp]; exact hbi.1
  have := unitPa_page h4 h5 (by decide +kernel) (by rw [hn]; omega) (by rw [hn]; omega) hl
  rw [hn, hp] at this
  rw [h6]
  exact ⟨_, this, hbi⟩

def hosted (s : State) : State := { s with linkUp := true }
def enabling (loaded tested : Bool) (state : Nat) : State :=
  let s := coxed State.reset (fun c => { c with en := false, loaded := loaded, state := state, kind := false, tinv := true })
  { hosted s with boot := { s.boot with tested := tested } }
theorem witness_enable : ∀ l ∈ [true, false], ∀ t ∈ [true, false], BarOpen (enabling l t 0) ∧ ((enabling l t 0).cox cx).en = false ∧ ((enabling l t 0).cox cx).loaded = l
    ∧ (enabling l t 0).boot.tested = t ∧ cx ≠ ⟨0, 15⟩ ∧ ((enabling l t 0).cox cx).state = 0 ∧ (enabling l t 0).boundRecs.length < 256 ∧ ((enabling l t 0).cox cx).tinv = true
    ∧ ((enabling l t 0).cox cx).kind = false := by
  have h : ∀ l ∈ [true, false], ∀ t ∈ [true, false], ((enabling l t 0).linkUp = true ∧ (enabling l t 0).boot.rcvState = 0 ∧ (enabling l t 0).hostHeld = []) ∧ ((enabling l t 0).cox cx).en = false
    ∧ ((enabling l t 0).cox cx).loaded = l ∧ (enabling l t 0).boot.tested = t ∧ cx ≠ ⟨0, 15⟩ ∧ ((enabling l t 0).cox cx).state = 0 ∧ (enabling l t 0).boundRecs.length < 256
    ∧ ((enabling l t 0).cox cx).tinv = true ∧ ((enabling l t 0).cox cx).kind = false := by decide +kernel
  exact fun l hl t ht => ⟨⟨(h l hl t ht).1.1, .inl (h l hl t ht).1.2.1, (h l hl t ht).1.2.2⟩, (h l hl t ht).2⟩
/-- EN is set again in a context that its own fault has stopped. -/
def resumable : State := hosted (coxed State.reset (fun c => { c with state := 4 }))
theorem witness_again : (resumable.linkUp = true ∧ resumable.boot.rcvState = 0 ∧ resumable.hostHeld = []) ∧ (resumable.cox cx).en = true ∧ (resumable.cox cx).state = 4
    ∧ (resumable.cox cx).haltStop = false ∧ (resumable.asid (resumable.ctxAsid cx)).halt = false := by decide +kernel
/-- 256 records are bound, and the context's is none of them. -/
def bound256 : State :=
  let s := enabling true true 0
  { s with coxes := s.coxes ++ (List.range 256).map (fun i => { s.cox cx with id := ⟨1, i⟩, en := true, bound := some (BitVec.ofNat 64 (0x40000 + 256 * i)) }) }
theorem witness_norec : (bound256.cox cx).ctxrec ∉ bound256.boundRecs ∧ 256 ≤ bound256.boundRecs.length ∧ (bound256.cox cx).en = false := by decide +kernel
def running (kind : Bool) : State := hosted (coxed State.reset (fun c => { c with kind := kind }))
theorem witness_qwrite : ((running false).linkUp = true ∧ (running false).boot.rcvState = 0 ∧ (running false).hostHeld = []) ∧ ((running false).cox cx).kind = false ∧ Plain (running false) cx ∧ NothingRecorded (running false)
    ∧ (running false).unitPa ((running false).ctxAsid cx) (((running false).cox cx).qhandle + 16) 8 1 = .inr 0x100010 ∧ (lineOf 0x100010).isSome = true ∧ ((running true).cox cx).kind = true
    ∧ ((running true).cox cx).en = true := by
  have h : (((running false).linkUp = true ∧ (running false).boot.rcvState = 0 ∧ (running false).hostHeld = []) ∧ ((running false).cox cx).kind = false ∧ plainB (running false) = true ∧ (running false).launches = []
    ∧ (running false).unitPa ((running false).ctxAsid cx) (((running false).cox cx).qhandle + 16) 8 1 = .inr 0x100010 ∧ (lineOf 0x100010).isSome = true ∧ ((running true).cox cx).kind = true
    ∧ ((running true).cox cx).en = true) := by decide +kernel
  refine ⟨h.1, h.2.1, plain_of h.2.2.1, fun l hl => ?_, h.2.2.2.2⟩
  rw [h.2.2.2.1] at hl
  simp at hl

/-- ContextRegisters: the context's ASID is halted or not. -/
def halting (halted : Bool) : State := hosted (((paged (state [thread [7]])).modCox cx (fun c => { c with state := 4 })).modAsid 0 (fun a => { a with halt := halted }))
theorem witness_halt : ∀ b ∈ [true, false], ((halting b).linkUp = true ∧ (halting b).boot.rcvState = 0 ∧ (halting b).hostHeld = []) ∧ ((halting b).asid ((halting b).ctxAsid cx)).halt = b
    ∧ ((halting b).groups.map (fun g => g.gid)).Nodup ∧ (halting b).allBlocks.map (fun x => (x.1, x.2.ended, (halting b).asidOf x.1.g)) = [(⟨1, 0⟩, false, (halting b).ctxAsid cx)]
    ∧ (halting b).launches.map (fun l => (l.asid, l.isOpen)) = [((halting b).ctxAsid cx, true)] ∧ 2 < (halting b).hubs.length ∧ ((halting b).hub 2).recd.held = []
    ∧ ((halting b).cox cx).en = true := by decide +kernel
theorem witness_ports : ((hosted (portIn 0 0 0)).port 9).st ∈ [0, 4] ∧ ((hosted (portIn 1 0 0)).port 9).st = 1 ∧ ((hosted (portIn 2 0 0)).port 9).st = 2 ∧ (0x3F : DWord).getLsbD 0 = true
    ∧ (0x3E : DWord).getLsbD 0 = false := by decide +kernel

/-- HostLinkWorks: the last four bytes of a line; an offset past every memory. -/
def bar : State := { hosted home1 with bar2 := 0x100000 }
theorem witness_bar2 : (bar.linkUp = true ∧ bar.boot.rcvState = 0 ∧ bar.hostHeld = []) ∧ 0x17C + 4 ≤ 2 ^ bar.bar2Log ∧ bar.bar2Backed 0x17C 4 = true ∧ bar.hostChunk = none ∧ bar.racingAsids = [] ∧ bar.launches = []
    ∧ lineOf (bar.bar2.toNat + 0x17C) = some (lineId 0x100100, 124) ∧ (bar.bar2.toNat + 0x17C) % 128 = 124 ∧ (bar.homeLine (lineId 0x100100)).uo = none
    ∧ (bar.homeLine (lineId 0x100100)).bad = none ∧ (bar.homeLine (lineId 0x100100)).holders = [] ∧ bar.marked (lineId 0x100100) = false ∧ bar.cores = []
    ∧ 0x1FFFFFFFFF0 + 4 ≤ 2 ^ bar.bar2Log ∧ bar.bar2Backed 0x1FFFFFFFFF0 4 = false ∧ bar.bar2ur = false ∧ 2 ^ bar.bar2Log < 0x1FFFFFFFFFE + 4 := by decide +kernel
theorem witness_bar_instr : BarInstr cx 5 0x08 (.registerWrite 0x08 5) ∧ BarInstr cx 5 4 (.hostBar2Write 4 []) := by constructor <;> unfold BarInstr <;> decide +kernel
def masked : State := { bar with msixPend := [3, 4], msixMask := [4] }
theorem witness_msix : 3 ∈ masked.msixPend ∧ 3 ∉ masked.msixMask ∧ 4 ∈ masked.msixPend ∧ 4 ∈ masked.msixMask ∧ masked.linkUp = true := by decide +kernel
theorem witness_time : (1000000 : Int) < ((1000001 : DWord) - bar.time).toInt ∧ ¬(1000000 : Int) < ((1000000 : DWord) - bar.time).toInt := by decide +kernel

/-- BootAndManagement: each state of the recovery; the two ends of the self-test. -/
def booting (rcv : Nat) (firmware : Bool) : State :=
  { hosted home1 with boot := { Boot.reset with rcvState := rcv, firmware := firmware, rcvLen := 64, table := 0x200000 } }
theorem witness_boot : (∀ r ∈ [1, 3], (booting r false).boot.rcvState ∈ [1, 3] ∧ (booting r false).boot.firmware = false ∧ (booting r false).linkUp = true)
    ∧ (booting 0 false).boot.rcvState ∉ [1, 3] ∧ (booting 2 false).boot.rcvState = 2 ∧ (booting 4 false).boot.rcvState = 4
    ∧ (booting 0 true).boot.firmware = true ∧ (booting 0 true).boot.tested = false ∧ (booting 0 true).launches = []
    ∧ (∀ c ∈ [0, 575], lineOf ((booting 0 true).boot.table.toNat + 256 * c + 128) = some (lineId (0x200080 + 256 * c), 0) ∧ lineId (0x200080 + 256 * c) ≠ lineId 0x224000)
    ∧ lineOf ((booting 0 true).boot.table.toNat + 147456) = some (lineId 0x224000, 0) := by decide +kernel
theorem witness_firmware_context : (((booting 0 true).modCox ⟨0, 15⟩ (fun c => { c with en := true })).cox ⟨0, 15⟩).en = true := by decide +kernel
theorem witness_spdm : SpdmRule .getVersion (.version 0x13) ∧ SpdmRule .getCapabilities (.capabilities true)
    ∧ SpdmRule .negotiateAlgorithms (.algorithms "SLH-DSA-SHA2-192s" "SHA-256" "SHA-256")
    ∧ SpdmRule .getDigests (.digests (Config.sha256 Config.certificate)) := by simp [SpdmRule]
theorem witness_slots : slotsOf 255 = [0, 1, 2, 3, 4, 5, 6, 7] ∧ slotsOf 3 = [3] ∧ slotsOf 9 = [] := by decide +kernel

/-! ## The step -/

def ops64 : Ops := { noOps with vd := ⟨false, 3⟩, vs1 := ⟨false, 1⟩, vs2 := ⟨false, 2⟩ }

def wordOf (i : Instr) : Nat := leNat (wordsBytes (encode i))
def fetched (i : Instr) : State := ({ State.reset with agenda := [] } : State).withFetchWord 64 (wordOf i)
def firstPass : Pass := { crew := crewRef, lanes := List.range 32, pc := 0, num := 1, defer := false, collective := false }
/-- StepRuns: the first pass of a crew, whose words are in the instruction cache. -/
theorem witness_step : (fetched (.iadd ops64)).focus = .pass firstPass ∧ ((fetched (.iadd ops64)).crew? firstPass.crew).isSome = true ∧ (Instr.iadd ops64).wellFormed = true
    ∧ opcodeOf (.iadd ops64) ≠ none
    ∧ (fetched (.iadd ops64)).fetchBytes ((fetched (.iadd ops64)).coreOf firstPass.crew.block) ((fetched (.iadd ops64)).asidOf firstPass.crew.g) firstPass.pc
      = some (wordsBytes (encode (.iadd ops64)) ++ List.replicate 24 0) := by decide +kernel
/-- Its word with a bit set that the form reserves; the threads have a trap vector. -/
def noInstr : State := (({ State.reset with agenda := [] } : State).withFetchWord 64 (2 ^ 64 - 1)).modThread (ref 3) (fun t => { t with trapvec := 0x400 })
theorem witness_step_trap : noInstr.focus = .pass firstPass ∧ (noInstr.crew? firstPass.crew).isSome = true ∧ firstPass.lanes.Nodup ∧ noInstr.replays firstPass.crew.g = false
    ∧ (∃ bs n, noInstr.fetchBytes (noInstr.coreOf firstPass.crew.block) (noInstr.asidOf firstPass.crew.g) firstPass.pc = some bs ∧ decodeThread bs = .inl n)
    ∧ (3 : Nat) ∈ firstPass.lanes ∧ ∃ x, noInstr.thread? (firstPass.crew.thread 3) = some x ∧ TakesTrap x ∧ x.faults = [] := by
  have h : noInstr.focus = .pass firstPass ∧ (noInstr.crew? firstPass.crew).isSome = true ∧ firstPass.lanes.Nodup ∧ noInstr.replays firstPass.crew.g = false
    ∧ ((noInstr.fetchBytes (noInstr.coreOf firstPass.crew.block) (noInstr.asidOf firstPass.crew.g) firstPass.pc).map (fun bs => decide ((decodeThread bs).isLeft = true))).getD false = true
    ∧ (3 : Nat) ∈ firstPass.lanes ∧ ((noInstr.thread? (firstPass.crew.thread 3)).map (fun x => decide (takes x = true ∧ x.faults = []))).getD false = true := by decide +kernel
  obtain ⟨h1, h2, h3, h4, h5, h6, h7⟩ := h
  obtain ⟨bs, hb, hd⟩ := some_with h5
  obtain ⟨n, hn⟩ := Sum.isLeft_iff.mp hd
  obtain ⟨x, hx, ht, hf⟩ := some_with h7
  exact ⟨h1, h2, h3, h4, ⟨bs, n, hb, hn⟩, h6, x, hx, takesTrap_of ht, hf⟩
theorem witness_step_cox : (State.reset.withFetchWord 32 0x58000000).focus = .cox ⟨0, 0⟩
    ∧ ((State.reset.withFetchWord 32 0x58000000).cox ⟨0, 0⟩).code[((State.reset.withFetchWord 32 0x58000000).cox ⟨0, 0⟩).pc]? = some 0x58000000 ∧ encodeCox .coxAct = some 0x58000000 := by
  decide +kernel
def due (a : Act) : State := { State.reset with focus := .none, agenda := [⟨0, a⟩] }
theorem witness_step_agenda : (due (.event .powerOnReset)).agenda = ⟨0, .event .powerOnReset⟩ :: [] ∧ (due (.cox cx)).agenda = ⟨0, .cox cx⟩ :: [] ∧ (due (.cox cx)).focus = .none := by decide +kernel
/-- The hub has executed four cox instructions in this hub cycle, or fewer. -/
def spentHub (n : Nat) : State := (due (.cox cx)).modHub 0 (fun h => { h with coxCycle := (due (.cox cx)).hubCycle, coxCount := n })
theorem witness_step_turn : ∀ n ∈ [3, 4], (spentHub n).focus = .none ∧ (spentHub n).agenda = ⟨0, .cox cx⟩ :: [] ∧ ((spentHub n).hub 0).coxCycle = (spentHub n).hubCycle
    ∧ ((spentHub n).hub 0).coxCount = n ∧ 0 < (spentHub n).hubs.length := by decide +kernel
/-- StepKeepsInv: a step of the crew above. -/
theorem witness_inv : (fetched (.iadd ops64)).Inv ∧ ∃ t, step (fetched (.iadd ops64)) = .next t := by
  refine ⟨⟨by decide +kernel, by decide +kernel, by decide +kernel, by decide +kernel⟩, ?_⟩
  have h : (match step (fetched (.iadd ops64)) with
    | .next _ => true
    | _ => false) = true := by decide +kernel
  cases hs : step (fetched (.iadd ops64)) with
  | next t => exact ⟨t, rfl⟩
  | fault f => simp [hs] at h
  | refused r => simp [hs] at h
/-- EncodingExact: a word of each kind that decodes (Table 3 of 04, 14). -/
theorem witness_encoding : (Instr.iadd ops64).wellFormed = true ∧ opcodeOf (.iadd ops64) ≠ none ∧ encodeCox .coxAct = some 0x58000000
    ∧ decodeThread (wordsBytes (encode (.iadd ops64)) ++ List.replicate 8 0) = .inr (.iadd ops64) ∧ decodeCox 0x58000000 = some .coxAct := by decide +kernel

/-! ## The self-test program (R470) -/

/-- The listing has 0x414 bytes; `elem` stands at 0x2E8, where the CALL at 0x60 goes, and `e_loop` at 0x300, where the BRA at 0x400 goes. -/
theorem test_marchc : Marchc.image.length = 0x414 ∧ 0x60 + 4 * 0xA2 = 0x2E8 ∧ 0x400 - 4 * 0x40 = 0x300
    ∧ decodeThread (Marchc.image.drop 0x60) = .inr (.call { noOps with len := .w96, stall := 3, vd := ⟨false, 20⟩, imm := 0xA2 })
    ∧ decodeThread (Marchc.image.drop 0x2E8) = .inr (.mov { noOps with vd := ⟨false, 3⟩, vs1 := ⟨false, 9⟩ })
    ∧ decodeThread (Marchc.image.drop 0x300) = .inr (.region noOps)
    ∧ decodeThread (Marchc.image.drop 0x400) = .inr (.bra { noOps with len := .w96, guard := ⟨14, 1, false⟩, imm := 0xFFFFFFC0 }) := by decide +kernel

end Sys2Proof.Tests
end

section
/-!
PROOFS. The instructions that `aluOp` runs: what one gives, and how a family's `GivesResult` comes from its instructions (R113).
-/
namespace Sys2Proof.Proofs

open Sys2Proof Sys2Proof.Machine Sys2Proof.Claims

/-- The entry of an opcode, for one that has an entry. -/
def rowAt (code : Nat) (o : Ops) : Row := (rowOf code o).getD {}

/-- The constructor `f` is the opcode `code`, has a destination of `w` registers and a fixed latency, and is run by `aluOp` with the value `g`. -/
structure IsAlu (f : Ops → Instr) (code w : Nat) (g : Ops → Row → Src → Nat) : Prop where
  opcode : ∀ o, opcodeOf (f o) = some (code, o) := by intros; rfl
  entry : ∀ o, rowOf code o = some (rowAt code o) := by intros; rfl
  lat : ∀ o, (rowAt code o).lat.isSome = true := by intros; rfl
  width : ∀ o, (rowAt code o).vd.width = w := by intros; rfl
  pos : 0 < w ∧ w ≤ 128 := by decide
  runs : ∀ o s, exec (f o) s = aluOp code o (g o) s := by intros; rfl

/-- One instruction of `GivesResult`. -/
def Gives (w : Ops → Nat) (f : Ops → Instr) (v : Ops → Src → Nat) : Prop :=
  ∀ (o : Ops) (s : State) (p : Pass) (e : Env) (code : Nat), opcodeOf (f o) = some (code, o) → Issues s p code o noFaults e →
    ∃ t, exec (f o) s = .next t ∧ t.resultIs e o (w o) (fun l => v o l.src)

theorem givesResult_nil (w : Ops → Nat) : GivesResult w [] := by
  intro f v hm
  simp at hm

/-- A family gives its results where each of its instructions does. -/
theorem givesResult_cons {w : Ops → Nat} {f : Ops → Instr} {v : Ops → Src → Nat} {rules : Rules} (h : Gives w f v) (hs : GivesResult w rules) :
    GivesResult w ((f, v) :: rules) := by
  intro g u hm
  rcases List.mem_cons.mp hm with he | hm
  · obtain ⟨rfl, rfl⟩ := Prod.mk.inj he
    exact h
  · exact hs g u hm

theorem reg_of_width_pos {d : Operand} (h : 0 < d.width) : ∃ a b k, d = .reg a b d.width k := by
  cases d with
  | reg a b w k => exact ⟨a, b, k, rfl⟩
  | none => exact absurd h (Nat.lt_irrefl 0)
  | num => exact absurd h (Nat.lt_irrefl 0)

/-- The destination receives the value that `aluOp` is run with. -/
theorem IsAlu.result {f : Ops → Instr} {code w : Nat} {g : Ops → Row → Src → Nat} (h : IsAlu f code w g) : Gives (fun _ => w) f (fun o => g o (rowAt code o)) := by
  intro o s p e c hop hi
  obtain rfl : code = c := by simpa [h.opcode] using hop
  have hrow : e.row = rowAt code o := Option.some.inj ((State.env_some hi.env).2.1.symm.trans (h.entry o))
  obtain ⟨n, hn⟩ := Option.isSome_iff_exists.mp (h.lat o)
  obtain ⟨a, b, k, hv⟩ := reg_of_width_pos (d := (rowAt code o).vd) (by rw [h.width]; exact h.pos.1)
  rw [h.width, ← hrow] at hv
  rw [← hrow] at hn
  obtain ⟨t, ht, hr⟩ := aluOp_result hi (g o) hn hv h.pos.2
  rw [hrow] at hr
  exact ⟨t, (h.runs o s).trans ht, hr⟩

/-- The same for a value that agrees with it. -/
theorem IsAlu.gives {f : Ops → Instr} {code w : Nat} {g : Ops → Row → Src → Nat} (h : IsAlu f code w g) {v : Ops → Src → Nat}
    (hv : ∀ o x, g o (rowAt code o) x = v o x) : Gives (fun _ => w) f v := by
  obtain rfl : (fun o => g o (rowAt code o)) = v := funext₂ hv
  exact h.result

/-- The type that an instruction works in is that of its type code, by its entry's default (R75, R116). -/
theorem opType_eq_typeOf (row : Row) (o : Ops) : opType row o = typeOf (row.ty.headD 0) o := rfl

end Sys2Proof.Proofs
end

section
/-!
PROOFS. Integer arithmetic (R118, R119).
-/
namespace Sys2Proof.Proofs

open Sys2Proof Sys2Proof.Machine Sys2Proof.Claims

theorem ext32_eq_ext (ty v : Nat) : ext32 ty v = ext (ty == 3) v := by
  by_cases h : ty = 3 <;> simp [ext32, ext, h]

theorem narrow32_eq_fit32 (ty : Nat) (sat : Bool) (r : Int) : narrow32 ty sat r = fit32 (ty == 3) sat r := by
  by_cases h : ty = 3 <;> simp [narrow32, fit32, h, BitVec.toNat_ofInt]

/-- The value of a 32-bit instruction of R118 with the operands `a`, `b` and `c` is that of its row of Table 2. -/
theorem narrow32_eq_arith (r : Int → Int → Int → Int) {row : Row} (hty : row.ty.headD 0 = 3) (o : Ops) (a b c : Nat) :
    narrow32 (opType row o) (satMod o) (r (ext32 (opType row o) a) (ext32 (opType row o) b) (ext32 (opType row o) c)) = arith r o a b c := by
  simp only [narrow32_eq_fit32, ext32_eq_ext, opType_eq_typeOf, hty]
  rfl

/-- What `arith32` runs `aluOp` with. -/
def arithValue (code : Nat) (r : Int → Int → Int → Int) (o : Ops) (row : Row) (x : Src) : Nat :=
  narrow32 (opType row o) (satMod o) (r (ext32 (opType row o) x.a)
    (ext32 (opType row o) (if row.form = .i && code ≠ 0x033 then o.imm.toNat else x.b))
    (ext32 (opType row o) (if row.form = .i then o.imm.toNat else x.c)))

/-- An instruction of Table 2 whose operands are registers. -/
theorem Gives.arithR (code : Nat) {f : Ops → Instr} {r : Int → Int → Int → Int} (h : IsAlu f code 1 (arithValue code r) := by exact {})
    (hty : ∀ o, (rowAt code o).ty.headD 0 = 3 := by intros; rfl) (hf : ∀ o, (rowAt code o).form = .r := by intros; rfl) :
    Gives (fun _ => 1) f (fun o x => arith r o x.a x.b x.c) :=
  h.gives (fun o x => by simpa [arithValue, hf o] using narrow32_eq_arith r (hty o) o x.a x.b x.c)

/-- An I form of Table 2 of two operands. -/
theorem Gives.arithI (code : Nat) {f : Ops → Instr} {r : Int → Int → Int} (h : IsAlu f code 1 (arithValue code (fun a b _ => r a b)) := by exact {})
    (hty : ∀ o, (rowAt code o).ty.headD 0 = 3 := by intros; rfl) (hf : ∀ o, (rowAt code o).form = .i := by intros; rfl)
    (hc : code ≠ 0x033 := by decide) : Gives (fun _ => 1) f (fun o x => arith (fun a b _ => r a b) o x.a o.imm.toNat x.c) :=
  h.gives (fun o x => by simpa [arithValue, hf o, hc] using narrow32_eq_arith (fun a b _ => r a b) (hty o) o x.a o.imm.toNat x.c)

theorem imadI_gives : Gives (fun _ => 1) .imadI (fun o x => arith (fun a b c => a * b + c) o x.a x.b o.imm.toNat) := by
  refine IsAlu.gives (code := 0x033) (g := arithValue 0x033 (fun a b c => a * b + c)) {} (fun o x => ?_)
  have hf : (rowAt 0x033 o).form = .i := rfl
  have hty : (rowAt 0x033 o).ty.headD 0 = 3 := rfl
  simpa [arithValue, hf] using narrow32_eq_arith (fun a b c => a * b + c) hty o x.a x.b o.imm.toNat

theorem iabs_gives : Gives (fun _ => 1) .iabs (fun o x => arith (fun a _ _ => |a|) o x.a x.b x.c) := by
  have h : (fun a _ _ => |a| : Int → Int → Int → Int) = fun a _ _ => (a.natAbs : Int) := by simp
  rw [h]
  exact .arithR 0x00E

/-- The byte-wise sum of ISAD under `.n8`. -/
theorem foldl_natAbs_eq_sum (d : Nat → Int) (c : Nat) (js : List Nat) :
    ((js.foldl (fun n j => n + (d j).natAbs) c : Nat) : Int) = c + (js.map (fun j => |d j|)).sum := by
  induction js generalizing c with
  | nil => simp
  | cons j js ih => simp [ih, add_assoc]

/-- What ISAD runs `aluOp` with. -/
def isadValue (o : Ops) (row : Row) (x : Src) : Nat :=
  if opType row o = 5 then
    narrow32 7 (satMod o) (((List.range 4).foldl (fun n j => n + ((byteAt x.a j : Int) - (byteAt x.b j : Int)).natAbs) x.c : Nat) : Int)
  else narrow32 (opType row o) (satMod o) (ext32 (opType row o) x.c + ((ext32 (opType row o) x.a - ext32 (opType row o) x.b).natAbs : Int))

theorem isad_gives : Gives (fun _ => 1) .isad (fun o x =>
    if typeOf 7 o = 5 then
      fit32 false (modBit o 13) (x.c + ((List.range 4).map (fun j => |((x.a / 256 ^ j % 256 : Nat) : Int) - ((x.b / 256 ^ j % 256 : Nat) : Int)|)).sum)
    else
      fit32 (typeOf 7 o == 3) (modBit o 13) (ext (typeOf 7 o == 3) x.c + |ext (typeOf 7 o == 3) x.a - ext (typeOf 7 o == 3) x.b|)) := by
  refine IsAlu.gives (code := 0x00F) (g := isadValue) {} (fun o x => ?_)
  have hty : opType (rowAt 0x00F o) o = typeOf 7 o := rfl
  simp only [isadValue, hty, narrow32_eq_fit32, ext32_eq_ext, foldl_natAbs_eq_sum, Int.natCast_natAbs]
  rfl

/-- R118, Table 2. -/
theorem arithResult : ArithResult :=
  givesResult_cons (.arithR 0x001) <| givesResult_cons (.arithI 0x030) <| givesResult_cons (.arithR 0x002) <| givesResult_cons (.arithI 0x031) <|
  givesResult_cons (.arithR 0x003) <| givesResult_cons (.arithR 0x004) <| givesResult_cons (.arithR 0x005) <| givesResult_cons (.arithI 0x032) <|
  givesResult_cons (.arithR 0x006) <| givesResult_cons (.arithR 0x007) <| givesResult_cons imadI_gives <| givesResult_cons (.arithR 0x00C) <|
  givesResult_cons (.arithI 0x034) <| givesResult_cons (.arithR 0x00D) <| givesResult_cons (.arithI 0x035) <| givesResult_cons iabs_gives <|
  givesResult_cons isad_gives <| givesResult_nil _

/-- What `arith64` runs `aluOp` with. -/
def wideValue (r : Nat → Src → Int) (o : Ops) (row : Row) (x : Src) : Nat := (BitVec.ofInt 64 (r (opType row o) x)).toNat

theorem toNat_ofInt_natCast (n : Nat) : (BitVec.ofInt 64 (n : Int)).toNat = n % 2 ^ 64 := by
  rw [BitVec.ofInt_natCast, BitVec.toNat_ofNat]

/-- An instruction of Table 3. -/
theorem Gives.wide (code : Nat) (r : Nat → Src → Int) {f : Ops → Instr} {v : Ops → Src → Nat} (h : IsAlu f code 2 (wideValue r) := by exact {})
    (hv : ∀ o x, wideValue r o (rowAt code o) x = v o x) : Gives (fun _ => 2) f v := h.gives hv

theorem imadw_gives : Gives (fun _ => 2) .imadw (fun o x => ((ext (isS32 o) x.a * ext (isS32 o) x.b + x.c) % 2 ^ 64).toNat) := by
  refine .wide 0x008 (fun ty x => ext32 ty x.a * ext32 ty x.b + x.c) (hv := fun o x => ?_)
  simp only [wideValue, ext32_eq_ext, BitVec.toNat_ofInt]
  rfl

/-- R119, Table 3. -/
theorem wideResult : WideResult :=
  givesResult_cons (.wide 0x009 (fun _ x => (x.a : Int) + x.b) (hv := fun _ x => toNat_ofInt_natCast (x.a + x.b))) <|
  givesResult_cons (.wide 0x00A (fun _ x => (x.a : Int) - x.b) (hv := fun _ _ => BitVec.toNat_ofInt _)) <|
  givesResult_cons (.wide 0x00B (fun _ x => (x.a : Int) * x.b + x.c) (hv := fun _ x => toNat_ofInt_natCast (x.a * x.b + x.c))) <|
  givesResult_cons imadw_gives <| givesResult_nil _

/-- Settles O1: each instruction of Tables 2 and 3 is run by `aluOp` with the value of its row. -/
theorem integerResult : Obligations.IntegerResult := ⟨arithResult, wideResult⟩

end Sys2Proof.Proofs
end

section
/-!
PROOFS. Logic, bit counts, shifts, bit fields and byte permutes (R120 to R124).
-/
namespace Sys2Proof.Proofs

open Sys2Proof Sys2Proof.Machine Sys2Proof.Claims

/-! ## Words from their bits -/

/-- The number that `ofBits32` forms of the bits below `n`. -/
def bitSum (f : Nat → Bool) (n : Nat) : Nat := (List.range n).foldl (fun m j => if f j then m + 2 ^ j else m) 0

theorem bitSum_succ (f : Nat → Bool) (n : Nat) : bitSum f (n + 1) = 2 ^ n * (f n).toNat + bitSum f n := by
  rw [bitSum, List.range_succ, List.foldl_append, List.foldl_cons, List.foldl_nil, ← bitSum]
  cases f n <;> simp [Nat.add_comm]

theorem bitSum_lt (f : Nat → Bool) (n : Nat) : bitSum f n < 2 ^ n := by
  induction n with
  | zero => exact Nat.one_pos
  | succ n ih =>
    rw [bitSum_succ, pow_succ]
    have := Nat.mul_le_mul_left (2 ^ n) (Bool.toNat_le (f n))
    omega

theorem testBit_bitSum (f : Nat → Bool) {n i : Nat} (hi : i < n) : (bitSum f n).testBit i = f i := by
  induction n with
  | zero => exact absurd hi (Nat.not_lt_zero i)
  | succ n ih =>
    rw [bitSum_succ, Nat.testBit_two_pow_mul_add _ (bitSum_lt f n)]
    split
    · exact ih ‹_›
    · obtain rfl : i = n := by omega
      cases h : f i <;> simp

theorem getLsbD_ofBits32 (f : Nat → Bool) {i : Nat} (hi : i < 32) : (ofBits32 f).getLsbD i = f i := by
  rw [ofBits32, BitVec.getLsbD_ofNat, decide_eq_true hi, Bool.true_and]
  exact testBit_bitSum f hi

/-! ## Bit counts -/

theorem length_filter_eq_sum_toNat (p : Nat → Bool) (l : List Nat) : (l.filter p).length = (l.map (fun i => (p i).toNat)).sum := by
  induction l with
  | nil => rfl
  | cons i l ih => cases h : p i <;> simp [h, ih, Nat.add_comm]

theorem toNat_popCount (a : Word) : (BitVec.ofNat 32 (popCount a)).toNat = ((List.range 32).map (fun i => (a.getLsbD i).toNat)).sum := by
  have hle : popCount a ≤ 32 := by simpa [popCount] using List.length_filter_le (fun i => a.getLsbD i) (List.range 32)
  rw [BitVec.toNat_ofNat, Nat.mod_eq_of_lt (by omega)]
  exact length_filter_eq_sum_toNat _ _

/-- `p` holds of the first `k` numbers below `n`, and no further. -/
theorem length_takeWhile_range {p : Nat → Bool} {n k : Nat} (hk : k ≤ n) (hp : ∀ j < k, p j = true) (hs : k < n → p k = false) :
    ((List.range n).takeWhile p).length = k := by
  obtain ⟨m, rfl⟩ := Nat.exists_eq_add_of_le hk
  rw [List.range_add, List.takeWhile_append_of_pos (by simpa using hp)]
  cases m with
  | zero => simp
  | succ m => simp [List.range_succ_eq_map, hs (by omega)]

theorem trailingZeros_zero : trailingZeros 0 = 32 := by decide
theorem leadingZeros_zero : leadingZeros 0 = 32 := by decide

theorem trailingZeros_eq_padicValNat {a : Word} (ha : a ≠ 0) : trailingZeros a = padicValNat 2 a.toNat := by
  have hn : a.toNat ≠ 0 := fun h => ha (BitVec.eq_of_toNat_eq h)
  obtain ⟨m, hm⟩ : 2 ^ padicValNat 2 a.toNat ∣ a.toNat := pow_padicValNat_dvd
  have hodd : ¬ 2 ∣ m := by
    rintro ⟨c, rfl⟩
    exact pow_succ_padicValNat_not_dvd hn ⟨c, by rw [pow_succ, Nat.mul_assoc]; exact hm⟩
  have hlt : 2 ^ padicValNat 2 a.toNat < 2 ^ 32 := lt_of_le_of_lt (Nat.le_of_dvd (by omega) ⟨m, hm⟩) a.isLt
  unfold trailingZeros
  generalize padicValNat 2 a.toNat = k at *
  refine length_takeWhile_range (Nat.le_of_lt ((Nat.pow_lt_pow_iff_right (by decide)).mp hlt)) (fun j hj => ?_) (fun _ => ?_)
  · rw [BitVec.getLsbD, hm, Nat.testBit_two_pow_mul]
    simp [hj]
  · rw [BitVec.getLsbD, hm, Nat.testBit_two_pow_mul]
    have h0 : m.testBit 0 = true := by
      rw [Nat.testBit_zero, decide_eq_true_eq]
      omega
    simp [h0]

theorem leadingZeros_eq_log2 {a : Word} (ha : a ≠ 0) : leadingZeros a = 31 - a.toNat.log2 := by
  have hn : a.toNat ≠ 0 := fun h => ha (BitVec.eq_of_toNat_eq h)
  have hlog : a.toNat.log2 < 32 := (Nat.log2_lt hn).mpr a.isLt
  have hrev : (List.range 32).reverse = (List.range 32).map (fun j => 31 - j) := by decide
  rw [leadingZeros, hrev, List.takeWhile_map, List.length_map]
  refine length_takeWhile_range (by omega) (fun j hj => ?_) (fun _ => ?_)
  · have : a.toNat.testBit (31 - j) = false := Nat.testBit_lt_two_pow ((Nat.log2_lt hn).mp (by omega))
    simpa [BitVec.getLsbD] using this
  · have : 31 - (31 - a.toNat.log2) = a.toNat.log2 := by omega
    simp [BitVec.getLsbD, this, Nat.testBit_log2 hn]

theorem toNat_leadingZeros (a : Word) : (BitVec.ofNat 32 (leadingZeros a)).toNat = if a = 0 then 32 else 31 - a.toNat.log2 := by
  split
  · subst a; rfl
  · rename_i h
    rw [leadingZeros_eq_log2 h, BitVec.toNat_ofNat, Nat.mod_eq_of_lt (by omega)]

theorem toNat_trailingZeros (a : Word) : (BitVec.ofNat 32 (trailingZeros a)).toNat = if a = 0 then 32 else padicValNat 2 a.toNat := by
  have hle : trailingZeros a ≤ 32 := by
    unfold trailingZeros
    exact (List.takeWhile_prefix _).length_le.trans (by simp)
  rw [BitVec.toNat_ofNat, Nat.mod_eq_of_lt (by omega)]
  split
  · subst a; exact trailingZeros_zero
  · rename_i h
    exact trailingZeros_eq_padicValNat h

/-! ## Logic -/

/-- What `logic32` runs `aluOp` with. -/
def logicValue (F : Word → Word → Word) (o : Ops) (row : Row) (x : Src) : Nat := (F (w32 x.a) (w32 (immOr o row x.b))).toNat

/-- An instruction of Table 4; for a bitwise operation the value is that of the rule by definition. -/
theorem Gives.logic (code : Nat) (F : Word → Word → Word) {f : Ops → Instr} {v : Ops → Src → Nat} (h : IsAlu f code 1 (logicValue F) := by exact {})
    (hv : ∀ o x, logicValue F o (rowAt code o) x = v o x := by intros; rfl) : Gives (fun _ => 1) f v := h.gives hv

theorem lop3_gives : Gives (fun _ => 1) .lop3 (fun o x => (ofBits32 (fun i =>
    (modBits o 19 12).testBit (((w32 x.a).getLsbD i).toNat + 2 * ((w32 x.b).getLsbD i).toNat + 4 * ((w32 x.c).getLsbD i).toNat))).toNat) :=
  IsAlu.gives (code := 0x015) (g := fun o _ x => (lop3 (modField o.mod 19 12) (w32 x.a) (w32 x.b) (w32 x.c)).toNat) {} (fun _ _ => rfl)

/-- R120 and R121. -/
theorem logicResult : LogicResult :=
  ⟨givesResult_cons (.logic 0x010 (· &&& ·)) <| givesResult_cons (.logic 0x038 (· &&& ·)) <|
    givesResult_cons (.logic 0x011 (· ||| ·)) <| givesResult_cons (.logic 0x039 (· ||| ·)) <|
    givesResult_cons (.logic 0x012 (· ^^^ ·)) <| givesResult_cons (.logic 0x03A (· ^^^ ·)) <|
    givesResult_cons (.logic 0x013 (fun a _ => ~~~a)) <|
    givesResult_cons (.logic 0x014 (fun a b => a &&& ~~~b)) <| givesResult_cons (.logic 0x03B (fun a b => a &&& ~~~b)) <|
    givesResult_cons (.logic 0x01F (fun a _ => ofBits32 (fun i => a.getLsbD (31 - i)))) <|
    givesResult_cons (.logic 0x020 (fun a _ => BitVec.ofNat 32 (popCount a)) (hv := fun _ _ => toNat_popCount _)) <|
    givesResult_cons (.logic 0x021 (fun a _ => BitVec.ofNat 32 (leadingZeros a)) (hv := fun _ _ => toNat_leadingZeros _)) <|
    givesResult_cons (.logic 0x022 (fun a _ => BitVec.ofNat 32 (trailingZeros a)) (hv := fun _ _ => toNat_trailingZeros _)) <|
    givesResult_cons lop3_gives <| givesResult_nil _,
   fun f _ hi => getLsbD_ofBits32 f hi⟩

/-! ## Shifts -/

theorem toNat_shl32 (a n : Nat) : (shl32 (w32 a) n).toNat = a * 2 ^ n % 2 ^ 32 := by
  unfold shl32 w32
  split
  · rename_i h
    obtain ⟨m, rfl⟩ := Nat.exists_eq_add_of_le h
    simp [pow_add, Nat.mul_left_comm a]
  · simp [BitVec.toNat_shiftLeft, Nat.shiftLeft_eq]

theorem toNat_shr32 (a n : Nat) : (shr32 (w32 a) n).toNat = a % 2 ^ 32 / 2 ^ n := by
  unfold shr32 w32
  split
  · rename_i h
    have : a % 2 ^ 32 < 2 ^ n := lt_of_lt_of_le (Nat.mod_lt _ (by decide)) (Nat.pow_le_pow_right (by decide) h)
    rw [Nat.div_eq_of_lt this]
    rfl
  · simp [BitVec.toNat_ushiftRight, Nat.shiftRight_eq_div_pow]

/-- A shift of a 32-bit number by 32 or more leaves its sign. -/
theorem toInt_div_two_pow_min (a : Word) (n : Nat) : a.toInt / 2 ^ min n 32 = a.toInt / 2 ^ n := by
  rcases Nat.le_total n 32 with h | h
  · rw [Nat.min_eq_left h]
  · have hp : (2 : Int) ^ 32 ≤ 2 ^ n := pow_le_pow_right₀ (by decide) h
    have hlt : a.toInt < 2 ^ 31 := BitVec.toInt_lt
    have hge : -2 ^ 31 ≤ a.toInt := BitVec.le_toInt a
    rw [Nat.min_eq_right h]
    rcases lt_or_ge a.toInt 0 with hs | hs
    · rw [Int.ediv_eq_neg_one_of_neg_of_le hs (by omega), Int.ediv_eq_neg_one_of_neg_of_le hs (by omega)]
    · rw [Int.ediv_eq_zero_of_lt hs (by omega), Int.ediv_eq_zero_of_lt hs (by omega)]

theorem toNat_sar32 (a n : Nat) : (sar32 (w32 a) n).toNat = ((w32 a).toInt / 2 ^ n % 2 ^ 32).toNat := by
  have h : (sar32 (w32 a) n).toInt = (w32 a).toInt / 2 ^ n := by
    rw [sar32, BitVec.toInt_sshiftRight, Int.shiftRight_eq_div_pow, ← toInt_div_two_pow_min]
    norm_cast
  have hs := congrArg BitVec.toNat (BitVec.ofInt_toInt (x := sar32 (w32 a) n))
  rw [BitVec.toNat_ofInt, h] at hs
  exact hs.symm

/-- The two parts of a rotation share no bit. -/
theorem shiftLeft_mod_or_shiftRight {w r x : Nat} (hr : r ≤ w) (hx : x < 2 ^ w) :
    x <<< r % 2 ^ w ||| x >>> (w - r) = (x * 2 ^ r + x / 2 ^ (w - r)) % 2 ^ w := by
  have hw : 2 ^ w = 2 ^ r * 2 ^ (w - r) := by rw [← pow_add, Nat.add_sub_cancel' hr]
  have hlow : x / 2 ^ (w - r) < 2 ^ r := Nat.div_lt_of_lt_mul (by rwa [Nat.mul_comm, ← hw])
  have hhigh : x * 2 ^ r % 2 ^ w = 2 ^ r * (x % 2 ^ (w - r)) := by rw [hw, Nat.mul_comm x, Nat.mul_mod_mul_left]
  have hsum : 2 ^ r * (x % 2 ^ (w - r)) + x / 2 ^ (w - r) < 2 ^ w := by
    calc 2 ^ r * (x % 2 ^ (w - r)) + x / 2 ^ (w - r) < 2 ^ r * (x % 2 ^ (w - r) + 1) := by rw [Nat.mul_succ]; omega
      _ ≤ 2 ^ w := by rw [hw]; exact Nat.mul_le_mul_left _ (Nat.mod_lt x (Nat.two_pow_pos (w - r)))
  have hle : 2 ^ r ≤ 2 ^ w := Nat.pow_le_pow_right (by decide) hr
  rw [Nat.shiftLeft_eq, Nat.shiftRight_eq_div_pow, Nat.add_mod, hhigh, ← Nat.two_pow_add_eq_or_of_lt hlow,
    Nat.mod_eq_of_lt (lt_of_lt_of_le hlow hle), Nat.mod_eq_of_lt hsum]

theorem toNat_rotateLeft_eq {w : Nat} (x : BitVec w) {r : Nat} (hr : r < w) :
    (x.rotateLeft r).toNat = (x.toNat * 2 ^ r + x.toNat / 2 ^ (w - r)) % 2 ^ w := by
  rw [BitVec.toNat_rotateLeft, Nat.mod_eq_of_lt hr, shiftLeft_mod_or_shiftRight hr.le x.isLt]

theorem toNat_rotateRight_eq {w : Nat} (x : BitVec w) {r : Nat} (hr : r < w) :
    (x.rotateRight r).toNat = (x.toNat / 2 ^ r + x.toNat * 2 ^ (w - r)) % 2 ^ w := by
  have h := shiftLeft_mod_or_shiftRight (Nat.sub_le w r) x.isLt
  rw [Nat.sub_sub_self hr.le] at h
  rw [BitVec.toNat_rotateRight, Nat.mod_eq_of_lt hr, Nat.lor_comm, h, Nat.add_comm]

/-- What `shift32` runs `aluOp` with. -/
def shiftValue (F : Word → Nat → Word) (o : Ops) (row : Row) (x : Src) : Nat := (F (w32 x.a) (shiftCount o (immOr o row x.b))).toNat

/-- An instruction of Table 5 that shifts one register by a count. -/
theorem Gives.shift (code : Nat) (F : Word → Nat → Word) {f : Ops → Instr} {v : Ops → Src → Nat} (h : IsAlu f code 1 (shiftValue F) := by exact {})
    (hv : ∀ o x, shiftValue F o (rowAt code o) x = v o x) : Gives (fun _ => 1) f v := h.gives hv

theorem funnel_eq (right zero : Bool) (a b c : Nat) :
    funnel right zero a b c = (let w := (b * 2 ^ 32 + a) % 2 ^ 64
      if zero then
        let n := min c 64
        if right then w / 2 ^ n % 2 ^ 32 else w * 2 ^ n % 2 ^ 64 / 2 ^ 32
      else
        let n := c % 64
        if right then (w / 2 ^ n + w * 2 ^ (64 - n)) % 2 ^ 64 % 2 ^ 32 else (w * 2 ^ n + w / 2 ^ (64 - n)) % 2 ^ 64 / 2 ^ 32) := by
  have hn : c % 64 < 64 := Nat.mod_lt _ (by decide)
  simp only [funnel, toNat_rotateRight_eq _ hn, toNat_rotateLeft_eq _ hn, BitVec.toNat_ofNat]

theorem toNat_rotate (right : Bool) (a b : Nat) :
    (if right then (w32 a).rotateRight (b % 32) else (w32 a).rotateLeft (b % 32)).toNat = (let x := a % 2 ^ 32
      let n := b % 32
      if right then (x / 2 ^ n + x * 2 ^ (32 - n)) % 2 ^ 32 else (x * 2 ^ n + x / 2 ^ (32 - n)) % 2 ^ 32) := by
  have hn : b % 32 < 32 := Nat.mod_lt _ (by decide)
  have hw : (w32 a).toNat = a % 2 ^ 32 := BitVec.toNat_ofNat _ _
  cases right
  · simp only [Bool.false_eq_true, if_false, toNat_rotateLeft_eq _ hn, hw]
  · simp only [if_true, toNat_rotateRight_eq _ hn, hw]

/-- R122, Table 5. -/
theorem shiftResult : ShiftResult :=
  givesResult_cons (.shift 0x018 shl32 (hv := fun _ _ => toNat_shl32 _ _)) <| givesResult_cons (.shift 0x03C shl32 (hv := fun _ _ => toNat_shl32 _ _)) <|
  givesResult_cons (.shift 0x019 shr32 (hv := fun _ _ => toNat_shr32 _ _)) <| givesResult_cons (.shift 0x03D shr32 (hv := fun _ _ => toNat_shr32 _ _)) <|
  givesResult_cons (.shift 0x01A sar32 (hv := fun _ _ => toNat_sar32 _ _)) <| givesResult_cons (.shift 0x03E sar32 (hv := fun _ _ => toNat_sar32 _ _)) <|
  givesResult_cons (IsAlu.gives (code := 0x01B) (g := fun o _ x => funnel (o.mod.getLsbD 13) (o.mod.getLsbD 14) x.a x.b x.c) {}
    (fun _ _ => funnel_eq _ _ _ _ _)) <|
  givesResult_cons (IsAlu.gives (code := 0x01C)
    (g := fun o _ x => (if o.mod.getLsbD 13 then (w32 x.a).rotateRight (x.b % 32) else (w32 x.a).rotateLeft (x.b % 32)).toNat) {}
    (fun _ _ => toNat_rotate _ _ _)) <| givesResult_nil _

/-! ## Bit fields and byte permutes -/

theorem permByte_eq_prmtByte (x : Src) (j : Nat) : permByte x.a x.b (x.c / 16 ^ j % 16) = prmtByte x j := by
  have h16 : 16 ^ j = 2 ^ (4 * j) := by rw [Nat.pow_mul]
  rw [h16]
  unfold permByte prmtByte byteAt
  generalize hs : x.c / 2 ^ (4 * j) % 16 = s
  have hlt : s < 16 := by omega
  have h3 : s.testBit 3 = decide (s / 8 = 1) := by
    rw [Nat.testBit_eq_decide_div_mod_eq, decide_eq_decide]
    omega
  have h2 : s.testBit 2 = decide (s / 4 % 2 = 1) := Nat.testBit_eq_decide_div_mod_eq
  have hp : 256 ^ (s % 4) = 2 ^ (8 * (s % 4)) := by rw [Nat.pow_mul]
  simp only [h3, h2, hp, decide_eq_true_eq]
  generalize hv : (if s / 8 = 1 then x.b else x.a) / 2 ^ (8 * (s % 4)) % 256 = v
  have h128 : 128 ≤ v ↔ v / 128 = 1 := by omega
  simp only [h128]

theorem foldl_add_range_four (d : Nat → Nat) : (List.range 4).foldl (fun r j => r + d j) 0 = d 0 + d 1 + d 2 + d 3 := by
  simp [List.range_succ]

theorem permute_eq (x : Src) : permute x.a x.b x.c = prmtByte x 0 + 2 ^ 8 * prmtByte x 1 + 2 ^ 16 * prmtByte x 2 + 2 ^ 24 * prmtByte x 3 := by
  simp only [permute, permByte_eq_prmtByte, foldl_add_range_four (fun j => prmtByte x j * 256 ^ j)]
  omega

theorem bitExtract_eq (t a v : Nat) :
    bitExtract (t = 3) a v = (let p := min (v % 256) 32
      let l := min (v / 256 % 256) 32
      let signed := t == 3
      let f := (if signed then (w32 a).toInt else (a : Int)) / 2 ^ p % 2 ^ l
      ((if signed ∧ 0 < l ∧ 2 ^ (l - 1) ≤ f then f - 2 ^ l else f) % 2 ^ 32).toNat) := by
  by_cases h : t = 3 <;> simp [bitExtract, fieldPos, fieldLen, h, w32, BitVec.toNat_ofInt]

/-- R123 and R124. -/
theorem fieldResult : FieldResult :=
  givesResult_cons (IsAlu.gives (code := 0x01D) (g := fun o row x => bitExtract (opType row o = 3) x.a x.b) {} (fun _ _ => bitExtract_eq _ _ _)) <|
  givesResult_cons (IsAlu.gives (code := 0x01E) (g := fun _ _ x => bitInsert x.a x.b x.c) {} (fun _ _ => rfl)) <|
  givesResult_cons (IsAlu.gives (code := 0x023) (g := fun _ _ x => permute x.a x.b x.c) {} (fun _ x => permute_eq x)) <| givesResult_nil _

/-- Settles O2: each instruction of R120 to R124 is run by `aluOp` with a value that equals its rule's, by the arithmetic of words. -/
theorem bitwiseResult : Obligations.BitwiseResult := ⟨logicResult, shiftResult, fieldResult⟩

end Sys2Proof.Proofs
end

section
/-!
PROOFS. Why O3 fails: under a type code that ISETB_I does not list, the model and the rule read the immediate in two ways (R84, R125).
-/
namespace Sys2Proof.Proofs

open Sys2Proof Sys2Proof.Machine Sys2Proof.Claims

/-- A destination of vector registers cannot hold two different values. -/
theorem resultIs_unique {t : State} {e : Env} {o : Ops} {w : Nat} {f g : Lane → Nat} (hf : t.resultIs e o w f) (hg : t.resultIs e o w g)
    (hc : o.vd.crew = false) {l : Lane} (hl : Executes e o l) {i : Nat} (hi : i < w) : wordAtIdx (f l) i = wordAtIdx (g l) i := by
  obtain ⟨x, hx, hxv⟩ := hf.1 hc l hl i hi
  obtain ⟨y, hy, hyv⟩ := hg.1 hc l hl i hi
  obtain rfl : x = y := Option.some.inj (hx.symm.trans hy)
  exact Option.some.inj (hxv.symm.trans hyv)

/-- What `isetb` runs `aluOp` with. -/
def isetbValue (o : Ops) (row : Row) (x : Src) : Nat :=
  let ty := opType row o
  let b := if row.form = .i then (if wideType ty then (immSext o).toNat else o.imm.toNat) else x.b
  putBit x.d (modField o.mod 18 14) (cmpInt (modField o.mod 12 10) (Machine.intOf ty x.a) (Machine.intOf ty b))

theorem isAlu_isetbI : IsAlu .isetbI 0x036 1 isetbValue := {}

/-- The rule of ISETB_I (R125). -/
def isetbIRule (o : Ops) (x : Src) : Nat :=
  withBit x.d (modBits o 18 14) (cmpRule (modBits o 12 10) (asType (typeOf 3 o) x.a) (immType (typeOf 3 o) o))

theorem isetbI_mem_bitRules : (Instr.isetbI, isetbIRule) ∈ bitRules := List.mem_cons_of_mem _ List.mem_cons_self

/-- ISETB_I under `.b64` (type code 12), which its entry does not list: bit 0 of v2 becomes (v1, v0) = 0x8000_0000. -/
def unlistedOps : Ops := { noOps with len := .w128, vd := ⟨false, 2⟩, mod := 12, imm := 0x80000000 }

/-- A pass of the first thread of a crew that has been placed. -/
def unlistedPass : Pass := { crew := ⟨1, 0, 0⟩, lanes := [0], pc := 0, num := 1, defer := false, collective := false }

/-- The thread's v0 holds 0x8000_0000, every other register 0. -/
def unlistedState : State :=
  { (State.reset.withFetchWord 128 0).modThread ⟨1, 0, 0, 0⟩ (fun t => { t with regs := t.regs.set 0 0x80000000 }) with focus := .pass unlistedPass }

theorem unlisted_env : (unlistedState.env? unlistedPass 0x036 unlistedOps).isSome = true := by decide +kernel

def unlistedEnv : Env := (unlistedState.env? unlistedPass 0x036 unlistedOps).get unlisted_env

theorem unlisted_issues : Issues unlistedState unlistedPass 0x036 unlistedOps noFaults unlistedEnv where
  focus := rfl
  env := (Option.some_get _).symm
  nodup := by decide
  clean := by decide +kernel
  runs := by decide +kernel

theorem unlisted_lane : ∃ l ∈ unlistedEnv.lanes unlistedOps, l.exec = true ∧ l.src = ⟨0x80000000, 0, 0, 0, 0, false⟩ := by decide +kernel

/-- The rule compares with 0x8000_0000, the model with the immediate sign-extended to 64 bits. -/
theorem isetbIRule_ne_isetbValue : wordAtIdx (isetbIRule unlistedOps ⟨0x80000000, 0, 0, 0, 0, false⟩) 0
    ≠ wordAtIdx (isetbValue unlistedOps (rowAt 0x036 unlistedOps) ⟨0x80000000, 0, 0, 0, 0, false⟩) 0 := by decide +kernel

/-- Refutes O3: it quantifies over operands that are no instruction too, and ISETB_I under `.b64` sign-extends an immediate that the rule reads
as it stands. -/
theorem not_bitMoveResult : ¬ Obligations.BitMoveResult := by
  intro h
  obtain ⟨hbit, -⟩ := h
  obtain ⟨l, hl, hexec, hsrc⟩ := unlisted_lane
  obtain ⟨t, ht, hrule⟩ := hbit _ _ isetbI_mem_bitRules _ _ _ _ _ (isAlu_isetbI.opcode _) unlisted_issues
  obtain ⟨u, hu, hmodel⟩ := isAlu_isetbI.result _ _ _ _ _ (isAlu_isetbI.opcode _) unlisted_issues
  obtain rfl : t = u := Host.Outcome.next.inj (ht.symm.trans hu)
  have heq := resultIs_unique hrule hmodel rfl ⟨hl, hexec⟩ Nat.zero_lt_one
  rw [hsrc] at heq
  exact isetbIRule_ne_isetbValue heq

end Sys2Proof.Proofs
end

section
/-!
PROOFS. A result of which a statement names only the lowest registers: FRND and FSCALE write as many as the width of their type code says, listed or not
(R75, R148).
-/
namespace Sys2Proof.Proofs

open Sys2Proof Sys2Proof.Machine Sys2Proof.Claims

/-! ## The crew registers that a pass writes (R50) -/

theorem kregs_writeResult (s : State) (e : Env) (l : Lane) {r : Reg} (hr : r.crew = true) (w v due : Nat) (p : Bool) :
    ((s.writeResult e l r w v due p).crew? l.ref.crew).map Crew.kregs
      = ((s.crew? l.ref.crew).map Crew.kregs).map (fun k => fileWrites k (resultWords r w v)) := by
  rw [State.writeResult_crew s e l r hr]
  simp [Function.comp_def, Crew.kregs_fold]

/-- The crew's registers after the results of the lanes `ls`, in their order. -/
def laneWrites (r : Reg) (w : Nat) (f : Lane → Nat) (k : List Word) (ls : List Lane) : List Word :=
  ls.foldl (fun k l => fileWrites k (resultWords r w (f l))) k

theorem laneWrites_length (r : Reg) (w : Nat) (f : Lane → Nat) (k : List Word) (ls : List Lane) : (laneWrites r w f k ls).length = k.length :=
  fold_keeps List.length _ (fun _ _ => fileWrites_length _ _) ls k

theorem kregs_foldl_writeResult (e : Env) {r : Reg} (hr : r.crew = true) (w due : Nat) (f : Lane → Nat) (p : Lane → Bool) {c : CRef} {ls : List Lane}
    (hc : ∀ l ∈ ls, l.ref.crew = c) (s : State) :
    ((ls.foldl (fun (u : State) l => u.writeResult e l r w (f l) due (p l)) s).crew? c).map Crew.kregs
      = ((s.crew? c).map Crew.kregs).map (fun k => laneWrites r w f k ls) := by
  induction ls generalizing s with
  | nil => rw [Option.map_map]; rfl
  | cons l ls ih =>
    have h := kregs_writeResult s e l hr w (f l) due (p l)
    rw [hc l List.mem_cons_self] at h
    rw [List.foldl_cons, ih (fun m hm => hc m (List.mem_cons_of_mem _ hm)), h, Option.map_map]
    rfl

/-- In each register of the destination that the crew has, the word of the highest lane's value stands (R50). -/
theorem results_fixed_crew {s : State} {e : Env} {o : Ops} {n w : Nat} {f : Lane → Nat} {ls : List Lane} {c : CRef} {x : Crew} {l : Lane}
    (hl : e.row.lat = some n) (hw : w ≤ 128) (hcr : o.vd.crew = true) (hc : ∀ m ∈ ls, m.ref.crew = c)
    (hx : (s.crew? c).map Crew.kregs = some x.kregs) (hlast : ls.getLast? = some l) {i : Nat} (hi : i < w)
    (hr : (o.vd.num + BitVec.ofNat 7 i).toNat < x.kregs.length) :
    ∃ y, (s.results e o ls (fun l => [⟨o.vd, w, f l⟩])).crew? c = some y ∧ y.kregs[(o.vd.num + BitVec.ofNat 7 i).toNat]? = some (wordAtIdx (f l) i) := by
  obtain ⟨ini, rfl⟩ := List.getLast?_eq_some_iff.mp hlast
  have hk : ((s.results e o (ini ++ [l]) (fun l => [⟨o.vd, w, f l⟩])).crew? c).map Crew.kregs
      = some (fileWrites (laneWrites o.vd w f x.kregs ini) (resultWords o.vd w (f l))) := by
    simp only [State.results, hl, List.foldl_cons, List.foldl_nil]
    rw [State.flagPends_kregs, kregs_foldl_writeResult e hcr w (e.cyc + n) f (fun l => resultPoison e l o.vd) hc, hx]
    simp [laneWrites]
  obtain ⟨y, hy, hyk⟩ := Option.map_eq_some_iff.mp hk
  refine ⟨y, hy, ?_⟩
  rw [hyk]
  exact fileWrites_mem _ _ _ _ (resultWords_nodup _ _ _ hw) (resultWords_mem _ _ _ _ hi) (by rwa [laneWrites_length])

/-! ## What `aluOp` answers -/

theorem crew_of_mem_lanes {e : Env} {o : Ops} {l : Lane} (h : l ∈ e.lanes o) : l.ref.crew = e.pass.crew := by
  obtain ⟨n, -, hr, -⟩ := Env.mem_lanes h
  rw [hr]
  rfl

/-- Of the `w` registers that an instruction writes, the lowest `m` hold the low words of its value (R46, R47, R50, R113). -/
theorem aluOp_result_low {s : State} {p : Pass} {code : Nat} {o : Ops} {e : Env} (h : Issues s p code o noFaults e) (f : Row → Src → Nat)
    {n w m : Nat} {a b : Bool} {k : OpKind} (hl : e.row.lat = some n) (hv : e.row.vd = .reg a b w k) (hw : w ≤ 128) (hm : m ≤ w) :
    ∃ t, aluOp code o f s = .next t ∧ t.resultIs e o m (fun l => f e.row l.src) := by
  obtain ⟨t, ht, hvec, -⟩ := aluOp_result h f hl hv hw
  refine ⟨t, ht, fun hcr l hex i hi => hvec hcr l hex i (by omega), fun hcr hr l hlast i hi => ?_⟩
  obtain rfl := Host.Outcome.next.inj (ht.symm.trans (h.run _))
  obtain ⟨hcrew, hp⟩ := h.crew
  have hkregs := h.kregs (code != 0x0CB) p.crew
  rw [hcrew, ← hp] at hkregs
  have hwd : e.row.vd.width = w := by rw [hv]; rfl
  obtain ⟨y, hy, hyr⟩ := results_fixed_crew hl hw hcr (fun m hm => crew_of_mem_lanes (List.mem_filter.mp hm).1) hkregs hlast
    (f := fun l => f e.row l.src) (by omega) (hr i hi)
  refine ⟨y, ?_, hyr⟩
  rw [State.crew_of_groups (State.sampleDone_groups _ _), hwd]
  exact hy

end Sys2Proof.Proofs
end

section
/-!
PROOFS. FP32 arithmetic, minimum and maximum, compares, classes, IDP4, rounding and scaling (R143 to R148, R153).
-/
namespace Sys2Proof.Proofs

open Sys2Proof Sys2Proof.Machine Sys2Proof.Claims

/-! ## Sources and single bits (R128, R143, R146) -/

theorem srcMod_eq_srcVal (o : Ops) (T : Fmt) (n v : Nat) : srcMod o T n v = srcVal o T n v := by
  unfold srcMod srcVal Fmt.withSign modBit
  rw [Nat.testBit_eq_decide_div_mod_eq]
  cases o.mod.getLsbD (16 + n) <;> cases o.mod.getLsbD (13 + n) <;> simp

theorem putBit_eq_withBit {b : Nat} (hb : b < 32) (d : Nat) (v : Bool) : putBit d b v = withBit d b v := by
  refine congrArg BitVec.toNat (BitVec.eq_of_getLsbD_eq fun i hi => ?_)
  rw [getLsbD_ofBits32 _ hi, Nat.mod_eq_of_lt hb]
  have hm : (BitVec.ofNat 32 (2 ^ b)).getLsbD i = decide (i = b) := by
    rw [BitVec.getLsbD_ofNat, Nat.testBit_two_pow, decide_eq_true hi, Bool.true_and]
    simp only [eq_comm]
  cases v with
  | true =>
    rw [if_pos rfl, BitVec.getLsbD_or, hm]
    by_cases h : i = b <;> simp [h, w32]
  | false =>
    rw [if_neg Bool.false_ne_true, BitVec.getLsbD_and, BitVec.getLsbD_not, hm]
    by_cases h : i = b <;> simp [h, hi, w32]

/-! ## Arithmetic (R144) -/

theorem withSign_lt_two_pow (neg : Bool) {c : Nat} (hc : c < 2 ^ 31) : f32Fmt.withSign neg c < 2 ^ 32 := by
  have hs : f32Fmt.signBit = 31 := rfl
  cases neg <;> simp [Fmt.withSign, hs] <;> omega

theorem infCode_lt_two_pow (neg : Bool) : f32Fmt.infCode neg < 2 ^ 32 := withSign_lt_two_pow neg (c := 0x7F800000) (by decide)

theorem overflow_lt_two_pow (mode : Nat) (neg sat : Bool) : f32Fmt.overflow mode neg sat < 2 ^ 32 := by
  unfold Fmt.overflow
  split
  · exact withSign_lt_two_pow neg (by decide)
  · exact infCode_lt_two_pow neg

theorem roundReal_lt_two_pow (mode : Nat) (sat neg : Bool) (n : Nat) (e : Int) (sticky : Bool) : f32Fmt.roundReal mode sat neg n e sticky < 2 ^ 32 := by
  have hmax : f32Fmt.maxCode < 2 ^ 31 := by decide
  unfold Fmt.roundReal
  dsimp only
  generalize f32Fmt.magCode _ _ = c
  split
  · exact overflow_lt_two_pow mode neg sat
  · exact withSign_lt_two_pow neg (by omega)

theorem round_lt_two_pow (mode : Nat) (x : Val) : f32Fmt.round mode false x < 2 ^ 32 := by
  cases x with
  | nan => exact (by decide : f32Fmt.nanCode < 2 ^ 32)
  | inf neg => exact infCode_lt_two_pow neg
  | fin neg m e => exact roundReal_lt_two_pow mode false neg m e false

/-- The sign and the magnitude of an FP32 encoding by the value that it stands for (R95, R96). -/
theorem f32_val_spec (c : Nat) : match f32Fmt.val c with
    | .nan => 0x7F800000 < c % 2 ^ 31
    | .inf neg => c % 2 ^ 31 = 0x7F800000 ∧ neg = c.testBit 31
    | .fin neg m _ => c % 2 ^ 31 < 0x7F800000 ∧ neg = c.testBit 31 ∧ (m = 0 ↔ c % 2 ^ 31 = 0) := by
  generalize hv : f32Fmt.val c = v
  unfold Fmt.val at hv
  dsimp only at hv
  split at hv
  case isTrue hmax =>
    replace hmax : c % 2 ^ 31 ≤ 0x7F7FFFFF := hmax
    split at hv
    · subst hv
      exact ⟨by omega, rfl, Iff.rfl⟩
    case isFalse he =>
      replace he : ¬ c % 2 ^ 31 / 2 ^ 23 = 0 := he
      subst hv
      exact ⟨by omega, rfl, iff_of_false (Nat.ne_of_gt (Nat.lt_add_left _ (Nat.two_pow_pos _))) (by omega)⟩
  case isFalse hmax =>
    replace hmax : ¬ c % 2 ^ 31 ≤ 0x7F7FFFFF := hmax
    split at hv
    case isTrue hinf =>
      subst hv
      exact ⟨(Option.some.inj hinf).symm, rfl⟩
    case isFalse hinf =>
      replace hinf : ¬ 0x7F800000 = c % 2 ^ 31 := fun h => hinf (congrArg some h)
      subst hv
      change 0x7F800000 < c % 2 ^ 31
      omega

theorem clampCode_eq_clampTo {r : Nat} (hr : r < 2 ^ 32) : f32Fmt.clampCode r = clampTo f32Fmt r := by
  have hone : f32Fmt.bias * 2 ^ f32Fmt.frac = 0x3F800000 := rfl
  have hinf : f32Fmt.inf.getD f32Fmt.maxCode = 0x7F800000 := rfl
  have hsign : f32Fmt.signBit = 31 := rfl
  have hspec := f32_val_spec r
  simp only [Fmt.clampCode, clampTo, hone, hinf, hsign]
  cases hv : f32Fmt.val r with
  | nan =>
    rw [hv] at hspec
    exact (if_pos hspec).symm
  | inf neg =>
    rw [hv, Nat.testBit_eq_decide_div_mod_eq] at hspec
    obtain ⟨hmag, rfl⟩ := hspec
    simp only [decide_eq_true_eq]
    split_ifs <;> omega
  | fin neg m e =>
    rw [hv, Nat.testBit_eq_decide_div_mod_eq] at hspec
    obtain ⟨hmag, rfl, hzero⟩ := hspec
    simp only [Bool.or_eq_true, decide_eq_true_eq, hzero]
    split_ifs <;> omega

theorem apply_eq_fpRule (op : FpOp) (o : Ops) (a b c : Nat) :
    op.apply f32Fmt (roundCode o) (satMod o) a b c = fpRule o f32Fmt (op.exact (modBits o 12 10) (f32Fmt.val a) (f32Fmt.val b) (f32Fmt.val c)) := by
  simp only [FpOp.apply, fpRule, clampCode_eq_clampTo (round_lt_two_pow _ _)]
  rfl

/-- What `fp32` runs `aluOp` with. -/
def fp32Value (op : FpOp) (o : Ops) (row : Row) (x : Src) : Nat :=
  op.apply f32Fmt (roundCode o) (satMod o) (srcMod o f32Fmt 1 x.a) (srcMod o f32Fmt 2 (if op = .fma then x.b else immOr o row x.b))
    (srcMod o f32Fmt 3 (immOr o row x.c))

/-- The rule of R144 for the sources `b` and `c` behind the first. -/
def fp32Rule (op : FpOp) (o : Ops) (a b c : Nat) : Nat :=
  fpRule o f32Fmt (op.exact (modBits o 12 10) (f32Fmt.val (srcVal o f32Fmt 1 a)) (f32Fmt.val (srcVal o f32Fmt 2 b)) (f32Fmt.val (srcVal o f32Fmt 3 c)))

theorem fp32Value_eq_fp32Rule (op : FpOp) (o : Ops) (row : Row) (x : Src) :
    fp32Value op o row x = fp32Rule op o x.a (if op = .fma then x.b else immOr o row x.b) (immOr o row x.c) := by
  simp only [fp32Value, apply_eq_fpRule, srcMod_eq_srcVal, fp32Rule]

/-- An instruction of Table 3's arithmetic; its sum, product or fused sum is `FpOp.exact` by definition. -/
theorem Gives.fp32 (code : Nat) (op : FpOp) {f : Ops → Instr} {v : Ops → Src → Nat} (h : IsAlu f code 1 (fp32Value op) := by exact {})
    (hv : ∀ o x, fp32Rule op o x.a (if op = .fma then x.b else immOr o (rowAt code o) x.b) (immOr o (rowAt code o) x.c) = v o x := by intros; rfl) :
    Gives (fun _ => 1) f v :=
  h.gives (fun o x => (fp32Value_eq_fp32Rule op o (rowAt code o) x).trans (hv o x))

/-! ## Minimum, maximum, compares and classes (R145 to R147) -/

theorem isNan_eq_decide (T : Fmt) (c : Nat) : T.isNan c = decide (T.val c = .nan) := by
  rw [Fmt.isNan, beq_eq_decide]

theorem fpMinMax_eq_minMaxRule (T : Fmt) (greater : Bool) (a b : Nat) : fpMinMax T greater a b = minMaxRule T greater a b := by
  unfold fpMinMax minMaxRule
  rw [isNan_eq_decide, isNan_eq_decide]
  by_cases ha : T.val a = .nan <;> by_cases hb : T.val b = .nan <;> simp only [ha, hb, decide_true, decide_false, and_true, and_false, if_true, if_false]
  cases greater <;> by_cases hk : T.key a < T.key b <;> simp [hk]

theorem fpCmp_eq_fcmpRule (T : Fmt) (c a b : Nat) : fpCmp T c a b = fcmpRule T c a b := by
  unfold fpCmp fcmpRule
  rw [isNan_eq_decide, isNan_eq_decide, ← Bool.decide_or]
  split <;> simp [beq_eq_decide, bne]

theorem fpClass_eq_classRule (T : Fmt) (c : Nat) : fpClass T c = classRule T c := by
  unfold fpClass classRule
  rw [Nat.testBit_eq_decide_div_mod_eq]
  cases T.val c with
  | nan => rcases Nat.mod_two_eq_zero_or_one (c / 2 ^ (T.frac - 1)) with h | h <;> simp [h]
  | inf neg => cases neg <;> rfl
  | fin neg m e => cases neg <;> rfl

/-- What `fp32MinMax` runs `aluOp` with. -/
def minMaxValue (greater : Bool) (o : Ops) (row : Row) (x : Src) : Nat :=
  fpMinMax f32Fmt greater (srcMod o f32Fmt 1 x.a) (srcMod o f32Fmt 2 (immOr o row x.b))

/-- FMIN or FMAX in one of its forms. -/
theorem Gives.minMax (code : Nat) (greater : Bool) {f : Ops → Instr} {v : Ops → Src → Nat} (h : IsAlu f code 1 (minMaxValue greater) := by exact {})
    (hv : ∀ o x, minMaxRule f32Fmt greater (srcVal o f32Fmt 1 x.a) (srcVal o f32Fmt 2 (immOr o (rowAt code o) x.b)) = v o x := by intros; rfl) :
    Gives (fun _ => 1) f v :=
  h.gives (fun o x => by rw [← hv, minMaxValue, fpMinMax_eq_minMaxRule, srcMod_eq_srcVal, srcMod_eq_srcVal])

/-- What `fpSetb` runs `aluOp` with. -/
def fsetbValue (o : Ops) (row : Row) (x : Src) : Nat :=
  putBit x.d (modField o.mod 9 5) (fpCmp f32Fmt (modField o.mod 16 14) (srcAbs o f32Fmt 1 x.a) (srcAbs o f32Fmt 2 (immOr o row x.b)))

/-- FSETB in one of its forms. -/
theorem Gives.fsetb (code : Nat) {f : Ops → Instr} {v : Ops → Src → Nat} (h : IsAlu f code 1 fsetbValue := by exact {})
    (hv : ∀ o x, withBit x.d (modBits o 9 5) (fcmpRule f32Fmt (modBits o 16 14) (absVal o f32Fmt 1 x.a) (absVal o f32Fmt 2 (immOr o (rowAt code o) x.b)))
      = v o x := by intros; rfl) :
    Gives (fun _ => 1) f v :=
  h.gives (fun o x => by
    have hb : modField o.mod 9 5 < 32 := Nat.mod_lt _ (by decide)
    rw [← hv, fsetbValue, putBit_eq_withBit hb, fpCmp_eq_fcmpRule]
    rfl)

/-- What `execFclass` runs `aluOp` with. -/
def fclassValue (o : Ops) (row : Row) (x : Src) : Nat := fpClass (fmtOf (opType row o)) (x.a % 2 ^ ((fmtOf (opType row o)).signBit + 1))

theorem fclass_gives : Gives (fun _ => 1) .fclass (fun o x => classRule (fmtOp o) (x.a % 2 ^ ((fmtOp o).signBit + 1))) :=
  IsAlu.gives (code := 0x046) (g := fclassValue) {} (fun _ _ => fpClass_eq_classRule _ _)

/-! ## IDP4 (R153) -/

theorem foldl_add_range_eq_sum (d : Nat → Int) (c : Int) (js : List Nat) : js.foldl (fun n j => n + d j) c = c + (js.map d).sum := by
  induction js generalizing c with
  | nil => simp
  | cons j js ih => simp [ih, add_assoc]

theorem byteAt_eq_byteAs (t v j : Nat) : (if t = 1 then (BitVec.ofNat 8 (byteAt v j)).toInt else (byteAt v j : Int)) = byteAs t v j := by
  have h : BitVec.ofNat 8 (byteAt v j) = BitVec.ofNat 8 (v / 256 ^ j) := BitVec.eq_of_toNat_eq (by simp [byteAt])
  rw [h]
  rfl

theorem idp4_eq (ta tb : Nat) (sat : Bool) (a b c : Nat) : idp4 ta tb sat a b c = (let s := ta == 1 || tb == 1
    fit32 s sat (ext s c + ((List.range 4).map (fun j => byteAs ta a j * byteAs tb b j)).sum)) := by
  have hs : ((if (decide (ta = 1) || decide (tb = 1)) = true then 3 else 7) == 3) = (ta == 1 || tb == 1) := by
    by_cases ha : ta = 1 <;> by_cases hb : tb = 1 <;> simp [ha, hb]
  simp only [idp4, narrow32_eq_fit32, ext32_eq_ext, byteAt_eq_byteAs, foldl_add_range_eq_sum, hs]

/-- What `execIdp4` runs `aluOp` with. -/
def idp4Value (o : Ops) (row : Row) (x : Src) : Nat := idp4 (opType row o) (effType (modField o.mod 9 5) row.ty2) (satMod o) x.a x.b x.c

theorem idp4_gives : Gives (fun _ => 1) .idp4 (fun o x =>
    let s := typeOf 1 o == 1 || typeOf2 1 o == 1
    fit32 s (modBit o 13) (ext s x.c + ((List.range 4).map (fun j => byteAs (typeOf 1 o) x.a j * byteAs (typeOf2 1 o) x.b j)).sum)) :=
  IsAlu.gives (code := 0x054) (g := idp4Value) {} (fun _ _ => idp4_eq _ _ _ _ _ _)

/-- R144 to R147 and R153. -/
theorem fp32Result : Fp32Result :=
  givesResult_cons (.fp32 0x040 .add) <| givesResult_cons (.fp32 0x070 .add) <| givesResult_cons (.fp32 0x041 .mul) <|
  givesResult_cons (.fp32 0x071 .mul) <| givesResult_cons (.fp32 0x042 .fma) <| givesResult_cons (.fp32 0x072 .fma) <|
  givesResult_cons (.minMax 0x043 false) <| givesResult_cons (.minMax 0x073 false) <| givesResult_cons (.minMax 0x044 true) <|
  givesResult_cons (.minMax 0x074 true) <| givesResult_cons (.fsetb 0x045) <| givesResult_cons (.fsetb 0x075) <|
  givesResult_cons fclass_gives <| givesResult_cons idp4_gives <| givesResult_nil _

/-! ## Rounding and scaling (R148) -/

theorem fpRound_eq_rndRule (o : Ops) (T : Fmt) (a : Nat) : fpRound T (roundCode o) a = rndRule o T a := by
  unfold fpRound rndRule
  cases T.val a <;> rfl

theorem fpScale_eq_scaleRule (o : Ops) (T : Fmt) (a : Nat) (n : Int) : fpScale T (roundCode o) a n = scaleRule o T a n := by
  unfold fpScale scaleRule
  cases T.val a <;> rfl

theorem typeWidth_le (t : Nat) : typeWidth t ≤ 128 := by
  unfold typeWidth
  split_ifs <;> decide

/-- The width that R148 gives the destination is at most that of the type code, also of one that the entry does not list. -/
theorem pairWidth_le_typeWidth (t : Nat) : (if t = 14 then 2 else 1) ≤ typeWidth t := by
  by_cases h : t = 14
  · subst h
    decide
  · rw [if_neg h, typeWidth]
    split_ifs <;> decide

/-- An instruction of R148. -/
theorem Gives.rounding (code : Nat) {f : Ops → Instr} (g : Ops → Row → Src → Nat) {v : Ops → Src → Nat}
    (opcode : ∀ o, opcodeOf (f o) = some (code, o) := by intros; rfl) (entry : ∀ o, rowOf code o = some (rowAt code o) := by intros; rfl)
    (lat : ∀ o, (rowAt code o).lat = some 4 := by intros; rfl) (vd : ∀ o, (rowAt code o).vd = dAny (typeWidth (modBits o 4 0)) := by intros; rfl)
    (runs : ∀ o s, exec (f o) s = aluOp code o (g o) s := by intros; rfl) (hv : ∀ o x, g o (rowAt code o) x = v o x) :
    Gives (fun o => if modBits o 4 0 = 14 then 2 else 1) f v := by
  obtain rfl : (fun o => g o (rowAt code o)) = v := funext₂ hv
  intro o s p e c hop hi
  obtain rfl : code = c := by simpa [opcode] using hop
  have hrow : e.row = rowAt code o := Option.some.inj ((State.env_some hi.env).2.1.symm.trans (entry o))
  obtain ⟨t, ht, hr⟩ := aluOp_result_low hi (g o) (by rw [hrow, lat]) (by rw [hrow, vd]; rfl) (typeWidth_le _) (pairWidth_le_typeWidth _)
  rw [hrow] at hr
  exact ⟨t, (runs o s).trans ht, hr⟩

/-- What `execFrnd` and `execFscale` run `aluOp` with. -/
def frndValue (o : Ops) (row : Row) (x : Src) : Nat := fpRound (fmtOf (opType row o)) (roundCode o) (srcMod o (fmtOf (opType row o)) 1 x.a)
def fscaleValue (o : Ops) (row : Row) (x : Src) : Nat :=
  fpScale (fmtOf (opType row o)) (roundCode o) (srcMod o (fmtOf (opType row o)) 1 x.a) (BitVec.ofNat 32 x.b).toInt

/-- R148. -/
theorem roundResult : RoundResult :=
  givesResult_cons (.rounding 0x047 frndValue (hv := fun o _ => by rw [frndValue, fpRound_eq_rndRule, srcMod_eq_srcVal]; rfl)) <|
  givesResult_cons (.rounding 0x048 fscaleValue (hv := fun o _ => by rw [fscaleValue, fpScale_eq_scaleRule, srcMod_eq_srcVal]; rfl)) <| givesResult_nil _

/-- Settles O4: each instruction of R144 to R148 and R153 is run by `aluOp` with a value that equals its rule's; where a type code that no entry lists makes
FRND or FSCALE write more registers than the statement names, the lowest hold its value all the same. -/
theorem floatResult : Obligations.FloatResult := ⟨fp32Result, roundResult⟩

end Sys2Proof.Proofs
end

section
/-!
PROOFS. Why O9 fails: its passes have any number of lanes, but 32 is VOTE's answer for "no such lane" only where lanes are numbered 0 to 31 (R30, R161).
-/
namespace Sys2Proof.Proofs

open Sys2Proof Sys2Proof.Machine Sys2Proof.Claims

/-- What the statement gives a lane for VOTE. -/
def voteRule : Ops → List Lane → Lane → Option Nat := (laneRules[1]'(by decide)).2

theorem vote_mem_laneRules : (Instr.vote, voteRule) ∈ laneRules := List.getElem_mem (l := laneRules) (n := 1) (by decide)

/-- `VOTE.first v2, v0.0`. -/
def voteFirstOps : Ops := { noOps with len := .w96, vd := ⟨false, 2⟩, mod := 0x4000 }

theorem voteFirst_wellFormed : (Instr.vote voteFirstOps).wellFormed = true := by decide +kernel

/-- A pass of the first 34 threads of a crew that has been placed. -/
def overfullPass : Pass := { crew := ⟨1, 0, 0⟩, lanes := List.range 34, pc := 0, num := 1, defer := false, collective := false }

/-- Only the thread in lane 33 holds the bit voted on. -/
def overfullState : State :=
  { (State.reset.withFetchWord 96 0).modThread ⟨1, 0, 0, 33⟩ (fun t => { t with regs := t.regs.set 0 1 }) with focus := .pass overfullPass }

theorem overfull_env : (overfullState.env? overfullPass 0x089 voteFirstOps).isSome = true := by decide +kernel

def overfullEnv : Env := (overfullState.env? overfullPass 0x089 voteFirstOps).get overfull_env

theorem overfull_issues : Issues overfullState overfullPass 0x089 voteFirstOps noFaults overfullEnv where
  focus := rfl
  env := (Option.some_get _).symm
  nodup := by decide
  clean := by decide +kernel
  runs := by decide +kernel

/-- By the rule, lane 0 receives the lowest lane that holds the bit, 33. -/
theorem voteRule_overfull : ∃ l ∈ overfullEnv.lanes voteFirstOps, l.exec = true ∧ l.ref = ⟨1, 0, 0, 0⟩
    ∧ voteRule voteFirstOps ((overfullEnv.lanes voteFirstOps).filter (fun x => x.exec)) l = some 33 := by decide +kernel

/-- In the model no answer stands above 32: v2 of lane 0 becomes 32. -/
theorem exec_voteFirst_overfull : (match exec (.vote voteFirstOps) overfullState with
    | .next t => (t.thread? ⟨1, 0, 0, 0⟩).bind (fun x => x.regs[2]?)
    | _ => none) = some 32 := by decide +kernel

/-- Refutes O9: it quantifies over passes of more than 32 lanes too; in one of 34, where lane 33 alone holds the bit, VOTE.first gives 32 and not 33. -/
theorem not_laneResult : ¬ Obligations.LaneResult := by
  intro h
  obtain ⟨hexchange, -⟩ := h
  obtain ⟨l, hl, hexec, href, hrule⟩ := voteRule_overfull
  obtain ⟨t, ht, hlanes⟩ := hexchange _ _ vote_mem_laneRules _ _ _ _ _ voteFirst_wellFormed rfl overfull_issues
  obtain ⟨hgroup, -⟩ := hlanes l ⟨hl, hexec⟩
  obtain ⟨x, hx, hreg⟩ := hgroup 33 hrule 0 (by decide +kernel)
  have hmodel := exec_voteFirst_overfull
  rw [ht] at hmodel
  rw [href] at hx
  simp only [hx, Option.bind_some] at hmodel
  exact absurd (hmodel.symm.trans hreg) (by decide)

end Sys2Proof.Proofs
end
